-- ==== Sys2Proof/Word.lean ====
section
/-!
DEFINITION. The word types of the node: bytes, the fixed-width words of Table 0-1's notation, and the sparse map
in which every table, buffer and memory of the state is held.
-/

namespace Sys2Proof

/-- A byte (R4: multi-byte fields are stored little-endian, bytes are the unit). -/
abbrev Byte := BitVec 8

/-- The unsigned words of the manual's notation. -/
abbrev U8 := BitVec 8
abbrev U16 := BitVec 16
abbrev U32 := BitVec 32
abbrev U64 := BitVec 64

/-- A binary32 value, held as its bit pattern. -/
abbrev F32 := BitVec 32

/-- A string of bytes: a payload, a row, a chunk's contents. -/
abbrev Bytes := List (BitVec 8)

/-- A sparse map: key and value pairs, keys strictly rising. A key that is not listed is absent. -/
abbrev SMap (α : Type) := List (Nat × α)

end Sys2Proof
end

