-- ==== Sys2Proof/Syntax.lean ====
section
/-!
DEFINITION. The commands of the node: one constructor of `Instr` per row of the table of operations and events, with
the operands its environment supplies (an arriving packet, a sensor's sample, the outcome of a test). A row that acts on
an accepted command carries that command's acceptance number `cid` (R370).
-/

namespace Sys2Proof

/-- A repairable unit (Tables 15-2 and 15-21). -/
inductive RasUnit where
  | core (stack group phys : Nat)
  | merge (hub group phys : Nat)
  | rowGroup (slice group : Nat)
  | slice (slice : Nat)
  | stack (stack : Nat)
  | t0 (hub region : Nat)
  | lane (port lane : Nat)
  | port (port : Nat)
  | blane (link lane : Nat)
  | blink (link : Nat)
  | laneGroup (stack group : Nat)
  | bridge (lane : Nat)
  deriving DecidableEq, Repr

/-- An object held in T0, named when the block or region that holds it fails (Table 15-5). -/
inductive T0Obj where
  | stream (handle : Nat)
  | page (handle page : Nat)
  | context (hub slot : Nat)
  | indexRec (hub idx : Nat)
  | command (cid : Nat)
  | connection (conn : Nat)
  | chainEntry (idx : Nat)
  | event (idx : Nat)
  | parkStaging (handle page : Nat)
  | restStaging (handle page : Nat)
  | mapCopy
  deriving DecidableEq, Repr

/-- A match of an Oboe search (R217, R225): board position and entry address, key (4 times the KV head plus the probe), and
the stream, page and version its association record names. -/
structure OboeMatch where
  pos : Nat
  addr : Nat
  key : Nat
  stream : Nat
  page : Nat
  version : Nat
  deriving DecidableEq, Repr

/-- Union bounds the lead of a board group sends (R219, R228): KV head, the stream searched, a bound for each row. -/
structure UnionBound where
  kvh : Nat
  own : Nat
  us : List F32
  deriving DecidableEq, Repr

/-- A search window's run for one command: what the board group gives it (R225, R228). -/
structure SearchOp where
  cid : Nat
  peers : List OboeMatch
  bounds : List UnionBound
  deriving DecidableEq, Repr

/-- What every arriving packet carries (Tables 11-1, 11-2): the port (0–15 fabric, 16–19 board links, 20 management),
source address, whether the frame passes R414's checks on its own contents, UDP destination port, path label, the ECN CE
mark, the charged bytes of R482, the base header's fields (`rsvd`: some RSVD bit is set), the key number under which the
GCM tag verifies (none: under no key), and the arrival time in ns. -/
structure RxBase where
  port : Nat
  src : Nat
  frameOk : Bool
  dport : Nat
  label : Nat
  ce : Bool
  wireBytes : Nat
  sframe : Nat
  psn : Nat
  dcid : Nat
  rsvd : Bool
  keyph : Nat
  ord : Bool
  tc : Nat
  tgen : Nat
  tagKey : Option Nat
  now : Nat
  deriving DecidableEq, Repr

/-- The DATA type header, Table 11-5. -/
structure DataHdr where
  addr : Nat
  rgen : Nat
  region : Nat
  answers : Nat
  chainh : Nat
  offset : Nat
  av : Bool
  part : Nat
  last : Bool
  kind : Nat
  mlen : Nat
  pindex : Nat
  pcount : Nat
  msn : Nat
  deriving DecidableEq, Repr

/-- The ACK type header, Table 11-8; `bitmap` holds bit i for PSN NEWEST − i. -/
structure AckHdr where
  delay : Nat
  ce : Nat
  floor : Nat
  bitmap : Nat
  newest : Nat
  deriving DecidableEq, Repr

/-- The NAK type header, Table 11-9. -/
structure NakHdr where
  reason : Nat
  pindex : Nat
  msn : Nat
  npsn : Nat
  deriving DecidableEq, Repr

/-- The handshake header, Table 11-16. -/
structure HsHdr where
  evmask : Nat
  status : Nat
  mgmt : Bool
  ordreq : Bool
  mps : Nat
  gens : Nat
  scid : Nat
  deriving DecidableEq, Repr

/-- What a register write carries: its width in bytes (R5) and its data. -/
structure RegData where
  bytes : Nat
  word : Nat
  deriving DecidableEq, Repr

/-- A key-exchange block (Table 14-4, R566–R570): its fields, and what its certificate chain says: whether the
certificates verify, whether the chain ends at the Gwecen device root, SHA-384 of the key it ends at as a little-endian
number, the leaf's `NODE_ID`, and the validity all its certificates share. -/
structure Kx where
  kxver : Nat
  suite : Nat
  nonce : Bytes
  epk : Bytes
  chain : Bytes
  sig : Bytes
  chainOk : Bool
  gwecen : Bool
  root : Nat
  nodeId : Nat
  notBefore : Nat
  notAfter : Nat
  deriving DecidableEq, Repr

/-- The time type header, Table 11-19, with the local receive time in units of 2^−16 ns. -/
structure TimeHdr where
  corr : Int
  seq : Nat
  sub : Nat
  bint : Nat
  trx : Int
  deriving DecidableEq, Repr

/-- One unit's hottest valid sample in a base interval, in sixteenths of a degree (R43, R718); `none`: no valid sample.
Units 0–23 are stacks, 24 and 25 are hubs. -/
structure Temp where
  unit : Nat
  sample : Option Int
  deriving DecidableEq, Repr

/-- A board peer's admission outcome for one group-striped command (R538): the context and tag of the
command, whether the member defers it, and its service frame there. -/
structure PeerOutcome where
  pos : Nat
  ctx : Nat
  tag : Nat
  defers : Bool
  service : Nat
  deriving DecidableEq, Repr

/-- Which sector a read reads: the command or job it is for, its slice, chunk and sector. -/
structure SectorReq where
  cid : Nat
  slice : Nat
  chunk : Nat
  sector : Nat
  deriving DecidableEq, Repr

/-- A stored sector (Table 7-6), with its cryptography symbolic: the key's number, the tweak, the physical sector
address the tag binds, the metadata word of Table 7-8, and the sector data. -/
structure Sector where
  key : Nat
  tweak : Nat
  addr : Nat
  info : Nat
  plain : Bytes
  deriving DecidableEq, Repr

/-- What the DRAM returns for a sector: what is stored, the same with symbols in error (of the sector's 566, with what is
added to each: R262), or what an earlier write left there or at another place (R557, R561). -/
inductive DramFault where
  | none
  | flips (errs : List (Nat × Nat))
  | replaced (y : Sector)
  deriving DecidableEq, Repr

/-- A Piccolo task (R270) of a command on a slice: `u` is the row's index among the command's rows on the slice,
`block` a block of 16 positions, `chain` a chain of o, `page` an index in the slice's page list; for a recurrent state
`state` is its index among the command's states on the slice and `col` a column, which takes its next token. -/
inductive TaskKind where
  | score (page u block : Nat)
  | exps (page u : Nat)
  | accum (page u chain block : Nat)
  | column (state col : Nat)
  | write
  deriving DecidableEq, Repr

/-- An operation on a queue's free or full counter (R278, R279). -/
inductive CreditOp where
  | wait (queue : Nat) (full : Bool) (n : Nat)
  | take (queue : Nat) (full : Bool) (n : Nat)
  | give (queue : Nat) (full : Bool) (n : Nat)
  deriving DecidableEq, Repr

/-- A request to the scratchpad port (R288–R290, R292): engine, word, whether it writes and what, and how many bits of the word are
in error when it is read. -/
structure PadReq where
  engine : Nat
  word : Nat
  write : Bool
  data : U64
  flips : Nat
  deriving DecidableEq, Repr

/-- A task at its commit: command, kind, the credit operations of the core's engines during it, and the scratchpad accesses
requested in each of its cycles (R290). -/
structure TaskOp where
  cid : Nat
  kind : TaskKind
  credits : List CreditOp
  pad : List (List PadReq)
  deriving DecidableEq, Repr

/-- A board peer's partial records for a group-striped command (R144): its position and the body it sent. -/
structure PeerRecord where
  pos : Nat
  body : Bytes
  late : Bool
  deriving DecidableEq, Repr

/-- Strap levels on the lands (Table 17-2). -/
structure Straps where
  pos : Nat
  gsize : Nat
  free : Bool
  leadSel : Bool
  sbAddr : Nat
  deriving DecidableEq, Repr

/-- What spring finds (Table 16-6): the last step the package completes (8: all), whether hub SRAM passes, the units that
fail their tests, entropy health, T2 mount per hub, the ports whose links come up with the lanes that pass and the partner's
lane-map capability, and what each board peer reports: its wired position, straps, variant and `NODE_ID`. -/
structure Boot where
  last : Nat
  hub0Ok : Bool
  hub1Ok : Bool
  failing : List RasUnit
  entropyOk : Bool
  t2Ok0 : Bool
  t2Ok1 : Bool
  lanes : List (Nat × Nat × Bool)
  peers : List (Nat × Straps × Nat × Nat)
  deriving DecidableEq, Repr

/-- What a node joins fabric time by: its parent's first `TIME_SYNC` (R637), or, for a follower of `FTICK_IN`, the lead's
counters at a base interval. -/
inductive JoinMsg where
  | sync (t : TimeHdr)
  | lead (frame bint : Nat)
  deriving DecidableEq, Repr

/-- Where a mailbox request comes from (R698, Table 18-15): `MGMT.MBOX_REQ`, or an owner session's vendor-defined request. -/
inductive MboxSrc where
  | host
  | owner (session : Nat) (req : Bytes)
  deriving DecidableEq, Repr

/-- The commands of the block: the rows of the table of operations and events. -/
inductive Instr where
  /-- ATTEND (R25). -/
  | attend (cid : Nat)
  /-- VERIFY (R161). -/
  | verify (cid : Nat)
  /-- ACCEPT (R172). -/
  | accept (cid : Nat)
  /-- APPEND (R387). -/
  | append (cid : Nat)
  /-- PUSH_LAYER (R541). -/
  | pushLayer (cid : Nat)
  /-- STATE_STEP (R183). -/
  | stateStep (cid : Nat)
  /-- SELECT (R194). -/
  | select (cid : Nat)
  /-- INDEX_UPDATE_INDEX (R233). -/
  | indexUpdateIndex (cid : Nat) (tag : Nat)
  /-- INDEX_UPDATE_UNINDEX (R235). -/
  | indexUpdateUnindex (cid : Nat)
  /-- INDEX_UPDATE_GROW (R234). -/
  | indexUpdateGrow (cid : Nat)
  /-- PARK (R352). -/
  | park (cid : Nat)
  /-- RESTORE (R354). -/
  | restore (cid : Nat)
  /-- RESTORE_WRITE_PHASE (R355). -/
  | restoreWritePhase (cid : Nat)
  /-- FORK (R112). -/
  | fork (cid : Nat)
  /-- DROP (R118). -/
  | drop (cid : Nat)
  /-- FLUSH (R329). -/
  | flush (cid : Nat)
  /-- MIGRATE (R343). -/
  | migrate (cid : Nat)
  /-- MIGRATE_REVERSE (R347). -/
  | migrateReverse (cid : Nat)
  /-- READ (R335). -/
  | read (cid : Nat)
  /-- WRITE (R321). -/
  | write (cid : Nat)
  /-- POST_CHAIN_POST (R397). -/
  | postChainPost (cid : Nat)
  /-- POST_CHAIN_FREE_ENTRY (R397). -/
  | postChainFreeEntry (cid : Nat)
  /-- POST_CHAIN_CREATE_EVENT (R397). -/
  | postChainCreateEvent (cid : Nat)
  /-- POST_CHAIN_FREE_EVENT (R408). -/
  | postChainFreeEvent (cid : Nat)
  /-- ARM (R406). -/
  | arm (cid : Nat)
  /-- FENCE (R376). -/
  | fence (cid : Nat)
  /-- FENCE_RELEASE (R377). -/
  | fenceRelease (cid : Nat)
  /-- STREAM_OPEN (R102). -/
  | streamOpen (cid : Nat)
  /-- STREAM_OPEN_RECURRENT (R179). -/
  | streamOpenRecurrent (cid : Nat)
  /-- STREAM_CLOSE (R116). -/
  | streamClose (cid : Nat)
  /-- PROG_LOAD (R303). -/
  | progLoad (cid : Nat)
  /-- PROG_LOAD_CLEAR (R303). -/
  | progLoadClear (cid : Nat)
  /-- QUERY_CAPS (R412). -/
  | queryCaps (cid : Nat)
  /-- PART_CTL_CREATE (R507). -/
  | partCtlCreate (cid : Nat)
  /-- PART_CTL_DESTROY (R526). -/
  | partCtlDestroy (cid : Nat)
  /-- PART_CTL_QUIESCE (R513). -/
  | partCtlQuiesce (cid : Nat)
  /-- QUIESCE_COMPLETE (R513). -/
  | quiesceComplete (part : Nat)
  /-- PART_CTL_RESTART (R515). -/
  | partCtlRestart (cid : Nat)
  /-- PART_CTL_RESET (R522). -/
  | partCtlReset (cid : Nat)
  /-- PART_CTL_RESIZE (R515). -/
  | partCtlResize (cid : Nat)
  /-- PART_CTL_GRANT (R527). -/
  | partCtlGrant (cid : Nat)
  /-- PART_CTL_SET_WEIGHT (R520). -/
  | partCtlSetWeight (cid : Nat)
  /-- PART_CTL_REGISTER_WRITE (R511). -/
  | partCtlRegisterWrite (cid : Nat)
  /-- PART_CTL_MAP_LOAD (R530). -/
  | partCtlMapLoad (cid : Nat)
  /-- PART_CTL_MAP_CANCEL (R531). -/
  | partCtlMapCancel (cid : Nat)
  /-- PART_CTL_MAILBOX_REQUEST (R705). -/
  | partCtlMailboxRequest (cid : Nat)
  /-- DATA_RECEIVE (R436). -/
  | dataReceive (p : RxBase) (d : DataHdr) (payload : Bytes)
  /-- ACK_RECEIVE (R444). -/
  | ackReceive (p : RxBase) (a : AckHdr)
  /-- NAK_RECEIVE (R445). -/
  | nakReceive (p : RxBase) (n : NakHdr)
  /-- ACK_TIMER (R439). -/
  | ackTimer (conn : Nat) (now : Nat)
  /-- RETRANSMIT_TIMEOUT (R441). -/
  | retransmitTimeout (conn : Nat) (msn : Nat) (pindex : Nat) (now : Nat)
  /-- FLUSH_PACKET (R452). -/
  | flushPacket (p : RxBase) (fmsn : Nat) (ftag : Nat)
  /-- FLUSH_ACK_RECEIVE (R452). -/
  | flushAckReceive (p : RxBase) (fmsn : Nat) (ftag : Nat)
  /-- PATHS_RECEIVE (R458). -/
  | pathsReceive (p : RxBase) (pseq : Nat) (live : Nat)
  /-- PROBE_RECEIVE (R456). -/
  | probeReceive (p : RxBase) (echo : Nat) (label : Nat) (resp : Bool)
  /-- PAIR_BAD_EXPIRY (R456). -/
  | pairBadExpiry (conn : Nat) (pair : Nat)
  /-- CLOSE (R470). -/
  | close (p : RxBase) (reason : Nat)
  /-- CONNECT_REQ (R464). -/
  | connectReq (p : RxBase) (h : HsHdr) (addrs : List Nat) (kx : Kx)
  /-- CONNECT_RSP (R465). -/
  | connectRsp (p : RxBase) (h : HsHdr) (addrs : List Nat) (kx : Kx)
  /-- CONNECT_CFM (R466). -/
  | connectCfm (p : RxBase) (scid : Nat)
  /-- CONNECT_CFM_TIMEOUT (R466). -/
  | connectCfmTimeout (conn : Nat)
  /-- TIME_SYNC (R476). -/
  | timeSync (p : RxBase) (t : TimeHdr)
  /-- TIME_DREQ (R475). -/
  | timeDreq (p : RxBase) (t : TimeHdr) (turn : Nat)
  /-- TIME_DRSP (R476). -/
  | timeDrsp (p : RxBase) (t : TimeHdr)
  /-- TIME_DREQ_SEND (R475). -/
  | timeDreqSend (now : Nat)
  /-- FRAME_HOLDOVER (R36). -/
  | frameHoldover
  /-- FTICK_EDGE (R665). -/
  | ftickEdge (width : Nat)
  /-- FRAME_TICK_LOST (R35). -/
  | frameTickLost
  /-- FRAME_START (R29). -/
  | frameStart
  /-- BASE_INTERVAL_START (R38). -/
  | baseIntervalStart (temps : List Temp)
  /-- SOLSTICE_BARRIER_TIMEOUT (R286). -/
  | solsticeBarrierTimeout (core : Nat)
  /-- THERMAL_DECISION (R43). -/
  | thermalDecision (peerSteps : List Nat)
  /-- REFRESH_DUE (R65). -/
  | refreshDue (slice : Nat)
  /-- MAINTENANCE_SLOT (R614). -/
  | maintenanceSlot
  /-- ADMISSION_PASS (R61). -/
  | admissionPass (peers : List PeerOutcome)
  /-- OBOE_SEARCH_WINDOW (R221). -/
  | oboeSearchWindow (search : SearchOp)
  /-- OBOE_UPDATE_SLOT (R223). -/
  | oboeUpdateSlot
  /-- CASCADE_FAIL (R229). -/
  | cascadeFail (pos : Nat)
  /-- SERVICE_WINDOW_CLOSE (R141). -/
  | serviceWindowClose
  /-- RESERVE_WINDOW (R331). -/
  | reserveWindow (slice : Nat)
  /-- ORDINARY_READ_GRANT (R332). -/
  | ordinaryReadGrant (slice : Nat)
  /-- SECTOR_READ (R259). -/
  | sectorRead (r : SectorReq) (fault : DramFault)
  /-- SECTOR_WRITE (R266). -/
  | sectorWrite (slice : Nat) (fault : DramFault)
  /-- PICCOLO_TASK_COMMIT (R272). -/
  | piccoloTaskCommit (core : Nat) (task : TaskOp)
  /-- DEADLOCK_DETECT (R281). -/
  | deadlockDetect (core : Nat)
  /-- FRAME_OVERRUN_WATCHDOG (R282). -/
  | frameOverrunWatchdog (core : Nat)
  /-- CORE_FAULT (R311). -/
  | coreFault (unit : RasUnit) (cause : Nat) (engine : Nat) (queue : Nat)
  /-- CORE_REPLAY (R312). -/
  | coreReplay (slice : Nat) (core : Nat)
  /-- MERGE_FOLD (R143). -/
  | mergeFold (cid : Nat) (peers : List PeerRecord)
  /-- PEER_RECORD_MISSING (R621). -/
  | peerRecordMissing (cid : Nat) (missing : Nat)
  /-- SEAL_CODE (R92). -/
  | sealCode (job : Nat)
  /-- SEAL_UPLOAD (R92). -/
  | sealUpload (job : Nat)
  /-- SEAL_JOB (R93). -/
  | sealJob (job : Nat)
  /-- WRITE_BACK_JOB (R324). -/
  | writeBackJob (job : Nat)
  /-- MIGRATION_COPY (R344). -/
  | migrationCopy (handle : Nat) (page : Nat)
  /-- MIGRATION_COPY_FAIL (R349). -/
  | migrationCopyFail (handle : Nat) (page : Nat) (cause : Nat)
  /-- LONG_SEQUENCE_RERUN (R315). -/
  | longSequenceRerun (job : Nat)
  /-- VPOOL_HOLD_EXPIRY (R168). -/
  | vpoolHoldExpiry (hub : Nat) (slot : Nat)
  /-- CHAIN_COMPLETION_TRIGGER (R399). -/
  | chainCompletionTrigger (cid : Nat)
  /-- EGRESS_PACKET_START (R484). -/
  | egressPacketStart (port : Nat) (now : Nat)
  /-- SHAPER_SLOT (R498). -/
  | shaperSlot
  /-- GATE_ARM (R495). -/
  | gateArm (port : Nat) (value : Nat)
  /-- GATE_CANCEL (R496). -/
  | gateCancel (port : Nat) (value : Nat)
  /-- GATE_LIST_SWITCH (R496). -/
  | gateListSwitch (port : Nat)
  /-- EQUINOX (R532). -/
  | equinox
  /-- MAP_GRACE_END (R532). -/
  | mapGraceEnd
  /-- TIME_SLICE_SWITCH (R520). -/
  | timeSliceSwitch (group : Nat)
  /-- ZEROING_COMPLETE (R525). -/
  | zeroingComplete (part : Nat)
  /-- PARTITION_FAULT (R522). -/
  | partitionFault (part : Nat)
  /-- ERROR_REPORT (R579). -/
  | errorReport (unit : RasUnit) (cause : Nat) (data : Nat) (held : List T0Obj)
  /-- TARGETED_TEST_COMPLETE (R581). -/
  | targetedTestComplete (unit : RasUnit) (passed : Bool) (held : List T0Obj)
  /-- HEARTBEAT_LOST (R579). -/
  | heartbeatLost (stack : Nat)
  /-- BGTEST_START (R609). -/
  | bgtestStart
  /-- ROW_GROUP_TEST_DONE (R612). -/
  | rowGroupTestDone (slice : Nat) (group : Nat) (mismatch : Bool) (bad : List Nat)
  /-- LANE_DOWN (R603). -/
  | laneDown (port : Nat) (lane : Nat)
  /-- LANE_FLAP (R606). -/
  | laneFlap (port : Nat) (lane : Nat) (now : Nat)
  /-- PORT_DOWN (R608). -/
  | portDown (port : Nat)
  /-- PORT_UP (R608). -/
  | portUp (port : Nat) (lanes : Nat) (lmap : Bool)
  /-- NAND_READ_DONE (R354). -/
  | nandReadDone (hub : Nat) (handle : Nat) (page : Nat)
  /-- NAND_READ_FAIL (R356). -/
  | nandReadFail (hub : Nat) (handle : Nat) (page : Nat) (target : Nat)
  /-- NAND_PROGRAM_DONE (R353). -/
  | nandProgramDone (hub : Nat) (handle : Nat) (page : Nat) (channel : Nat) (block : Nat)
  /-- NAND_PROGRAM_FAIL (R360). -/
  | nandProgramFail (hub : Nat) (channel : Nat) (block : Nat) (target : Nat)
  /-- NAND_ERASE_FAIL (R360). -/
  | nandEraseFail (channel : Nat) (block : Nat)
  /-- STATIC_WEAR_LEVEL (R360). -/
  | staticWearLevel (channel : Nat) (block : Nat) (target : Nat)
  /-- READ_DISTURB_RELOCATE (R360). -/
  | readDisturbRelocate (channel : Nat) (block : Nat) (target : Nat) (weak : Bool)
  /-- ENTROPY_HEALTH_FAIL (R552). -/
  | entropyHealthFail (test : Nat)
  /-- ENTROPY_FAIL_TIMEOUT (R632). -/
  | entropyFailTimeout
  /-- ALL_LINKS_DOWN_TIMEOUT (R632). -/
  | allLinksDownTimeout
  /-- WINTER_ENTRY (R632). -/
  | winterEntry
  /-- LIFE_REQ_SUMMER (R640). -/
  | lifeReqSummer (force : Bool)
  /-- LIFE_REQ_AUTUMN (R627). -/
  | lifeReqAutumn (force : Bool)
  /-- LIFE_REQ_WINTER (R629). -/
  | lifeReqWinter (force : Bool)
  /-- LIFE_REQ_SPRING (R633). -/
  | lifeReqSpring (force : Bool) (boot : Boot)
  /-- RESET_RELEASE (R634). -/
  | resetRelease (straps : Straps) (boot : Boot)
  /-- BOARD_PEER_TIMEOUT (R659). -/
  | boardPeerTimeout
  /-- TIME_JOIN (R637). -/
  | timeJoin (p : RxBase) (j : JoinMsg)
  /-- BOOT_WATCHDOG (R644). -/
  | bootWatchdog (boot : Boot)
  /-- COLD_RESET (R671). -/
  | coldReset (cause : Nat)
  /-- AUX_OK_ASSERT (R670). -/
  | auxOkAssert
  /-- MAIN_OK_TIMEOUT (R671). -/
  | mainOkTimeout
  /-- MAIN_OK_FALL (R672). -/
  | mainOkFall
  /-- VIN_MAIN_OUT_OF_RANGE (R712). -/
  | vinMainOutOfRange
  /-- THERMTRIP (R717). -/
  | thermtrip (sensor : Nat) (temp : Int)
  /-- PCIE_PERST (R675). -/
  | pciePerst (low : Bool)
  /-- TAP_INSTRUCTION_LOAD (R553). -/
  | tapInstructionLoad (instr : Nat)
  /-- TRST_RELEASE (R682). -/
  | trstRelease (straps : Straps) (boot : Boot)
  /-- SPDM_GET_MEASUREMENTS (R549). -/
  | spdmGetMeasurements (session : Nat) (index : Nat) (nonce : Option Nat)
  /-- SPDM_KEY_EXCHANGE (R548). -/
  | spdmKeyExchange (signer : Nat) (requester : Option Nat)
  /-- OWNER_ANCHOR_WRITE (R573). -/
  | ownerAnchorWrite (session : Nat) (digest : Nat)
  /-- SMBUS_ALERT_RESPONSE (R674). -/
  | smbusAlertResponse
  /-- MBOX_PART_CTL (R700). -/
  | mboxPartCtl (src : MboxSrc)
  /-- MBOX_ACCESS_LIST (R702). -/
  | mboxAccessList (src : MboxSrc)
  /-- MBOX_STAGING_WRITE (R701). -/
  | mboxStagingWrite (src : MboxSrc)
  /-- MBOX_FIRMWARE_WRITE (R641). -/
  | mboxFirmwareWrite (src : MboxSrc)
  /-- TABLE_READ_GRANT (R707). -/
  | tableReadGrant (slice : Nat)
  /-- FW_STAGE (R642). -/
  | fwStage
  /-- FW_COMMIT (R643). -/
  | fwCommit
  /-- MAINT_SLICE_TEST (R616). -/
  | maintSliceTest (part : Nat) (value : Nat) (path : Nat)
  /-- MAINT_CORE_TEST (R617). -/
  | maintCoreTest (part : Nat) (value : Nat) (path : Nat)
  /-- MAINT_STACK_RECAL (R617). -/
  | maintStackRecal (part : Nat) (value : Nat) (path : Nat)
  /-- MAINT_ROW_GROUP_TEST (R610). -/
  | maintRowGroupTest (part : Nat) (value : Nat) (path : Nat)
  /-- METER_SNAP (R544). -/
  | meterSnap (part : Nat) (value : Nat)
  /-- LOG_SBACK_WRITE (R693). -/
  | logSbackWrite (value : Nat)
  /-- UTC_WRITE (R569). -/
  | utcWrite (value : Nat) (path : Nat)
  /-- CORE_FAULT_READ (R283). -/
  | coreFaultRead (stack : Nat)
  /-- REGISTER_WRITE (R7). -/
  | registerWrite (path : Nat) (addr : Nat) (value : RegData)
  /-- DRBG_RESEED (R552). -/
  | drbgReseed
  /-- POWER_LIMIT_SAMPLE (R716). -/
  | powerLimitSample (hub : Nat) (watts : Nat)
  /-- HUB0_LOGIC_FAULT (R629). -/
  | hub0LogicFault
  /-- MAIN_OK_RISE (R670). -/
  | mainOkRise
  /-- VIN_AUX_IN_RANGE (R670). -/
  | vinAuxInRange
  /-- AUX_OK_FALL (R671). -/
  | auxOkFall
  deriving DecidableEq, Repr

end Sys2Proof
end

