-- ==== Sys2Proof/Config.lean ====
section
/-!
DEFINITION. What the manual leaves open: values of the symbolic cryptography (DESIGN CHOICE, log 5) and free values (DESIGN CHOICE, log 6), as constants
without a body. No proof can see what they are.
-/

namespace Sys2Proof

/-- AES-256-XTS under the XTS pair of a key number, with a tweak (R556). -/
opaque Config.aesXts : Nat → Nat → Bytes → Bytes

/-- AES-256-CMAC under the tag key of a key number (R557, R560), 16 bytes. -/
opaque Config.aesCmac : Nat → Bytes → Bytes

/-- SHA-384 (R361, R549, R566, R573). -/
opaque Config.sha384 : Bytes → Bytes

/-- HMAC-SHA-384 under a key (R565, R567). -/
opaque Config.hmacSha384 : Bytes → Bytes → Bytes

/-- AES-256-GCM under a key, with nonce, additional data and plaintext: ciphertext and tag (R422, R563). -/
opaque Config.aesGcm : Bytes → Bytes → Bytes → Bytes → Bytes

/-- A derivation step of TCG DICE: a secret and what it binds (R545, R546). -/
opaque Config.dice : Bytes → Bytes → Bytes

/-- A P-384 private key from a secret, and the public key of a private key. -/
opaque Config.p384Private : Bytes → Bytes
opaque Config.p384Public : Bytes → Bytes

/-- The ECDH shared secret of a private and a public key (R567). -/
opaque Config.ecdh : Bytes → Bytes → Bytes

/-- ECDSA P-384: the signature of a private key over a digest with a drawn nonce, and its check under a public key (R549, R566). -/
opaque Config.ecdsaSign : Bytes → Bytes → Bytes → Bytes
opaque Config.ecdsaOk : Bytes → Bytes → Bytes → Bool

/-- The certificate an identity key signs for an alias public key, and the public key of a chain's leaf (R546, R566). -/
opaque Config.aliasCert : Bytes → Bytes → Bytes
opaque Config.leafKey : Bytes → Bytes

/-- Digest of the transcript an SPDM responder signs in KEY_EXCHANGE, by the number of the exchange's draw (R548). -/
opaque Config.spdmTranscript : Nat → Bytes

/-- Bytes the DRBG draws, by the number of the draw (R551). -/
opaque Config.drawBytes : Nat → Nat → Bytes

/-- A value the manual leaves undefined, by the number of the draw. -/
opaque Config.freeValue : Nat → BitVec 64

/-- Does a firmware package's signature verify under an anchor (R642). -/
opaque Config.sigOk : Bytes → Nat → Bool

/-- SHA-384 of the boot ROM (Table 14-2). -/
opaque Config.romDigest : Bytes

/-- Addresses and hop limit of what the node sends, which the manual leaves to the board: a port's IPv6 and MAC addresses,
the MAC address of the next hop to an address, and the IPv6 hop limit. -/
opaque Config.portAddr : Nat → Nat
opaque Config.portMac : Nat → Bytes
opaque Config.nextHopMac : Nat → Nat → Bytes
opaque Config.hopLimit : Nat

end Sys2Proof
end

