-- ==== Sys2Proof/Machine/Bits.lean ====
section
/-!
DEFINITION. Bit fields, little-endian packing (R4), integer square root, and the operations of the sparse map that
every table of the state is held in.
-/

namespace Sys2Proof.Machine

/-! ## Bit fields -/

/-- Bits [hi:lo] of a number, as a number. -/
def bits (x hi lo : Nat) : Nat := (x >>> lo) % 2 ^ (hi + 1 - lo)

/-- Bit i of a number. -/
def bit (x i : Nat) : Bool := (x >>> i) % 2 == 1

/-- One when true. -/
def b2n (b : Bool) : Nat := if b then 1 else 0

/-- x with the field of width w at lo replaced by v. -/
def putField (x lo w v : Nat) : Nat :=
  x - ((x >>> lo) % 2 ^ w) * 2 ^ lo + (v % 2 ^ w) * 2 ^ lo

/-- A word packed from (offset, width, value) fields, least significant fields anywhere. -/
def packFields (fs : List (Nat × Nat × Nat)) : Nat :=
  fs.foldl (fun acc f => acc + (f.2.2 % 2 ^ f.2.1) * 2 ^ f.1) 0

/-- Smallest multiple count: the quotient rounded up. -/
def ceilDiv (a b : Nat) : Nat := (a + b - 1) / b

/-- A number saturated at a bound. -/
def satTo (bound x : Nat) : Nat := min bound x

/-- Sign-extend a w-bit pattern to an integer. -/
def sext (w x : Nat) : Int := if x % 2 ^ w < 2 ^ (w - 1) then (x % 2 ^ w : Nat) else (x % 2 ^ w : Nat) - (2 ^ w : Nat)

/-- The w-bit two's-complement pattern of an integer. -/
def wrapInt (w : Nat) (x : Int) : Nat := (x % ((2 ^ w : Nat) : Int)).toNat

/-- Integer square root by Newton's iteration, `fuel` steps from above. -/
def isqrtFrom (fuel n x : Nat) : Nat :=
  match fuel with
  | 0 => x
  | k + 1 =>
    let y := (x + n / x) / 2
    if x ≤ y then x else isqrtFrom k n y

/-- Floor of the square root. -/
def isqrt (n : Nat) : Nat :=
  if n = 0 then 0 else isqrtFrom (Nat.log2 n + 4) n (2 ^ (Nat.log2 n / 2 + 1))

/-! ## Bytes, little-endian -/

/-- n bytes of x, least significant first (R4). -/
def leBytes (n x : Nat) : Bytes :=
  match n with
  | 0 => []
  | k + 1 => BitVec.ofNat 8 x :: leBytes k (x / 256)

/-- The number a little-endian byte string spells (R4). -/
def leNat (bs : Bytes) : Nat := bs.foldr (fun b acc => b.toNat + 256 * acc) 0

/-- Byte at an offset, zero past the end. -/
def byteAt (bs : Bytes) (i : Nat) : Byte := bs.getD i 0#8

/-- n bytes from offset i as a little-endian number. -/
def leAt (bs : Bytes) (i n : Nat) : Nat := leNat ((bs.drop i).take n)

/-- The slice of n bytes from offset i. -/
def slice (bs : Bytes) (i n : Nat) : Bytes := (bs.drop i).take n

/-- n zero bytes. -/
def zeros (n : Nat) : Bytes := List.replicate n 0#8

/-- A byte string padded with zero bytes to length n, or cut there. -/
def fitTo (n : Nat) (bs : Bytes) : Bytes := (bs ++ zeros (n - bs.length)).take n

/-- bs with the bytes ns written over it from offset i. -/
def overwrite (bs : Bytes) (i : Nat) (ns : Bytes) : Bytes :=
  bs.take i ++ ns ++ bs.drop (i + ns.length)

/-- Cut a byte string into parts of n bytes (`fuel` parts at most). -/
def chunksOf (fuel n : Nat) (bs : Bytes) : List Bytes :=
  match fuel with
  | 0 => []
  | k + 1 => if bs.isEmpty then [] else bs.take n :: chunksOf k n (bs.drop n)

/-- Insertion into a list sorted by a key, after equal keys. -/
def insertBy {α : Type} (key : α → Nat) (x : α) (xs : List α) : List α :=
  match xs with
  | [] => [x]
  | y :: r => if key x < key y then x :: y :: r else y :: insertBy key x r

/-- Stable sort by a key. -/
def sortBy {α : Type} (key : α → Nat) (xs : List α) : List α := xs.foldl (fun acc x => insertBy key x acc) []

/-- All bytes zero. -/
def allZero (bs : Bytes) : Bool := bs.all (· == 0#8)

/-! ## Sparse maps -/

/-- The value at a key, if listed. -/
def mget {α : Type} (m : SMap α) (k : Nat) : Option α :=
  match m with
  | [] => none
  | (k', v) :: r => if k' = k then some v else mget r k

/-- The value at a key, or the default. -/
def mgetD {α : Type} (m : SMap α) (k : Nat) (d : α) : α := (mget m k).getD d

/-- Insert or replace, keeping the keys strictly rising. -/
def mset {α : Type} (m : SMap α) (k : Nat) (v : α) : SMap α :=
  match m with
  | [] => [(k, v)]
  | (k', v') :: r =>
    if k < k' then (k, v) :: (k', v') :: r
    else if k = k' then (k, v) :: r
    else (k', v') :: mset r k v

/-- Remove a key. -/
def mdel {α : Type} (m : SMap α) (k : Nat) : SMap α :=
  match m with
  | [] => []
  | (k', v') :: r => if k = k' then r else (k', v') :: mdel r k

/-- Is the key listed. -/
def mhas {α : Type} (m : SMap α) (k : Nat) : Bool := (mget m k).isSome

/-- Change the value at a key, starting from a default when it is not listed. -/
def mupd {α : Type} (m : SMap α) (k : Nat) (d : α) (f : α → α) : SMap α := mset m k (f (mgetD m k d))

/-- Change the value at a key only when it is listed. -/
def mmod {α : Type} (m : SMap α) (k : Nat) (f : α → α) : SMap α :=
  match mget m k with
  | some v => mset m k (f v)
  | none => m

/-- Keep the entries that satisfy a test. -/
def mfilter {α : Type} (m : SMap α) (p : Nat → α → Bool) : SMap α := m.filter (fun e => p e.1 e.2)

/-- The lowest key from `k` upwards that is not listed, trying `fuel` keys. -/
def mfree {α : Type} (m : SMap α) (fuel k : Nat) : Option Nat :=
  match fuel with
  | 0 => none
  | f + 1 => if mhas m k then mfree m f (k + 1) else some k

/-- The keys are strictly rising: the canonical form of every sparse map of the state. -/
def msorted {α : Type} : SMap α → Bool
  | [] => true
  | [_] => true
  | (a, _) :: (b, y) :: r => decide (a < b) && msorted ((b, y) :: r)

/-- Store a byte in a buffer whose unlisted bytes read 0: writing 0 removes the entry. -/
def bset (m : SMap Byte) (k : Nat) (v : Byte) : SMap Byte := if v = 0#8 then mdel m k else mset m k v

/-- Read a byte of such a buffer. -/
def bget (m : SMap Byte) (k : Nat) : Byte := mgetD m k 0#8

/-- Store a byte string from an address upwards. -/
def bwrite (m : SMap Byte) (k : Nat) (bs : Bytes) : SMap Byte :=
  match bs with
  | [] => m
  | b :: r => bwrite (bset m k b) (k + 1) r

/-- Read n bytes from an address upwards. -/
def bread (m : SMap Byte) (k n : Nat) : Bytes :=
  match n with
  | 0 => []
  | j + 1 => bget m k :: bread m (k + 1) j

/-- The canonical form of such a buffer: addresses strictly rising, and no entry equal to what an unlisted address reads as, so
that equal buffers are equal data. -/
def Memory.wf (m : SMap Byte) : Bool := msorted m && m.all (fun e => e.2 != 0#8)

/-! ## Serial numbers -/

/-- R9: a precedes b in 32-bit serial order. -/
def serialLt (a b : Nat) : Bool :=
  let d := (b + 2 ^ 32 - a % 2 ^ 32) % 2 ^ 32
  decide (1 ≤ d) && decide (d ≤ 2 ^ 31 - 1)

/-- R10: widen a wire frame number against the current frame; none when the pair is not ordered. -/
def widenFrame (cur w : Nat) : Option Int :=
  let d : Nat := (w % 2 ^ 32 + 2 ^ 32 - cur % 2 ^ 32) % 2 ^ 32
  if d = 2 ^ 31 then none
  else if d < 2 ^ 31 then some ((cur : Int) + (d : Int))
  else some ((cur : Int) - ((2 ^ 32 - d : Nat) : Int))

/-- R419: widen a 32-bit sequence number against the highest value seen, within counters that start at 0. -/
def widenSeq (high w : Nat) : Option Int := widenFrame high w

end Sys2Proof.Machine
end

