-- ==== Sys2Proof/Machine/Float.lean ====
section
/-!
DEFINITION. The node's floating-point arithmetic, bit for bit: IEEE 754 with round to nearest even unless a rule
rounds toward +∞ (00_scope, Notation; R724 for every NaN), the correctly rounded functions of R135 and R297, and the
narrow formats of Table 3-3.
-/

namespace Sys2Proof.Machine

/-- A binary format: precision with the hidden bit, exponent of the least subnormal, exponent field of the
infinities and NaNs (or one past the last finite exponent field where the format has none). -/
structure Fmt where
  prec : Nat
  qmin : Int
  emax : Nat
  deriving DecidableEq, Repr

def fmtF32 : Fmt := ⟨24, -149, 255⟩
def fmtBf16 : Fmt := ⟨8, -133, 255⟩
def fmtFp16 : Fmt := ⟨11, -24, 31⟩
/-- E4M3 has no infinity: exponent field 15 holds finite values up to 448 (OCP FP8). -/
def fmtE4M3 : Fmt := ⟨4, -9, 16⟩
def fmtE5M2 : Fmt := ⟨3, -16, 31⟩

/-- Rounding directions the manual uses. -/
inductive Rnd where
  | nearest
  | up
  | down
  deriving DecidableEq, Repr

/-- A finite binary value: m × 2^e, exactly. -/
structure Dy where
  m : Int
  e : Int
  deriving DecidableEq, Repr

/-- Bring two exact values to one exponent. -/
def dyAlign (a b : Dy) : Int × Int × Int :=
  if a.e ≤ b.e then (a.m, b.m * (2 : Int) ^ (b.e - a.e).toNat, a.e)
  else (a.m * (2 : Int) ^ (a.e - b.e).toNat, b.m, b.e)

def dyAdd (a b : Dy) : Dy := let t := dyAlign a b; ⟨t.1 + t.2.1, t.2.2⟩
def dyMul (a b : Dy) : Dy := ⟨a.m * b.m, a.e + b.e⟩
def dyNeg (a : Dy) : Dy := ⟨-a.m, a.e⟩
def dyLt (a b : Dy) : Bool := let t := dyAlign a b; decide (t.1 < t.2.1)
def dyLe (a b : Dy) : Bool := let t := dyAlign a b; decide (t.1 ≤ t.2.1)

/-- Number of bits of a positive number. -/
def bitLen (a : Nat) : Nat := if a = 0 then 0 else Nat.log2 a + 1

/-- Round the magnitude a × 2^e of a value whose sign is `neg` into a format: significand and its exponent. -/
def roundMag (f : Fmt) (r : Rnd) (neg : Bool) (a : Nat) (e : Int) : Nat × Int :=
  let q := max ((bitLen a : Int) + e - f.prec) f.qmin
  if q ≤ e then (a * 2 ^ (e - q).toNat, q)
  else
    let k := (q - e).toNat
    let n := a / 2 ^ k
    let rem := a % 2 ^ k
    let inc := match r with
      | .nearest => decide (2 ^ k < 2 * rem) || (decide (2 ^ k = 2 * rem) && n % 2 == 1)
      | .up => !neg && decide (0 < rem)
      | .down => neg && decide (0 < rem)
    (n + b2n inc, q)

/-- The exponent-and-fraction bits of a rounded magnitude; none when it overflows the finite range. -/
def packMag (f : Fmt) (n : Nat) (q : Int) : Option Nat :=
  let n' := if 2 ^ f.prec ≤ n then n / 2 else n
  let q' := if 2 ^ f.prec ≤ n then q + 1 else q
  if n' < 2 ^ (f.prec - 1) then some n'
  else
    let be := (q' - f.qmin).toNat + 1
    if f.emax ≤ be then none else some (be * 2 ^ (f.prec - 1) + (n' - 2 ^ (f.prec - 1)))

/-- Bits of the largest finite magnitude. -/
def maxFinite (f : Fmt) : Nat := f.emax * 2 ^ (f.prec - 1) - 1

/-- Bits of infinity. -/
def infBits (f : Fmt) : Nat := f.emax * 2 ^ (f.prec - 1)

/-- Weight of the sign bit of a format with emax exponent values. -/
def signWeight (f : Fmt) : Nat := if f.emax = 16 then 128 else (f.emax + 1) * 2 ^ (f.prec - 1)

/-- Round an exact nonzero value into a format with infinities; `zneg` is the sign a zero result takes. -/
def roundDy (f : Fmt) (r : Rnd) (d : Dy) (zneg : Bool) : Nat :=
  if d.m = 0 then (if zneg then signWeight f else 0)
  else
    let neg := decide (d.m < 0)
    let t := roundMag f r neg d.m.natAbs d.e
    let mag := match packMag f t.1 t.2 with
      | some b => b
      | none => match r with
        | .nearest => infBits f
        | .up => if neg then maxFinite f else infBits f
        | .down => if neg then infBits f else maxFinite f
    mag + (if neg then signWeight f else 0)

/-! ## Classifying a binary32 pattern -/

def f32Nan : F32 := 0x7FC00000#32
def f32Inf : F32 := 0x7F800000#32
def f32NegInf : F32 := 0xFF800000#32
def f32Zero : F32 := 0#32
def f32One : F32 := 0x3F800000#32

def f32Sign (x : F32) : Bool := bit x.toNat 31
def f32Exp (x : F32) : Nat := bits x.toNat 30 23
def f32Frac (x : F32) : Nat := bits x.toNat 22 0
def isNan (x : F32) : Bool := f32Exp x == 255 && f32Frac x != 0
def isInf (x : F32) : Bool := f32Exp x == 255 && f32Frac x == 0
def isFinite (x : F32) : Bool := f32Exp x != 255
def isZero (x : F32) : Bool := x.toNat % 2 ^ 31 == 0

/-- The exact value of a finite pattern. -/
def toDy (x : F32) : Dy :=
  let m : Nat := if f32Exp x = 0 then f32Frac x else f32Frac x + 2 ^ 23
  let e : Int := if f32Exp x = 0 then -149 else (f32Exp x : Int) - 150
  ⟨if f32Sign x then -(m : Int) else m, e⟩

/-- An exact value rounded to binary32. -/
def ofDy (r : Rnd) (d : Dy) (zneg : Bool) : F32 := BitVec.ofNat 32 (roundDy fmtF32 r d zneg)

/-- Sign bit cleared (FABS keeps a NaN's payload). -/
def f32Abs (x : F32) : F32 := x &&& 0x7FFFFFFF#32
/-- Sign bit inverted (FNEG keeps a NaN's payload). -/
def f32Neg (x : F32) : F32 := x ^^^ 0x80000000#32

/-- x < y, false when either is NaN. -/
def f32Lt (x y : F32) : Bool :=
  if isNan x || isNan y then false
  else if isInf x then f32Sign x && !(isInf y && f32Sign y)
  else if isInf y then !f32Sign y
  else dyLt (toDy x) (toDy y)

/-- x ≥ 0, false for a NaN. -/
def f32Ge0 (x : F32) : Bool := !isNan x && (!f32Sign x || isZero x)

/-! ## Addition, multiplication, fused multiply-add -/

/-- Sum of an exact product (or value) and an exact value, both finite, with IEEE 754's sign of a zero sum. -/
def addDy (r : Rnd) (a b : Dy) (aneg bneg : Bool) : F32 :=
  ofDy r (dyAdd a b) (if r = .down then aneg || bneg else aneg && bneg)

/-- x + y. -/
def f32AddR (r : Rnd) (x y : F32) : F32 :=
  if isNan x || isNan y then f32Nan
  else if isInf x then (if isInf y && f32Sign x != f32Sign y then f32Nan else x)
  else if isInf y then y
  else addDy r (toDy x) (toDy y) (f32Sign x) (f32Sign y)

/-- x × y. -/
def f32MulR (r : Rnd) (x y : F32) : F32 :=
  if isNan x || isNan y then f32Nan
  else
    let sg := f32Sign x != f32Sign y
    if isInf x || isInf y then
      (if isZero x || isZero y then f32Nan else if sg then f32NegInf else f32Inf)
    else ofDy r (dyMul (toDy x) (toDy y)) sg

/-- fma(x, y, z): x·y + z rounded once (R130). -/
def f32FmaR (r : Rnd) (x y z : F32) : F32 :=
  if isNan x || isNan y || isNan z then f32Nan
  else
    let sg := f32Sign x != f32Sign y
    if isInf x || isInf y then
      (if isZero x || isZero y then f32Nan
       else if isInf z && f32Sign z != sg then f32Nan
       else if sg then f32NegInf else f32Inf)
    else if isInf z then z
    else addDy r (dyMul (toDy x) (toDy y)) (toDy z) sg (f32Sign z)

def f32Add (x y : F32) : F32 := f32AddR .nearest x y
def f32Sub (x y : F32) : F32 := if isNan y then f32Nan else f32AddR .nearest x (f32Neg y)
def f32Mul (x y : F32) : F32 := f32MulR .nearest x y
def fma (x y z : F32) : F32 := f32FmaR .nearest x y z
def addUp (x y : F32) : F32 := f32AddR .up x y
def subUp (x y : F32) : F32 := if isNan y then f32Nan else f32AddR .up x (f32Neg y)
def mulUp (x y : F32) : F32 := f32MulR .up x y

/-- ldexp(x, e): x × 2^e with one rounding. -/
def ldexpR (r : Rnd) (x : F32) (e : Int) : F32 :=
  if isNan x then f32Nan
  else if isInf x then x
  else let d := toDy x; ofDy r ⟨d.m, d.e + e⟩ (f32Sign x)

def ldexp (x : F32) (e : Int) : F32 := ldexpR .nearest x e
def ldexpUp (x : F32) (e : Int) : F32 := ldexpR .up x e

/-- Minimum and maximum: NaN if either operand is NaN, −0 below +0 (Table 8-11, R193). -/
def f32Min (x y : F32) : F32 :=
  if isNan x || isNan y then f32Nan
  else if isZero x && isZero y then (if f32Sign x then x else y)
  else if f32Lt y x then y else x

def f32Max (x y : F32) : F32 :=
  if isNan x || isNan y then f32Nan
  else if isZero x && isZero y then (if f32Sign x then y else x)
  else if f32Lt x y then y else x

/-- ceil(x): a whole number; a zero result of a negative operand is −0. -/
def f32Ceil (x : F32) : F32 :=
  if isNan x then f32Nan
  else if isInf x then x
  else
    let d := toDy x
    if 0 ≤ d.e then x
    else
      let k := (-d.e).toNat
      ofDy .nearest ⟨-((-d.m) / ((2 ^ k : Nat) : Int)), 0⟩ (f32Sign x)

/-- The whole number a finite whole-valued pattern holds. -/
def f32ToInt (x : F32) : Int :=
  let d := toDy x
  if 0 ≤ d.e then d.m * (2 : Int) ^ d.e.toNat else d.m / ((2 ^ (-d.e).toNat : Nat) : Int)

/-- A natural number rounded to binary32. -/
def f32OfNat (r : Rnd) (n : Nat) : F32 := ofDy r ⟨n, 0⟩ false

/-! ## Square root and reciprocal, correctly rounded -/

/-- An exact value known to lie strictly between v·2^e and (v+1)·2^e (or equal v·2^e when `exact`): a stand-in
with the same rounding in every format whose precision is below that of v. -/
def between (v : Nat) (exact : Bool) (e : Int) : Dy := ⟨(2 * v + b2n (!exact) : Nat), e - 1⟩

def f32SqrtR (r : Rnd) (x : F32) : F32 :=
  if isNan x then f32Nan
  else if isZero x then x
  else if f32Sign x then f32Nan
  else if isInf x then x
  else
    let d := toDy x
    -- scale to an even exponent with 128 more bits
    let e0 := d.e - 128 - (d.e % 2)
    let m0 := d.m.toNat * 2 ^ (d.e - e0).toNat
    let v := isqrt m0
    ofDy r (between v (v * v == m0) (e0 / 2)) false

def f32Recip (x : F32) : F32 :=
  if isNan x then f32Nan
  else if isInf x then (if f32Sign x then 0x80000000#32 else 0#32)
  else if isZero x then (if f32Sign x then f32NegInf else f32Inf)
  else
    let d := toDy x
    let a := d.m.natAbs
    let v := 2 ^ 128 / a
    let p := between v (v * a == 2 ^ 128) (-128 - d.e)
    ofDy .nearest (if f32Sign x then dyNeg p else p) false

/-! ## Fixed-point exponential and logarithm

A fixed-point number is a natural number of units 2^−400 (DEDUCED, log 36: 400 fractional bits decide every rounding). -/

def fxBits : Nat := 400
def fxOne : Nat := 2 ^ 400

/-- Σ t^(2i+1)/(2i+1) from term i on, n terms; t and its running power p are fixed-point. -/
def atanhSum (n i p t2 : Nat) : Nat :=
  match n with
  | 0 => 0
  | k + 1 => p / (2 * i + 1) + atanhSum k (i + 1) (p * t2 / fxOne) t2

/-- ln of (1 + u)/(1 − u) = 2·atanh(u), for fixed-point u at most 1/3. -/
def lnRatio (num den : Nat) : Nat :=
  let u := num * fxOne / den
  2 * atanhSum 130 0 u (u * u / fxOne)

/-- ln 2 in fixed point: 2·atanh(1/3). -/
def ln2Fx : Nat := lnRatio 1 3

/-- Σ z^i/i! from term i on, n terms. -/
def expSum (n i term z : Nat) : Nat :=
  match n with
  | 0 => 0
  | k + 1 => term + expSum k (i + 1) (term * z / fxOne / (i + 1)) z

/-- e^z for fixed-point z below 1. -/
def expFx (z : Nat) : Nat := expSum 100 0 fxOne z

/-- 2^x for an exact finite x, correctly rounded (R135, R297). -/
def exp2Dy (d : Dy) (r : Rnd) : F32 :=
  if d.m = 0 then f32One
  else if 0 ≤ d.e then
    let n := d.m * (2 : Int) ^ d.e.toNat
    if 128 ≤ n then ofDy r ⟨1, 128⟩ false else if n < -200 then ofDy r ⟨1, -200⟩ false else ofDy r ⟨1, n⟩ false
  else
    let k := (-d.e).toNat
    let den : Int := ((2 ^ k : Nat) : Int)
    let n := d.m / den
    let fr := (d.m % den).toNat
    if 129 ≤ n then ofDy r ⟨1, 129⟩ false
    else if n < -200 then ofDy r ⟨1, -200⟩ false
    else if fr = 0 then ofDy r ⟨1, n⟩ false
    else
      let f := fr * 2 ^ (fxBits - k)
      ofDy r (between (expFx (f * ln2Fx / fxOne)) false (n - fxBits)) false

/-- exp2 of R135 and FEXP2 of Table 8-12. -/
def f32Exp2 (x : F32) : F32 :=
  if isNan x then f32Nan
  else if isInf x then (if f32Sign x then f32Zero else f32Inf)
  else exp2Dy (toDy x) .nearest

/-- log2 of a positive fixed-point-free value m·2^e as sign and fixed-point magnitude. -/
def log2Parts (m : Nat) (e : Int) : Int :=
  let l := Nat.log2 m
  -- m = (1 + u) · 2^l with u in [0, 1): ln(1+u) = 2·atanh(u/(2+u))
  let num := m - 2 ^ l
  let den := m + 2 ^ l
  let frac := lnRatio num den * fxOne / ln2Fx
  (e + l) * (fxOne : Int) + frac

/-- FLOG2 of Table 8-12. -/
def f32Log2 (x : F32) : F32 :=
  if isNan x then f32Nan
  else if isZero x then f32NegInf
  else if f32Sign x then f32Nan
  else if isInf x then f32Inf
  else
    let d := toDy x
    let m := d.m.toNat
    if m = 2 ^ Nat.log2 m then ofDy .nearest ⟨d.e + Nat.log2 m, 0⟩ false
    else
      let v := log2Parts m d.e
      ofDy .nearest ⟨2 * v + 1, -(fxBits : Int) - 1⟩ false

/-- tanh of a positive exact value below 9, as a stand-in for the irrational result. -/
def tanhPos (d : Dy) : Dy :=
  let x : Nat := if 0 ≤ d.e then d.m.toNat * 2 ^ d.e.toNat * fxOne else d.m.toNat * 2 ^ (fxBits - (-d.e).toNat)
  let y := 2 * x
  let k := y / ln2Fx
  let ex := expFx (y % ln2Fx) * 2 ^ k
  between ((ex - fxOne) * fxOne / (ex + fxOne)) false (-(fxBits : Int))

/-- FTANH of Table 8-12: abs(x) ≥ 9 gives exactly ±1. -/
def f32Tanh (x : F32) : F32 :=
  if isNan x then f32Nan
  else if isZero x then x
  else
    let big := isInf x || !dyLt (toDy (f32Abs x)) ⟨9, 0⟩
    let r := if big then f32One else ofDy .nearest (tanhPos (toDy (f32Abs x))) false
    if f32Sign x then f32Neg r else r

/-! ## Narrow formats (Table 3-3, R129, R147, R255) -/

/-- BF16 to binary32, exactly; a NaN becomes the quiet NaN of R724. -/
def f32OfBf16 (x : Nat) : F32 :=
  let y : F32 := BitVec.ofNat 32 ((x % 2 ^ 16) * 2 ^ 16)
  if isNan y then f32Nan else y

/-- binary32 to BF16 in a direction; every NaN is 0x7FC0 (R724). -/
def bf16Of (r : Rnd) (x : F32) : Nat :=
  if isNan x then 0x7FC0
  else if isInf x then (if f32Sign x then 0xFF80 else 0x7F80)
  else roundDy fmtBf16 r (toDy x) (f32Sign x)

/-- The exact value of a small format's finite magnitude bits. -/
def smallDy (prec : Nat) (qmin : Int) (mag : Nat) (neg : Bool) : Dy :=
  let ef := mag / 2 ^ (prec - 1)
  let fr := mag % 2 ^ (prec - 1)
  let m : Nat := if ef = 0 then fr else fr + 2 ^ (prec - 1)
  let e : Int := if ef = 0 then qmin else qmin + (ef : Int) - 1
  ⟨if neg then -(m : Int) else m, e⟩

def f32OfFp16 (x : Nat) : F32 :=
  let neg := bit x 15
  let mag := x % 2 ^ 15
  if 0x7C00 < mag then f32Nan
  else if mag = 0x7C00 then (if neg then f32NegInf else f32Inf)
  else ofDy .nearest (smallDy 11 (-24) mag neg) neg

def f32OfE4M3 (x : Nat) : F32 :=
  let neg := bit x 7
  let mag := x % 128
  if mag = 0x7F then f32Nan else ofDy .nearest (smallDy 4 (-9) mag neg) neg

def f32OfE5M2 (x : Nat) : F32 :=
  let neg := bit x 7
  let mag := x % 128
  if 0x7C < mag then f32Nan
  else if mag = 0x7C then (if neg then f32NegInf else f32Inf)
  else ofDy .nearest (smallDy 3 (-16) mag neg) neg

/-- An MXFP element times 2^(scale − 127); overflow gives ±∞, scale 0xFF gives NaN (R129). -/
def f32OfMx (prec : Nat) (qmin : Int) (w x scale : Nat) : F32 :=
  if scale = 0xFF then f32Nan
  else
    let neg := bit x (w - 1)
    let d := smallDy prec qmin (x % 2 ^ (w - 1)) neg
    ofDy .nearest ⟨d.m, d.e + (scale : Int) - 127⟩ neg

/-- FP16 rounding of R255. -/
def fp16Of (x : F32) : Nat :=
  if isNan x then 0x7E00
  else if isInf x then (if f32Sign x then 0xFC00 else 0x7C00)
  else roundDy fmtFp16 .nearest (toDy x) (f32Sign x)

/-- E4M3 rounding of R255: saturates to ±448, NaN gives 0x7F. -/
def e4m3Of (x : F32) : Nat :=
  if isNan x then 0x7F
  else
    let sg := if f32Sign x then 128 else 0
    if isInf x then 0x7E + sg
    else
      let b := roundDy fmtE4M3 .nearest (toDy (f32Abs x)) false
      min b 0x7E + sg

/-- E5M2 rounding of R255: ±∞ on overflow, NaN gives 0x7E. -/
def e5m2Of (x : F32) : Nat :=
  if isNan x then 0x7E
  else
    let sg := if f32Sign x then 128 else 0
    if isInf x then 0x7C + sg else roundDy fmtE5M2 .nearest (toDy (f32Abs x)) false + sg

/-- INT8 rounding of R255: nearest even, clamped to −128 … 127, NaN gives 0; as a byte pattern. -/
def int8Of (x : F32) : Nat :=
  if isNan x then 0
  else if isInf x then (if f32Sign x then 0x80 else 0x7F)
  else
    let d := toDy x
    let v : Int :=
      if 0 ≤ d.e then d.m * (2 : Int) ^ d.e.toNat
      else
        let k := (-d.e).toNat
        let a := d.m.natAbs
        let n := a / 2 ^ k
        let rem := a % 2 ^ k
        let n' := n + b2n (decide (2 ^ k < 2 * rem) || (decide (2 ^ k = 2 * rem) && n % 2 == 1))
        if d.m < 0 then -(n' : Int) else n'
    wrapInt 8 (max (-128) (min 127 v))

/-- CVTFU of Table 8-11. -/
def f32ToU32 (x : F32) : U32 :=
  if isNan x then 0#32
  else if f32Sign x then 0#32
  else if isInf x then 0xFFFFFFFF#32
  else
    let d := toDy x
    let n := if 0 ≤ d.e then d.m.toNat * 2 ^ d.e.toNat else d.m.toNat / 2 ^ (-d.e).toNat
    BitVec.ofNat 32 (min n (2 ^ 32 - 1))

end Sys2Proof.Machine
end

