-- ==== Sys2Proof/Machine/Codec.lean ====
section
/-!
DEFINITION. Element formats and raw pages (R83, R84), the base-delta page codec (R239–R246), low-rank images
(R253–R257) and the page summary (R96–R99).
-/

namespace Sys2Proof.Machine

/-! ## Formats and sizes (Tables 3-2, 3-3, 3-4) -/

/-- Head dimension d of a DCODE: 64, 96, 128, 192, 256; 576 elements of a latent row. -/
def dOf (dcode : Nat) : Nat := [64, 96, 128, 192, 256, 576].getD dcode 0

/-- Is the stream latent (LAYOUT 0b10). -/
def isLatent (layout : Nat) : Bool := layout == 2

/-- Key width d_k: d, or 576 for the latent layout. -/
def keyDim (dcode : Nat) : Nat := dOf dcode

/-- Value width d_v: d, or elements 0 to 511 of the latent row (Table 3-1). -/
def valDim (dcode : Nat) : Nat := if dcode = 5 then 512 else dOf dcode

/-- Widths of a page's parts: key and value, or the one latent part (R240). -/
def partDims (dcode : Nat) : List Nat := if dcode = 5 then [576] else [dOf dcode, dOf dcode]

/-- Formats with a scale byte per block of 32 elements. -/
def isMx (fmt : Nat) : Bool := fmt == 4 || fmt == 5 || fmt == 6

/-- Bytes of a row of n elements (Table 3-3). -/
def rowBytes (fmt n : Nat) : Nat :=
  if fmt = 0 ∨ fmt = 1 then 2 * n
  else if fmt = 4 ∨ fmt = 5 then 25 * n / 32
  else if fmt = 6 then 17 * n / 32
  else n

/-- Bytes of a position's row: key row and value row, or the latent row. -/
def posBytes (fmt dcode : Nat) : Nat := ((partDims dcode).map (rowBytes fmt)).sum

/-- Bytes of the INT8 scale trailer (R84); 0 for other formats. -/
def trailerBytes (fmt dcode : Nat) : Nat := if fmt = 7 then 4 * (partDims dcode).sum else 0

/-- Raw page size in bytes (Table 3-4). -/
def rawSize (fmt dcode : Nat) : Nat := 64 * posBytes fmt dcode + trailerBytes fmt dcode

/-- Chunks of 4,096 bytes. -/
def chunksFor (bytes : Nat) : Nat := ceilDiv bytes 4096

/-- Raw chunk count r of a stream (Table 3-4). -/
def rawChunks (fmt dcode : Nat) : Nat := chunksFor (rawSize fmt dcode)

/-- Blocks of a page (R240). -/
def blockCount (dcode : Nat) : Nat := 4 * (partDims dcode).sum / 32

/-- Symbol width w_s (Table 7-1). -/
def symWidth (fmt : Nat) : Nat :=
  if fmt = 0 ∨ fmt = 1 then 16 else if fmt = 4 ∨ fmt = 5 then 6 else if fmt = 6 then 4 else 8

/-! ## Rows as element codes -/

/-- n fields of w bits of a number, lowest first. -/
def unpackBits (n w x : Nat) : List Nat :=
  match n with
  | 0 => []
  | k + 1 => x % 2 ^ w :: unpackBits k w (x / 2 ^ w)

/-- The number whose w-bit fields are the list, lowest first. -/
def packBits (w : Nat) (xs : List Nat) : Nat := xs.foldr (fun v acc => v % 2 ^ w + 2 ^ w * acc) 0

/-- Element codes of a row of n elements. -/
def rowCodes (fmt n : Nat) (bs : Bytes) : List Nat :=
  if isMx fmt then
    let w := symWidth fmt
    let blk := 1 + 4 * w
    (List.range (n / 32)).flatMap (fun b => unpackBits 32 w (leAt bs (b * blk + 1) (4 * w)))
  else
    let k := symWidth fmt / 8
    (List.range n).map (fun i => leAt bs (i * k) k)

/-- Scale bytes of an MXFP row, one for each block of 32; empty for other formats. -/
def rowScales (fmt n : Nat) (bs : Bytes) : List Nat :=
  if isMx fmt then (List.range (n / 32)).map (fun b => (byteAt bs (b * (1 + 4 * symWidth fmt))).toNat) else []

/-- A row's bytes from its codes and scale bytes. -/
def rowOfCodes (fmt : Nat) (codes scales : List Nat) : Bytes :=
  if isMx fmt then
    let w := symWidth fmt
    (List.range (codes.length / 32)).flatMap (fun b =>
      BitVec.ofNat 8 (scales.getD b 0) :: leBytes (4 * w) (packBits w ((codes.drop (32 * b)).take 32)))
  else codes.flatMap (leBytes (symWidth fmt / 8))

/-- One element code as the f32 a core decodes it to (R129); `scale` is the block's E8M0 byte or the channel's f32
INT8 scale. -/
def decodeElem (fmt code scale : Nat) : F32 :=
  if fmt = 0 then f32OfBf16 code
  else if fmt = 1 then f32OfFp16 code
  else if fmt = 2 then f32OfE4M3 code
  else if fmt = 3 then f32OfE5M2 code
  else if fmt = 4 then f32OfMx 4 (-3) 6 code scale
  else if fmt = 5 then f32OfMx 3 (-4) 6 code scale
  else if fmt = 6 then f32OfMx 2 (-1) 4 code scale
  else f32Mul (ofDy .nearest ⟨sext 8 code, 0⟩ false) (BitVec.ofNat 32 scale)

/-- Decode a row of n elements; `chan` are the part's INT8 channel scales. -/
def decodeRow (fmt n : Nat) (bs : Bytes) (chan : List Nat) : List F32 :=
  let sc := rowScales fmt n bs
  (rowCodes fmt n bs).zipIdx.map (fun p => decodeElem fmt p.1 (if isMx fmt then sc.getD (p.2 / 32) 0 else chan.getD p.2 0))

/-- INT8 channel scales from a trailer of FP32 values. -/
def trailerScales (bs : Bytes) (n : Nat) : List Nat := (List.range n).map (fun i => leAt bs (4 * i) 4)

/-- Key and value of one position, decoded (Table 3-1): a latent row's value is its elements 0 to 511. -/
def decodePos (fmt dcode : Nat) (row trailer : Bytes) : List F32 × List F32 :=
  if dcode = 5 then
    let k := decodeRow fmt 576 row (trailerScales trailer 576)
    (k, k.take 512)
  else
    let d := dOf dcode
    let rb := rowBytes fmt d
    (decodeRow fmt d (row.take rb) (trailerScales trailer d),
     decodeRow fmt d (row.drop rb) (trailerScales (trailer.drop (4 * d)) d))

/-! ## The raw page (R84) -/

/-- The raw page from its 64 position rows and its trailer. -/
def rawPage (fmt dcode : Nat) (rows : List Bytes) (trailer : Bytes) : Bytes :=
  if dcode = 5 then rows.flatMap (fun r => r) ++ trailer
  else
    let rb := rowBytes fmt (dOf dcode)
    rows.flatMap (fun r => r.take rb) ++ rows.flatMap (fun r => r.drop rb) ++ trailer

/-- The position rows of a raw page. -/
def pageRows (fmt dcode : Nat) (raw : Bytes) : List Bytes :=
  if dcode = 5 then
    let rb := rowBytes fmt 576
    (List.range 64).map (fun i => slice raw (i * rb) rb)
  else
    let rb := rowBytes fmt (dOf dcode)
    (List.range 64).map (fun i => slice raw (i * rb) rb ++ slice raw ((64 + i) * rb) rb)

/-- The INT8 trailer of a raw page. -/
def pageTrailer (fmt dcode : Nat) (raw : Bytes) : Bytes := slice raw (64 * posBytes fmt dcode) (trailerBytes fmt dcode)

/-! ## Element map (R239) -/

def mu (fmt x : Nat) : Nat :=
  if fmt = 7 then (if x < 128 then 2 * x else 2 * (256 - x) - 1)
  else
    let w := symWidth fmt
    (x % 2 ^ (w - 1)) * 2 + x / 2 ^ (w - 1)

def muInv (fmt u : Nat) : Nat :=
  if fmt = 7 then (if u % 2 = 0 then u / 2 else 255 - u / 2)
  else u / 2 + (u % 2) * 2 ^ (symWidth fmt - 1)

/-! ## Tiles and blocks (R240–R242) -/

/-- A tile: 16 rows of 32 element codes and, for MXFP, the scale byte of each row. -/
structure Tile where
  codes : List (List Nat)
  scales : List Nat
  deriving DecidableEq, Repr

/-- Byte offset of part k's rows in a raw page. -/
def partOffset (fmt dcode k : Nat) : Nat := if k = 0 then 0 else 64 * rowBytes fmt (dOf dcode)

/-- The row of part k at position i of a raw page. -/
def partRow (fmt dcode k i : Nat) (raw : Bytes) : Bytes :=
  let n := (partDims dcode).getD k 0
  slice raw (partOffset fmt dcode k + i * rowBytes fmt n) (rowBytes fmt n)

/-- Tiles of one part in block order: ascending t, then ascending u (R240). -/
def partTiles (fmt n : Nat) (rows : List Bytes) : List Tile :=
  (List.range 4).flatMap (fun t => (List.range (n / 32)).map (fun u =>
    let rs := (rows.drop (16 * t)).take 16
    { codes := rs.map (fun r => ((rowCodes fmt n r).drop (32 * u)).take 32),
      scales := if isMx fmt then rs.map (fun r => (rowScales fmt n r).getD u 0) else [] }))

/-- Tiles of a raw page in block order. -/
def pageTiles (fmt dcode : Nat) (raw : Bytes) : List Tile :=
  (partDims dcode).zipIdx.flatMap (fun p =>
    partTiles fmt p.1 ((List.range 64).map (fun i => partRow fmt dcode p.2 i raw)))

/-- Least width that holds a value. -/
def widthOf (v : Nat) : Nat := bitLen v

/-- Tile rows of mapped symbols by channel. -/
def column (m : List (List Nat)) (c : Nat) : List Nat := m.map (fun r => r.getD c 0)

/-- Bytes of a field list packed least significant bit first from bit 0. -/
def packList (fs : List (Nat × Nat)) : Nat := fs.foldr (fun f acc => f.2 % 2 ^ f.1 + 2 ^ f.1 * acc) 0

/-- Bits of a field list. -/
def listBits (fs : List (Nat × Nat)) : Nat := (fs.map (fun f => f.1)).sum

/-- The widths W[0..7] of eight channel groups from the values stored (Table 7-2). -/
def groupWidths (vals : List (List Nat)) : List Nat :=
  (List.range 8).map (fun g =>
    widthOf ((vals.flatMap (fun r => (r.drop (4 * g)).take 4)).foldl max 0))

/-- Fields of the scale bytes. -/
def scaleFields (t : Tile) : List (Nat × Nat) := t.scales.map (fun s => (8, s))

/-- Raw size of a tile in bits. -/
def tileBits (fmt : Nat) : Nat := (if isMx fmt then 128 else 0) + 512 * symWidth fmt

/-- An escaped block: the codes themselves. -/
def escapedFields (fmt : Nat) (t : Tile) : List (Nat × Nat) :=
  [(1, 1), (7, 0)] ++ scaleFields t ++ t.codes.flatMap (fun r => r.map (fun x => (symWidth fmt, x)))

/-- A block whose values take the given widths; `bases` is empty in a residual block (R253). -/
def codedFields (fmt : Nat) (t : Tile) (bases : List Nat) (vals : List (List Nat)) (ws : List Nat) : List (Nat × Nat) :=
  [(1, 0), (7, 0)] ++ ws.map (fun w => (5, w)) ++ scaleFields t ++ bases.map (fun b => (symWidth fmt, b)) ++
    vals.flatMap (fun r => r.zipIdx.map (fun p => (ws.getD (p.2 / 4) 0, p.1)))

/-- Coded unless the coded block would not be smaller than the tile (R242 step 4). -/
def chooseBlock (fmt : Nat) (t : Tile) (bases : List Nat) (vals : List (List Nat)) : Bytes :=
  let ws := groupWidths vals
  let fs := codedFields fmt t bases vals ws
  let es := if listBits fs < tileBits fmt then fs else escapedFields fmt t
  leBytes (listBits es / 8) (packList es)

/-- R242: code one tile. -/
def encodeTile (fmt : Nat) (t : Tile) : Bytes :=
  let m := t.codes.map (fun r => r.map (mu fmt))
  let bases := (List.range 32).map (fun c => match column m c with
    | [] => 0
    | x :: xs => xs.foldl min x)
  let vals := m.map (fun r => r.zipIdx.map (fun p => p.1 - bases.getD p.2 0))
  chooseBlock fmt t bases vals

/-- R243, R244: the stored form of a sealed page and its CODED_BYTES: coded when that is smaller than raw. -/
def encodePage (fmt dcode : Nat) (raw : Bytes) : Bytes :=
  let coded := ((pageTiles fmt dcode raw).flatMap (encodeTile fmt)) ++ pageTrailer fmt dcode raw
  if rawSize fmt dcode ≤ coded.length then raw else coded

/-- A block being read: the stored values (deltas, zigzags, or codes when escaped). -/
structure RawBlock where
  esc : Bool
  scales : List Nat
  bases : List Nat
  vals : List (List Nat)
  size : Nat
  deriving DecidableEq, Repr

/-- Read rows of 32 values of the given widths. -/
def takeRow (ws : List Nat) (x : Nat) : List Nat × Nat :=
  ws.foldl (fun acc w => (acc.1 ++ [acc.2 % 2 ^ w], acc.2 / 2 ^ w)) ([], x)

def takeRows (n : Nat) (ws : List Nat) (x : Nat) : List (List Nat) :=
  match n with
  | 0 => []
  | k + 1 => let p := takeRow ws x; p.1 :: takeRows k ws p.2

/-- Read the block at the front of a byte string: widths at most wmax, `nbase` bases. None on a format fault of
R246 (or R257 for a residual block): a width too large, a nonzero RSVD bit, or too few bytes. -/
def readBlock (fmt wmax nbase : Nat) (bs : Bytes) : Option RawBlock :=
  let s := symWidth fmt
  let sg := if isMx fmt then 16 else 0
  let b0 := (byteAt bs 0).toNat
  if bs.isEmpty || b0 / 2 != 0 then none
  else if b0 % 2 = 1 then
    let size := (8 + 8 * sg + 512 * s) / 8
    if bs.length < size then none
    else some {
      esc := true, scales := (List.range sg).map (fun i => (byteAt bs (1 + i)).toNat), bases := [],
      vals := takeRows 16 (List.replicate 32 s) (leAt bs (1 + sg) (64 * s)), size := size }
  else
    let ws := unpackBits 8 5 (leAt bs 1 5)
    if bs.length < 6 || ws.any (fun w => decide (wmax < w)) then none
    else
      let size := (48 + 8 * sg + nbase * s + 64 * ws.sum) / 8
      let h := (48 + 8 * sg + nbase * s) / 8
      if bs.length < size then none
      else some {
        esc := false, scales := (List.range sg).map (fun i => (byteAt bs (6 + i)).toNat),
        bases := unpackBits nbase s (leAt bs (6 + sg) (nbase * s / 8)),
        vals := takeRows 16 (ws.flatMap (fun w => List.replicate 4 w)) (leAt bs h (8 * ws.sum)), size := size }

/-- Decode a coded block to its tile; none on a format fault (R246). -/
def decodeBlock (fmt : Nat) (bs : Bytes) : Option (Tile × Nat) :=
  match readBlock fmt (symWidth fmt) 32 bs with
  | none => none
  | some b =>
    if b.esc then some ({ codes := b.vals, scales := b.scales }, b.size)
    else
      let m := b.vals.map (fun r => r.zipIdx.map (fun p => p.1 + b.bases.getD p.2 0))
      if m.any (fun r => r.any (fun v => decide (2 ^ symWidth fmt ≤ v))) then none
      else some ({ codes := m.map (fun r => r.map (muInv fmt)), scales := b.scales }, b.size)

def decodeBlocks (fmt n : Nat) (bs : Bytes) : Option (List Tile × Bytes) :=
  match n with
  | 0 => some ([], bs)
  | k + 1 =>
    match decodeBlock fmt bs with
    | none => none
    | some (t, size) =>
      match decodeBlocks fmt k (bs.drop size) with
      | none => none
      | some (ts, r) => some (t :: ts, r)

/-- Rows of one part from its tiles (n/32 tiles for each 16 positions). -/
def tilesToRows (fmt n : Nat) (ts : List Tile) : List Bytes :=
  let u := n / 32
  (List.range 64).map (fun i =>
    let row := (ts.drop (i / 16 * u)).take u
    rowOfCodes fmt (row.flatMap (fun t => t.codes.getD (i % 16) [])) (row.map (fun t => t.scales.getD (i % 16) 0)))

/-- A page's raw bytes from its tiles and trailer. -/
def pageOfTiles (fmt dcode : Nat) (ts : List Tile) (trailer : Bytes) : Bytes :=
  if dcode = 5 then (tilesToRows fmt 576 ts).flatMap (fun r => r) ++ trailer
  else
    let n := dOf dcode
    let k := 4 * (n / 32)
    (tilesToRows fmt n (ts.take k)).flatMap (fun r => r) ++ (tilesToRows fmt n (ts.drop k)).flatMap (fun r => r) ++ trailer

/-- R243–R246: the raw page from its stored form of CODED_BYTES bytes; none on a format fault. `kindRaw` is sector
KIND 0x02. -/
def decodePage (fmt dcode codedBytes : Nat) (kindRaw : Bool) (bs : Bytes) : Option Bytes :=
  let rs := rawSize fmt dcode
  if rs < codedBytes then none
  else if kindRaw != (codedBytes == rs) then none
  else if kindRaw then some (fitTo rs bs)
  else
    match decodeBlocks fmt (blockCount dcode) (bs.take codedBytes) with
    | none => none
    | some (ts, rest) =>
      if rest.length = trailerBytes fmt dcode ∧ codedBytes ≤ bs.length then some (pageOfTiles fmt dcode ts rest) else none

/-! ## Low-rank images (R253–R257) -/

/-- R254. -/
def lrApprox (u v : List F32) : F32 := (u.zip v).foldl (fun a p => fma p.1 p.2 a) f32Zero

/-- R255: the element code nearest a. -/
def rho (fmt : Nat) (a : F32) : Nat :=
  if fmt = 0 then bf16Of .nearest a
  else if fmt = 1 then fp16Of a
  else if fmt = 2 then e4m3Of a
  else if fmt = 3 then e5m2Of a
  else int8Of a

/-- Undo the zigzag of R256. -/
def unzig (z : Nat) : Int := if z % 2 = 0 then (z / 2 : Nat) else -((z / 2 + 1 : Nat) : Int)

/-- A matrix of BF16 values stored row by row. -/
def bf16Rows (rows cols : Nat) (bs : Bytes) : List (List F32) :=
  (List.range rows).map (fun i => (List.range cols).map (fun j => f32OfBf16 (leAt bs (2 * (i * cols + j)) 2)))

/-- Decode the residual blocks of a part's tiles: codes, or none on a fault of R257. -/
def lrTile (fmt : Nat) (u v : List (List F32)) (t c0 : Nat) (b : RawBlock) : Option Tile :=
  if b.esc then some { codes := b.vals, scales := [] }
  else
    let m : List (List Int) := b.vals.zipIdx.map (fun r => r.1.zipIdx.map (fun p =>
      (mu fmt (rho fmt (lrApprox (u.getD (16 * t + r.2) []) (column32 v (c0 + p.2)))) : Int) + unzig p.1))
    if m.any (fun r => r.any (fun x => decide (x < 0) || decide (((2 ^ symWidth fmt : Nat) : Int) ≤ x))) then none
    else some { codes := m.map (fun r => r.map (fun x => muInv fmt x.toNat)), scales := [] }
where
  /-- Column c of v. -/
  column32 (v : List (List F32)) (c : Nat) : List F32 := v.map (fun r => r.getD c f32Zero)

def lrTiles (fmt : Nat) (u v : List (List F32)) (cols : Nat) (ks : List Nat) (bs : Bytes) : Option (List Tile × Bytes) :=
  match ks with
  | [] => some ([], bs)
  | k :: rest =>
    match readBlock fmt (symWidth fmt + 1) 0 bs with
    | none => none
    | some b =>
      match lrTile fmt u v (k / cols) (32 * (k % cols)) b with
      | none => none
      | some t =>
        match lrTiles fmt u v cols rest (bs.drop b.size) with
        | none => none
        | some (ts, r) => some (t :: ts, r)

/-- One part image of Table 7-5. -/
def lrPart (fmt n : Nat) (bs : Bytes) : Option (List Tile × Bytes) :=
  let k := (byteAt bs 0).toNat
  if bs.length < 4 || !allZero (slice bs 1 3) || decide (8 < k) then none
  else
    let ub := 128 * k
    let vb := 2 * k * n
    if bs.length < 4 + ub + vb then none
    else lrTiles fmt (bf16Rows 64 k (slice bs 4 ub)) (bf16Rows k n (slice bs (4 + ub) vb)) (n / 32)
      (List.range (4 * (n / 32))) (bs.drop (4 + ub + vb))

def lrParts (fmt : Nat) (dims : List Nat) (bs : Bytes) : Option (List Tile × Bytes) :=
  match dims with
  | [] => some ([], bs)
  | n :: rest =>
    match lrPart fmt n bs with
    | none => none
    | some (ts, r) =>
      match lrParts fmt rest r with
      | none => none
      | some (us, r') => some (ts ++ us, r')

/-- The stored form of a residual (R256). -/
def zig (r : Int) : Nat := if 0 ≤ r then 2 * r.toNat else 2 * (-r).toNat - 1

/-- R256: the residual block of tile t, c0 of a part: μ(x) − μ(ρ(a)) of every code, in the least widths, escaped when
the block would not be smaller than the codes themselves. -/
def lrEncodeTile (fmt : Nat) (u v : List (List F32)) (t c0 : Nat) (tile : Tile) : Bytes :=
  chooseBlock fmt tile [] (tile.codes.zipIdx.map (fun r => r.1.zipIdx.map (fun p =>
    zig ((mu fmt p.1 : Int) - (mu fmt (rho fmt (lrApprox (u.getD (16 * t + r.2) []) (lrTile.column32 v (c0 + p.2)))) : Int)))))

/-- A part's factors as BF16 codes: U of 64 rows of k, V of k rows of the part's channels. -/
structure Factors where
  u : List (List Nat)
  v : List (List Nat)
  deriving DecidableEq, Repr

def bf16Bytes (m : List (List Nat)) : Bytes := m.flatMap (fun r => r.flatMap (leBytes 2))

/-- One part image of Table 7-5. -/
def lrEncodePart (fmt n : Nat) (f : Factors) (rows : List Bytes) : Bytes :=
  let u := f.u.map (fun r => r.map f32OfBf16)
  let v := f.v.map (fun r => r.map f32OfBf16)
  leBytes 1 f.v.length ++ leBytes 3 0 ++ bf16Bytes f.u ++ bf16Bytes f.v ++
    (partTiles fmt n rows).zipIdx.flatMap (fun p => lrEncodeTile fmt u v (p.2 / (n / 32)) (32 * (p.2 % (n / 32))) p.1)

/-- R253: the low-rank image of a raw page. The fit of U and V is the encoder's own procedure (R257), so the factors
of each part are given; the page decoded does not depend on them. The node's own images are coded or raw (DEDUCED, log 164). -/
def lrEncode (fmt dcode fmtVer version : Nat) (fs : List Factors) (raw : Bytes) : Bytes :=
  let parts := ((partDims dcode).zip fs).zipIdx.flatMap (fun p =>
    lrEncodePart fmt p.1.1 p.1.2 ((List.range 64).map (fun i => partRow fmt dcode p.2 i raw)))
  let body := parts ++ pageTrailer fmt dcode raw
  leBytes 1 2 ++ leBytes 1 fmt ++ leBytes 1 dcode ++ leBytes 1 fmtVer ++ leBytes 4 version ++
    leBytes 4 (16 + body.length) ++ leBytes 4 0 ++ body

/-- R253, R257, R258: the raw page a page image holds (Table 7-5 header, then a low-rank image, a coded page or a
raw page); none when the image is to be rejected. -/
def decodeImage (fmt dcode pfv : Nat) (img : Bytes) : Option Bytes :=
  let kind := (byteAt img 0).toNat
  let body := img.drop 16
  let okHead := (byteAt img 1).toNat == fmt && (byteAt img 2).toNat == dcode && decide (1 ≤ (byteAt img 3).toNat) && decide ((byteAt img 3).toNat ≤ pfv) &&
    leAt img 8 4 == img.length && allZero (slice img 12 4) && decide (16 ≤ img.length)
  if !okHead then none
  else if kind = 1 then (if body.length < rawSize fmt dcode then decodePage fmt dcode body.length false body else none)
  else if kind = 3 then (if body.length = rawSize fmt dcode then some body else none)
  else if kind = 2 then
    if isMx fmt then none
    else
      match lrParts fmt (partDims dcode) body with
      | none => none
      | some (ts, rest) => if rest.length = trailerBytes fmt dcode then some (pageOfTiles fmt dcode ts rest) else none
  else none

/-! ## The page summary (R96–R99) -/

/-- Bytes of a summary (R96). -/
def summarySize (dcode : Nat) : Nat := 48 + 4 * keyDim dcode

/-- R97: one channel's minimum or maximum over the decoded keys, in BF16. -/
def summaryBound (r : Rnd) (xs : List F32) : Nat :=
  if xs.any isNan then 0x7FC0
  else match xs with
    | [] => 0
    | x :: rest => bf16Of r (rest.foldl (fun a b => match r with
        | .up => f32Max a b
        | _ => f32Min a b) x)

/-- 1 + 2^−11. -/
def onePlus11 : F32 := 0x3F801000#32

/-- R98: the key norm maximum. -/
def keyNorm (keys : List (List F32)) : F32 :=
  let roots := keys.map (fun k => f32SqrtR .nearest (k.foldl (fun s x => fma x x s) f32Zero))
  if roots.any isNan then f32Nan else mulUp (roots.foldl f32Max f32Zero) onePlus11

/-- R99: the sums s[c], then the 128 values t. -/
def signatureT (keys : List (List F32)) (dk : Nat) : List F32 :=
  let s := (List.range dk).map (fun c => keys.foldl (fun a k => f32Add a (k.getD c f32Zero)) f32Zero)
  if 128 ≤ dk then
    (List.range 128).map (fun i =>
      ((List.range dk).filter (fun c => c % 128 == i)).foldl (fun a c => f32Add a (s.getD c f32Zero)) f32Zero)
  else
    (List.range 128).map (fun i =>
      if i < dk then s.getD i f32Zero
      else
        let j := (i - dk) % dk
        f32Sub (s.getD j f32Zero) (s.getD ((j + 1) % dk) f32Zero))

/-- R99: the 128-bit sign signature of vectors already summed or single. -/
def signBits (t : List F32) : Nat := packBits 1 (t.map (fun x => b2n (f32Ge0 x)))

def signature (keys : List (List F32)) (dk : Nat) : Nat := signBits (signatureT keys dk)

/-- The identity a summary header names (Table 3-7). -/
structure SumId where
  ctx : Nat
  layer : Nat
  kvh : Nat
  page : Nat
  deriving DecidableEq, Repr

/-- Table 3-7 as 28 bytes. -/
def summaryHeader (fmt dcode : Nat) (id : SumId) (version codedBytes : Nat) : Bytes :=
  leBytes 28 (packFields [(160, 32, codedBytes), (128, 4, chunksFor codedBytes - 1), (80, 48, id.ctx), (72, 8, id.layer),
    (66, 6, id.kvh), (48, 18, id.page), (16, 32, version), (12, 3, dcode), (8, 4, fmt), (0, 8, 1)])

/-- R96: the summary of a page from its raw form. -/
def summaryOf (fmt dcode : Nat) (id : SumId) (version codedBytes : Nat) (raw : Bytes) : Bytes :=
  let tr := pageTrailer fmt dcode raw
  let keys := (pageRows fmt dcode raw).map (fun r => (decodePos fmt dcode r tr).1)
  let dk := keyDim dcode
  let col (c : Nat) : List F32 := keys.map (fun k => k.getD c f32Zero)
  summaryHeader fmt dcode id version codedBytes ++
    (List.range dk).flatMap (fun c => leBytes 2 (summaryBound .down (col c))) ++
    (List.range dk).flatMap (fun c => leBytes 2 (summaryBound .up (col c))) ++
    leBytes 4 (keyNorm keys).toNat ++ leBytes 16 (signature keys dk)

/-- Fields of a stored summary. -/
def sumCodedBytes (s : Bytes) : Nat := bits (leAt s 0 28) 191 160
def sumMin (s : Bytes) (c : Nat) : F32 := f32OfBf16 (leAt s (28 + 2 * c) 2)
def sumMax (dk : Nat) (s : Bytes) (c : Nat) : F32 := f32OfBf16 (leAt s (28 + 2 * dk + 2 * c) 2)
def sumNorm (dk : Nat) (s : Bytes) : F32 := BitVec.ofNat 32 (leAt s (28 + 4 * dk) 4)
def sumSig (dk : Nat) (s : Bytes) : Nat := leAt s (32 + 4 * dk) 16

end Sys2Proof.Machine
end

