-- ==== Sys2Proof/Machine/Attn.lean ====
section
/-!
DEFINITION. The arithmetic of attention: scores (R130), page partials (R132–R134), the merge rule (R137), the
partial record (R146), candidate trees (R158), the selection bound and the omitted partial (R193, R195), Oboe search
keys (R216) and the recurrent state step (R183).
-/

namespace Sys2Proof.Machine

/-- A partial (R132). -/
structure Part where
  m : F32
  l : F32
  b : F32
  n : Nat
  flags : Nat
  o : List F32
  deriving DecidableEq, Repr

/-! ## FLAGS bits (Table 4-6) -/

def flLate : Nat := 0x001
def flUnderflow : Nat := 0x002
def flOmitted : Nat := 0x008
def flNonfinite : Nat := 0x010
def flBf16 : Nat := 0x020
def flPeer : Nat := 0x040
def flFullOpen : Nat := 0x080
def flProvisional : Nat := 0x100
def flEmpty : Nat := 0x200

/-- The identity partial (R132). -/
def identityPart (dv : Nat) : Part := ⟨f32NegInf, f32Zero, f32Zero, 0, 0, List.replicate dv f32Zero⟩

/-- The form of R131: every field the quiet NaN, NONFINITE set beside the given flags. -/
def nanPart (n flags dv : Nat) : Part := ⟨f32Nan, f32Nan, f32Nan, n, flags ||| flNonfinite, List.replicate dv f32Nan⟩

/-- Any element infinite or NaN. -/
def anyBad (xs : List F32) : Bool := xs.any (fun x => !isFinite x)

/-! ## Scores (R130) -/

/-- One of the eight lanes: channels j, j + 8, … in order. -/
def lane (q k : List F32) (j : Nat) : F32 :=
  ((q.zip k).zipIdx.filter (fun e => e.2 % 8 == j)).foldl (fun a e => fma e.1.1 e.1.2 a) f32Zero

/-- R130 before the score program. -/
def score (q k : List F32) (scale2 : F32) : F32 :=
  let a := lane q k
  f32Mul (f32Add (f32Add (f32Add (a 0) (a 1)) (f32Add (a 2) (a 3))) (f32Add (f32Add (a 4) (a 5)) (f32Add (a 6) (a 7)))) scale2

/-! ## The page partial (R131, R133, R134) -/

/-- A position of a page as a row's partial sees it: its score and its value row; masked positions are left out
before this list is made. -/
structure LivePos where
  t : F32
  v : List F32
  deriving DecidableEq, Repr

/-- o := fma(p, v, o) channel by channel. -/
def axpy (p : F32) (v o : List F32) : List F32 := (v.zip o).map (fun e => fma p e.1 e.2)

/-- Constants of the underflow rule. -/
def negF126 : F32 := 0xC2FC0000#32
def f126 : F32 := 0x42FC0000#32

/-- The accumulating loop of R134; `nu` counts the positions cut to zero. -/
def partLoop (m : F32) (ps : List LivePos) (r : Part) (nu : Nat) : Part × Nat :=
  match ps with
  | [] => (r, nu)
  | p :: rest =>
    let x := f32Sub p.t m
    if f32Lt x negF126 then partLoop m rest { r with n := r.n + 1 } (nu + 1)
    else
      let e := f32Exp2 x
      partLoop m rest { r with n := r.n + 1, l := f32Add r.l e, o := axpy e p.v r.o } nu

/-- The page partial of the live positions of a page, ascending (R131, R133, R134). -/
def pagePartial (ps : List LivePos) (dv : Nat) : Part :=
  if ps.isEmpty then identityPart dv
  else if ps.any (fun p => isNan p.t || p.t == f32Inf) then nanPart ps.length 0 dv
  else
    let tmax := ps.foldl (fun a p => if f32Lt a p.t then p.t else a) f32NegInf
    let m := f32Ceil tmax
    let q := partLoop m ps { identityPart dv with m := m } 0
    let r := q.1
    let r := if q.2 = 0 then r
      else { r with flags := r.flags ||| flUnderflow, b := ldexp (f32OfNat .nearest q.2) (-126) }
    if anyBad r.o then { r with flags := r.flags ||| flNonfinite } else r

/-! ## The merge rule (R137) -/

/-- Fold one of the two parts into the result. -/
def mergeOne (r x : Part) : Part :=
  if f32Lt f126 (f32Sub r.m x.m) then
    { r with flags := r.flags ||| flUnderflow, b := addUp r.b (ldexpUp (addUp x.l x.b) (-127)) }
  else
    let e := f32ToInt (f32Sub x.m r.m)
    { r with
      l := f32Add r.l (ldexp x.l e)
      b := addUp r.b (ldexpUp x.b e)
      o := (r.o.zip x.o).map (fun p => f32Add p.1 (ldexp p.2 e)) }

/-- The merge of the running fold a and the next part b (R137). -/
def mergePart (a b : Part) : Part :=
  if a.m = f32NegInf then { b with n := a.n + b.n, flags := a.flags ||| b.flags }
  else if b.m = f32NegInf then { a with n := a.n + b.n, flags := a.flags ||| b.flags }
  else if isNan a.m || isNan b.m then
    { nanPart (a.n + b.n) (a.flags ||| b.flags) a.o.length with n := a.n + b.n }
  else
    let r0 : Part := ⟨f32Max a.m b.m, f32Zero, f32Zero, a.n + b.n, a.flags ||| b.flags, List.replicate a.o.length f32Zero⟩
    let r := mergeOne (mergeOne r0 a) b
    if anyBad r.o || !isFinite r.l then { r with flags := r.flags ||| flNonfinite } else r

/-- A left fold from the identity partial (R138, R143). -/
def foldParts (dv : Nat) (ps : List Part) : Part := ps.foldl mergePart (identityPart dv)

/-! ## The partial record (Tables 4-4 to 4-6) -/

/-- Output elements as the record carries them (R147). -/
def outElem (bf16 : Bool) (x : F32) : F32 := if bf16 then f32OfBf16 (bf16Of .nearest x) else x

/-- R146, R147: the bytes of a record; `extra` are the flags of R144, R155 and R162. -/
def recordBytes (p : Part) (qhead : Nat) (bf16 : Bool) (extra : Nat) : Bytes :=
  let bad := anyBad (p.o.map (outElem bf16)) || !isFinite p.l || !isFinite p.b || isNan p.m || p.m == f32Inf
  let fl := p.flags ||| extra ||| (if bf16 then flBf16 else 0) ||| (if bad then flNonfinite else 0)
    ||| (if p.m = f32NegInf then flEmpty else 0)
  leBytes 4 p.m.toNat ++ leBytes 4 p.l.toNat ++ leBytes 4 p.b.toNat ++ leBytes 4 p.n ++ leBytes 2 fl ++
    leBytes 2 qhead ++ p.o.flatMap (fun x => if bf16 then leBytes 2 (bf16Of .nearest x) else leBytes 4 x.toNat)

/-- QHEAD of ATTEND and SELECT (Table 4-5). -/
def qheadAttend (head row : Nat) : Nat := packFields [(0, 12, head), (12, 4, row)]

/-- QHEAD of VERIFY (Table 5-3). -/
def qheadVerify (head node : Nat) : Nat := packFields [(0, 10, head), (10, 6, node)]

/-- Read a record back into a partial, widening BF16 exactly (R147). -/
def partOfRecord (dv : Nat) (bs : Bytes) : Part :=
  let fl := leAt bs 16 2
  let bf := bit fl 5
  { m := BitVec.ofNat 32 (leAt bs 0 4), l := BitVec.ofNat 32 (leAt bs 4 4), b := BitVec.ofNat 32 (leAt bs 8 4),
    n := leAt bs 12 4,
    flags := fl &&& (flLate ||| flUnderflow ||| flOmitted ||| flNonfinite ||| flFullOpen ||| flProvisional),
    o := (List.range dv).map (fun c =>
      if bf then f32OfBf16 (leAt bs (20 + 2 * c) 2) else BitVec.ofNat 32 (leAt bs (20 + 4 * c) 4)) }

/-! ## Candidate trees (R158–R161) -/

/-- Ancestors-and-self mask and depth of every node of a parent array (R158); parents are checked first (R160). -/
def treeMask (par : List Nat) : List (Nat × Nat) :=
  par.foldl (fun acc p =>
    let i := acc.length
    acc ++ [if p = 0xFF then (2 ^ i, 0)
      else ((acc.getD p (0, 0)).1 ||| 2 ^ i, (acc.getD p (0, 0)).2 + 1)]) []

/-- R160: every parent byte below T is 0xFF or below its own index, and bytes T to 63 are 0. -/
def treeOk (par : Bytes) (t : Nat) : Bool :=
  (List.range 64).all (fun i =>
    let p := (byteAt par i).toNat
    if i < t then p == 0xFF || decide (p < i) else p == 0)

/-! ## Selection (R193, R195) -/

/-- 2^−17, 1 + 2^−17, 1 + 2^−23, 1 − 2^−24, 1 + 2^−21. -/
def c2m17 : F32 := 0x37000000#32
def c1p17 : F32 := 0x3F800040#32
def c1p23 : F32 := 0x3F800001#32
def c1m24 : F32 := 0x3F7FFFFF#32
def c1p21 : F32 := 0x3F800004#32

/-- R193: an upper bound on the score of any key inside a summary's box; lo and hi are the box in f32. -/
def pageUpper (q lo hi : List F32) (nmax scale2 : F32) : F32 :=
  let s := (q.zip (lo.zip hi)).foldl (fun (acc : F32 × F32 × F32) e =>
    let a := mulUp e.1 e.2.1
    let b := mulUp e.1 e.2.2
    (addUp acc.1 (f32Max a b),
     addUp acc.2.1 (mulUp (f32Abs e.1) (f32Max (f32Abs e.2.1) (f32Abs e.2.2))),
     addUp acc.2.2 (mulUp e.1 e.1))) (f32Zero, f32Zero, f32Zero)
  let box := addUp s.1 (mulUp c2m17 s.2.1)
  let nrm := mulUp (mulUp (f32SqrtR .up s.2.2) nmax) c1p17
  let t := mulUp (f32Min box nrm) scale2
  if f32Ge0 t then mulUp t c1p23 else mulUp t c1m24

/-- R195: the omitted partial of a page with np positions in the row's range. -/
def omittedPart (u : F32) (np dv : Nat) : Part :=
  if np = 0 ∨ u = f32NegInf then identityPart dv
  else if isNan u || u == f32Inf then nanPart 0 flOmitted dv
  else
    let m := f32Ceil u
    let x := subUp u m
    let p := if isZero x then f32One else f32Min f32One (mulUp (f32Exp2 x) c1p21)
    { identityPart dv with m := m, b := mulUp (f32OfNat .nearest np) p, flags := flOmitted }

/-- Selection keys compare with NaN above every number (R193): does a rank strictly above b. -/
def keyAbove (a b : F32) : Bool := if isNan a then !isNan b else !isNan b && f32Lt b a

/-- The largest of a page's bounds over its rows (R193). -/
def selKey (us : List F32) : F32 := us.foldl (fun a u => if keyAbove u a then u else a) f32NegInf

/-- R194: insert a page into a list ranked by selection key, ties to the lower page index. -/
def rankInsert (e : Nat × F32) (xs : List (Nat × F32)) : List (Nat × F32) :=
  match xs with
  | [] => [e]
  | x :: rest =>
    if keyAbove e.2 x.2 || (!keyAbove x.2 e.2 && decide (e.1 < x.1)) then e :: x :: rest else x :: rankInsert e rest

/-- Pages ranked by R194. -/
def rankPages (xs : List (Nat × F32)) : List Nat := (xs.foldl (fun acc e => rankInsert e acc) []).map (fun e => e.1)

/-! ## Oboe search keys (R216, R217) -/

/-- Rank of the 128 sums: larger magnitude first, NaN last, ties by ascending index. -/
def absAbove (a b : F32) : Bool :=
  if isNan a then false else if isNan b then true else f32Lt (f32Abs b) (f32Abs a)

def rankBitInsert (e : Nat × F32) (xs : List (Nat × F32)) : List (Nat × F32) :=
  match xs with
  | [] => [e]
  | x :: rest => if absAbove e.2 x.2 then e :: x :: rest else x :: rankBitInsert e rest

/-- R216: care and value masks, one pair per probe. -/
def searchKeys (rows : List (List F32)) (dk probes nbits : Nat) : List (Nat × Nat) :=
  let t := foldSums ((List.range dk).map (fun c => rows.foldl (fun a q => f32Add a (q.getD c f32Zero)) f32Zero)) dk
  let rank := (t.zipIdx.foldl (fun acc e => rankBitInsert (e.2, e.1) acc) []).map (fun e => e.1)
  (List.range probes).map (fun j =>
    let mine := (rank.drop (j * nbits)).take nbits
    (mine.foldl (fun a i => a ||| 2 ^ i) 0,
     mine.foldl (fun a i => if f32Ge0 (t.getD i f32Nan) then a ||| 2 ^ i else a) 0))
where
  /-- The steps of R99 from the channel sums onward. -/
  foldSums (s : List F32) (dk : Nat) : List F32 :=
    if 128 ≤ dk then
      (List.range 128).map (fun i =>
        ((List.range dk).filter (fun c => c % 128 == i)).foldl (fun a c => f32Add a (s.getD c f32Zero)) f32Zero)
    else
      (List.range 128).map (fun i =>
        if i < dk then s.getD i f32Zero
        else
          let j := (i - dk) % dk
          f32Sub (s.getD j f32Zero) (s.getD ((j + 1) % dk) f32Zero))

/-- R217: does a signature match a (care, value) pair. -/
def sigMatches (sig : Nat) (k : Nat × Nat) : Bool := sig &&& k.1 == k.2

/-! ## Recurrent state (R183) -/

/-- One token's inputs. -/
structure StepIn where
  q : List F32
  k : List F32
  v : List F32
  g : List F32
  beta : F32
  deriving DecidableEq, Repr

/-- R183: one token on a state of rows s[i]; answers the new state and the output. -/
def stepToken (s : List (List F32)) (x : StepIn) (mode : Nat) : List (List F32) × List F32 :=
  let w := x.v.zipIdx.map (fun e =>
    f32Sub e.1 (if mode = 1 then (s.zip x.k).foldl (fun u r => fma (r.1.getD e.2 f32Zero) r.2 u) f32Zero else f32Zero))
  let s' := (s.zip (x.k.zip x.g)).map (fun r =>
    let kb := f32Mul x.beta r.2.1
    (r.1.zip w).map (fun e => fma kb e.2 (f32Mul r.2.2 e.1)))
  let out := (List.range x.v.length).map (fun j => (x.q.zip s').foldl (fun o r => fma r.1 (r.2.getD j f32Zero) o) f32Zero)
  (s', out)

/-- R182: one entry of the payload. -/
def stepInOf (dk dv : Nat) (bs : Bytes) : StepIn :=
  let bf (off n : Nat) : List F32 := (List.range n).map (fun i => f32OfBf16 (leAt bs (off + 2 * i) 2))
  { q := bf 0 dk, k := bf (2 * dk) dk, v := bf (4 * dk) dv,
    g := (List.range dk).map (fun i => BitVec.ofNat 32 (leAt bs (4 * dk + 2 * dv + 4 * i) 4)),
    beta := BitVec.ofNat 32 (leAt bs (8 * dk + 2 * dv) 4) }

/-- R182: bytes of one entry. -/
def stepInBytes (dk dv : Nat) : Nat := 8 * dk + 2 * dv + 8

/-- State rows from a state half's bytes (R179). -/
def stateRows (dk dv : Nat) (bs : Bytes) : List (List F32) :=
  (List.range dk).map (fun i => (List.range dv).map (fun j => BitVec.ofNat 32 (leAt bs (4 * (i * dv + j)) 4)))

/-- The bytes of state rows. -/
def stateBytes (s : List (List F32)) : Bytes := s.flatMap (fun r => r.flatMap (fun x => leBytes 4 x.toNat))

/-- R184: one output: header and o. -/
def stepOutBytes (head tok flags : Nat) (o : List F32) : Bytes :=
  leBytes 8 (packFields [(0, 16, head), (16, 16, tok), (32, 16, flags)]) ++ o.flatMap (fun x => leBytes 4 x.toNat)

end Sys2Proof.Machine
end

