-- ==== Sys2Proof/Machine/ScoreProg.lean ====
section
/-!
DEFINITION. Score programs: encoding (Table 8-10), validation (R295, R296, R301), the mask-only property (R299) and
execution (R293, R294, Tables 8-9, 8-11, 8-12).
-/

namespace Sys2Proof.Machine

/-- An image: instruction words and the constants k0 to k15 (R300, R302). -/
structure ProgImage where
  insts : List Nat
  consts : List Nat
  maskOnly : Bool
  deriving DecidableEq, Repr

/-- Fields of an instruction word (Table 8-10). -/
def opOf (w : Nat) : Nat := bits w 31 26
def dField (w : Nat) : Nat := bits w 25 22
def aField (w : Nat) : Nat := bits w 21 18
def bField (w : Nat) : Nat := bits w 17 14
def kField (w : Nat) : Bool := bit w 13
def immField (w : Nat) : Int := sext 13 (bits w 12 0)

/-- Which fields an opcode uses (Table 8-11): D, A, B with K, IMM; none for a reserved opcode. -/
def opUses (op : Nat) : Option (Bool × Bool × Bool × Bool) :=
  if op = 0x00 then some (false, false, false, false)
  else if op = 0x01 then some (false, true, false, false)
  else if op = 0x02 then some (false, true, false, true)
  else if op = 0x03 then some (true, true, true, false)
  else if op = 0x04 then some (true, false, false, true)
  else if op = 0x05 then some (true, false, true, false)
  else if 0x08 ≤ op ∧ op ≤ 0x13 then some (true, true, true, false)
  else if op = 0x14 then some (true, true, false, true)
  else if (0x20 ≤ op ∧ op ≤ 0x25) ∨ op = 0x28 then some (true, true, true, false)
  else if op = 0x26 ∨ op = 0x27 ∨ op = 0x29 ∨ op = 0x2A then some (true, true, false, false)
  else if 0x30 ≤ op ∧ op ≤ 0x33 then some (true, true, false, false)
  else none

/-- R295: a defined opcode with every unused field zero. -/
def instOk (w : Nat) : Bool :=
  match opUses (opOf w) with
  | none => false
  | some (d, a, b, i) =>
    (d || dField w == 0) && (a || aField w == 0) && (b || (bField w == 0 && !kField w)) && (i || bits w 12 0 == 0)

/-- R296, R301: a BR skips 1 to 62 instructions and lands on one. -/
def branchOk (n : Nat) (e : Nat × Nat) : Bool :=
  opOf e.1 != 2 || (decide (1 ≤ immField e.1) && decide (immField e.1 ≤ 62) && decide ((e.2 : Int) + 1 + immField e.1 ≤ (n : Int) - 1))

/-- R301: the checks on the instructions of a program. -/
def progOk (insts : List Nat) : Bool :=
  decide (1 ≤ insts.length) && decide (insts.length ≤ 64) && insts.all instOk &&
  insts.zipIdx.all (branchOk insts.length) && opOf (insts.getLastD 1) == 0

/-- Does an instruction other than MASK change x0 (R299). -/
def writesX0 (w : Nat) : Bool :=
  match opUses (opOf w) with
  | some (true, _, _, _) => dField w == 0
  | _ => false

/-- R299. -/
def progMaskOnly (insts : List Nat) : Bool := insts.all (fun w => !writesX0 w)

/-- The value of a function or arithmetic instruction: a is xA, b is opB, d is xD before the instruction. -/
def progAlu (op : Nat) (d a b : U32) : U32 :=
  if op = 0x05 then b
  else if op = 0x08 then a + b
  else if op = 0x09 then a - b
  else if op = 0x0A then a * b
  else if op = 0x0B then (if a.toNat ≤ b.toNat then a else b)
  else if op = 0x0C then (if a.toNat ≤ b.toNat then b else a)
  else if op = 0x0D then a &&& b
  else if op = 0x0E then a ||| b
  else if op = 0x0F then a ^^^ b
  else if op = 0x10 then a <<< (b.toNat % 32)
  else if op = 0x11 then a >>> (b.toNat % 32)
  else if op = 0x12 then (if a.toNat < b.toNat then 1#32 else 0#32)
  else if op = 0x13 then (if a = b then 1#32 else 0#32)
  else if op = 0x20 then f32Add a b
  else if op = 0x21 then f32Sub a b
  else if op = 0x22 then f32Mul a b
  else if op = 0x23 then fma a b d
  else if op = 0x24 then f32Min a b
  else if op = 0x25 then f32Max a b
  else if op = 0x26 then f32Abs a
  else if op = 0x27 then f32Neg a
  else if op = 0x28 then (if f32Lt a b then 1#32 else 0#32)
  else if op = 0x29 then f32OfNat .nearest a.toNat
  else if op = 0x2A then f32ToU32 a
  else if op = 0x30 then f32Exp2 a
  else if op = 0x31 then f32Log2 a
  else if op = 0x32 then f32Tanh a
  else f32Recip a

/-- Run from the head of the remaining instructions; the score is x0 at the end (R293, R294). -/
def runInsts (fuel : Nat) (consts : List Nat) (insts : List Nat) (x : List U32) : F32 :=
  match fuel with
  | 0 => x.getD 0 0#32
  | f + 1 =>
    match insts with
    | [] => x.getD 0 0#32
    | w :: rest =>
      let op := opOf w
      let a := x.getD (aField w) 0#32
      let b := if kField w then BitVec.ofNat 32 (consts.getD (bField w) 0) else x.getD (bField w) 0#32
      let imm := BitVec.ofInt 32 (immField w)
      if op = 0 then x.getD 0 0#32
      else if op = 1 then (if a = 0#32 then runInsts f consts rest x else f32NegInf)
      else if op = 2 then runInsts f consts (if a = 0#32 then rest else rest.drop (immField w).toNat) x
      else if op = 3 then runInsts f consts rest (if a = 0#32 then x else x.set (dField w) b)
      else if op = 4 then runInsts f consts rest (x.set (dField w) imm)
      else if op = 0x14 then runInsts f consts rest (x.set (dField w) (a + imm))
      else runInsts f consts rest (x.set (dField w) (progAlu op (x.getD (dField w) 0#32) a b))

/-- What a program sees at its start, beside the score (Table 8-9). -/
structure ProgArgs where
  pos : Nat
  row : Nat
  head : Nat
  qpos1 : Nat
  low : Nat
  visible : Nat
  kvh : Nat
  deriving DecidableEq, Repr

/-- R293, R298: the score after its program. -/
def runProg (p : ProgImage) (t : F32) (a : ProgArgs) : F32 :=
  let u (n : Nat) : U32 := BitVec.ofNat 32 n
  runInsts 64 p.consts p.insts
    ([t, u a.pos, u a.row, u a.head, u a.qpos1, u a.low, u a.visible, u a.kvh] ++ List.replicate 8 0#32)

/-- R128: a final score of −∞ masks the position; none when masked. -/
def scoreAfter (p : Option ProgImage) (t : F32) (a : ProgArgs) : Option F32 :=
  let r := match p with
    | none => t
    | some img => runProg img t a
  if r = f32NegInf then none else some r

/-- Parse a PROG_LOAD payload of n instructions (R300). -/
def progParse (n : Nat) (bs : Bytes) : ProgImage :=
  let insts := (List.range n).map (fun i => leAt bs (4 * i) 4)
  { insts := insts, consts := (List.range 16).map (fun i => leAt bs (4 * n + 4 * i) 4), maskOnly := progMaskOnly insts }

end Sys2Proof.Machine
end

