-- ==== Sys2Proof/Machine/State.lean ====
section
/-!
DEFINITION. The state of one Arlos node, as plain data, and the state right after reset: `RST_N` low, every register at
the reset value its field map gives (DEDUCED, log 3), every value the manual leaves open at the value log 4 names (DESIGN CHOICE).
-/

namespace Sys2Proof.Machine

/-! ## Streams, pages, slices (03_pages, 05_verify_state, 09_tiers) -/

/-- A stream entry, Table 3-9 (R106); a recurrent state holds LAYOUT 3, DCODE = DK, FMT = DV (R178). -/
structure Stream where
  ctx : Nat
  layer : Nat
  kvh : Nat
  layout : Nat
  fmt : Nat
  dcode : Nat
  group : Nat
  openPol : Nat
  home : Nat
  part : Nat
  fmtVer : Nat
  length : Nat
  sealed : Nat
  window : Nat
  base : Nat
  width : Nat
  chunksMax : Nat
  parent : Nat
  forkPages : Nat
  depth : Nat
  children : Nat
  state : Nat
  deriving DecidableEq, Repr

/-- A page entry of a slice table, Table 3-10. -/
structure PageEnt where
  version : Nat
  openT0 : Bool
  page : Nat
  next : Nat
  sumOff : Nat
  sumChunk : Nat
  form : Nat
  nchunk : Nat
  chunk : Nat
  deriving DecidableEq, Repr

/-- A stream directory entry, Table 3-11. -/
structure DirEnt where
  count : Nat
  last : Nat
  first : Nat
  stream : Nat
  deriving DecidableEq, Repr

/-- A summary chunk: the partition that owns its records (R110), the record size, the records in use, and the sectors
written since it became one. -/
structure SumChunk where
  part : Nat
  recSize : Nat
  used : List Nat
  written : List Nat
  deriving DecidableEq, Repr

/-- Chunks and an entry freed by a change, held until every command that sees them has passed its service frame
(R78): first frame in which they are free, partition, extents (first chunk, count), and the summary record freed with them. -/
structure HeldFree where
  free : Nat
  part : Nat
  extents : List (Nat × Nat)
  ents : List Nat
  sums : List (Nat × Nat)
  job : Option Nat := none
  deriving DecidableEq, Repr

/-- A queued ordinary write of a slice (R331): the command or job it belongs to and the sector it writes (chunk, sector, tweak
fields, plaintext update at an offset); `fresh` says that the sector holds nothing of the object yet. -/
structure OrdWrite where
  cid : Nat
  done : Nat
  chunk : Nat
  sector : Nat
  offset : Nat
  data : Bytes
  info : Nat
  part : Nat
  fresh : Bool
  deriving DecidableEq, Repr

/-- The hold of a long in-bank sequence on a slice (R64, R68): owner job or command, first and last base interval,
chunk-times of the last it leaves free, debt it leaves, chunk-times of the whole. -/
structure SeqHold where
  owner : Nat
  first : Nat
  last : Nat
  lastFree : Nat
  debt : Nat
  k : Nat
  deriving DecidableEq, Repr

/-- One query row's work on one page (R270): the scores S has written, by block of 16; the running fold's scalars before
X and the page's own, which X writes with the weights; and each chain's blocks accumulated. -/
structure RowTask where
  t : List (Option F32)
  sDone : List Nat
  x : Option (Part × Part)
  w : List (Option F32)
  aDone : List Nat
  acc : List (List F32)
  deriving DecidableEq, Repr

/-- One page of a command on a slice, in merge order: the frame its chunks are charged to, where it lies, its rows in use
when open, the number of its first row (R271), the cores its S tasks have gone to (R311); an omitted page carries its bounds, one
per row (R195). -/
structure PageTask where
  kvh : Nat
  page : Nat
  frame : Nat
  ubounds : Option (List F32)
  chunk : Nat
  nchunk : Nat
  version : Nat
  codedBytes : Nat
  opened : Bool
  live : Nat
  u0 : Nat
  rows : List RowTask
  cores : List Nat
  deriving DecidableEq, Repr

/-- The running fold of one stream and query row in the carry store (R141): scalars, chains of o, and how many pages
the scalars and each chain have folded. -/
structure Fold where
  scal : Part
  nScal : Nat
  o : List (List F32)
  nO : List Nat
  deriving DecidableEq, Repr

/-- A command's work on one slice (R140, R270). `folds` are keyed by the row's index u among the command's rows on
the slice in payload order, `released` says the slice partial has left (R141). -/
structure SliceWork where
  pages : List PageTask
  folds : SMap Fold
  released : Bool
  late : Bool
  deriving DecidableEq, Repr

/-- A STATE_STEP's work on the slice of one state (R183, R185): columns of the state, tokens applied to each, outputs by
column, each with whether it left the column not finite (R184); for a committing step the versions of the half it writes. `src` lists the blocks: chunk of the current half, chunk
of the other, chunks, version (none: open form). -/
structure StateWork where
  head : Nat
  handle : Nat
  cols : List (List F32)
  done : List Nat
  outs : List (List (F32 × Bool))
  vers : List Nat
  src : List (Nat × Nat × Nat × Option Nat)
  loaded : Bool
  written : Bool
  deriving DecidableEq, Repr

/-- A tile of the tile buffer (Table 8-1): first chunk of its page, block of 16 rows, group of 32 columns (keys, then values), and
the decoded elements of its rows. -/
structure BufTile where
  chunk : Nat
  block : Nat
  group : Nat
  rows : List (List F32)
  deriving DecidableEq, Repr

/-- A queue's pair of credit counters (R278). -/
structure Credits where
  free : Nat
  full : Nat
  deriving DecidableEq, Repr

/-- A logical Piccolo core's own state: queue credits, the counter (queue, full, count) each blocked engine waits for (R279, R281),
SP_CONFLICT per engine (R290), scratchpad words (R288), the word each engine last read of them (R289), the partition whose they
are (R572), stop (R311). Absent from the map: as at reset. -/
structure Core where
  credits : List Credits
  waits : SMap (Nat × Bool × Nat)
  spConflict : List Bool
  scratch : SMap U64
  padRead : SMap U64
  padPart : Option Nat
  stopped : Bool
  deriving DecidableEq, Repr

/-- A bank slice: page entries and directory (R107, R108), version counter (R121), chunk allocation (owning entry or
`2^20`+ for summary and state blocks), summary chunks (R109), held frees (R78), sectors, reserve credit as it stood when the
node had granted `creditAt` bytes in all (R49), how far the reserve windows are taken (last frame, bytes used in it; R331),
refreshes done since power-up, one more than the base interval of the last refresh slot, the row-group counter (R338),
activations of each row since the last refresh and the rows refreshed beside the most activated one by it (R339), the
integrity tree (R560), staged sectors (Table 8-1), the tiles the tile buffer holds, newest first, and work in progress. -/
structure Slice where
  ents : SMap PageEnt
  dir : SMap DirEnt
  ver : Nat
  alloc : SMap Nat
  sums : SMap SumChunk
  held : List HeldFree
  nearFull : Bool
  sectors : SMap Sector
  credit : Int
  creditAt : Nat
  refDone : Nat
  refAt : Nat
  rowCtr : Nat
  acts : SMap Nat
  adjacent : List Nat
  tree : SMap Nat
  metaVers : SMap Nat
  staging : SMap Sector
  tiles : List BufTile
  work : SMap SliceWork
  states : SMap (List StateWork)
  ordq : List OrdWrite
  ordEnd : Nat × Nat
  grants : Nat
  reads : List (Nat × Nat)
  seqs : List SeqHold
  spares : SMap Nat
  retired : List Nat
  deriving DecidableEq, Repr

/-- A spare group's map, Table 8-15 (R308): bindings of physical cores 48 and 49, fenced cores, cores whose
fence the next frame start shows, and cores under test or waiting to move back. -/
structure SpareMap where
  v0 : Bool
  bu0 : Nat
  core0 : Nat
  v1 : Bool
  bu1 : Nat
  core1 : Nat
  failed : Nat
  failing : Nat
  testing : Nat
  passed : Nat
  pendingBind : List (Nat × Nat)
  deriving DecidableEq, Repr

/-- A spare group in which every logical core runs at home. -/
def SpareMap.reset : SpareMap := ⟨false, 0, 0, false, 0, 0, 0, 0, 0, 0, []⟩

/-- A stack: THERM_STAT (Table 2-9), its last samples, CORE_FAULT (Table 8-7), PROG_STAT, spare maps, SP_CONFLICT
counters, maintenance position (R614), refreshes that have fallen due (R44). -/
structure Stack where
  step : Nat
  stepNext : Nat
  hot : Bool
  hotNext : Bool
  temp : Int
  samples : List Int
  badSensor : Nat
  coreFault : Nat
  progUsed : Nat
  spare : SMap SpareMap
  perf : SMap Nat
  laneNext : Nat
  slots : Nat
  laneGroups : Nat
  laneSpare : Option Nat
  refDue : Nat
  recal : List (Nat × Nat)
  deriving DecidableEq, Repr

/-- A page in open form held in T0, or a dirty page of the write-back cache: its rows so far and its scale block, its flush
priority, and the frame from which it is dirty (R323). -/
structure T0Page where
  rows : List Bytes
  trailer : Bytes
  dirty : Bool
  prio : Option Nat
  since : Nat
  deriving DecidableEq, Repr

/-- A request context (R164, R167): GEN and slot are its key; the second part on the other hub has no handle. -/
structure ReqCtx where
  gen : Nat
  part : Nat
  ctx : Nat
  layer : Nat
  h0 : Nat
  nkvh : Nat
  basePos : Nat
  parents : List Nat
  rows : List (List Bytes × Bytes)
  blocks0 : Nat
  blocks1 : Nat
  region0 : Nat
  region1 : Nat
  slot1 : Option Nat
  expiry : Nat
  lost : Option Nat
  under : Bool
  deriving DecidableEq, Repr

/-- A migration record, Table 9-9, with the copies in flight (page, copied) and the command that waits on it. -/
structure MigRec where
  stream : Nat
  abase : Nat
  awidth : Nat
  doneTo : Nat
  state : Nat
  bg : Bool
  copies : List (Nat × Bool)
  cid : Nat
  failed : Option Nat
  copied : Nat
  deriving DecidableEq, Repr

/-- An index record, Table 6-7 (R209): union box in BF16 codes, union norm in f32. `offAt` is not 0 from an
insert that found the reservation full until the completion of that page's seal (R213): one past the page. -/
structure IndexRec where
  stream : Nat
  tag : Nat
  complete : Bool
  offAt : Nat
  reserve : Nat
  count : Nat
  mins : List Nat
  maxs : List Nat
  norm : F32
  part : Nat
  deriving DecidableEq, Repr

/-- A hub: VPOOL_CTL and pool (Tables 5-5, 5-7), stream table (R106), T0 pages, migration and index records,
lost-identity and lost-page tables (R358, R591), T2 (Table 9-13). -/
structure Hub where
  vhold : Nat
  ven : Bool
  vsize : Nat
  ctxs : SMap ReqCtx
  gens : SMap Nat
  lostCtx : SMap (Nat × Nat)
  poolBad : List Nat
  streams : SMap Stream
  t0 : SMap T0Page
  heldT0 : List (Nat × Nat × Nat)
  migs : SMap MigRec
  index : SMap IndexRec
  oldIndex : List IndexRec
  lostIds : List Nat
  lostPages : SMap Nat
  t2usable : Nat
  parkCtr : Nat
  deriving DecidableEq, Repr

/-! ## Commands and admission (02_frame, 10_commands) -/

/-- A command header, Table 10-1, by its fields; `rsvd` is the OR of every RSVD bit outside the parameter words. -/
structure Hdr where
  opcode : Nat
  hver : Nat
  flags : Nat
  part : Nat
  queue : Nat
  layer : Nat
  kvh : Nat
  tag : Nat
  tframe : Nat
  epoch : Nat
  paylen : Nat
  ctx : Nat
  chain : Nat
  p0 : Nat
  p1 : Nat
  p2 : Nat
  rsvd : Bool
  deriving DecidableEq, Repr

/-- What a command has reserved (R58, R59): span, service and completion frames, per-slice chunks in each frame,
carry space, fold frame. -/
structure Plan where
  start : Nat
  service : Nat
  cframe : Nat
  outFrame : Nat
  chunks : SMap (SMap Nat)
  seqs : List (Nat × Nat)
  ords : List Nat
  deriving DecidableEq, Repr

/-- Where a command stands. -/
inductive CmdState where
  | queued
  | fetching (left : Nat)
  | granted
  | acted
  | waiting
  | closed
  deriving DecidableEq, Repr

/-- A final outcome: status, detail, completion frame, counts, body, LATE. -/
structure Outcome0 where
  status : Nat
  detail : Nat
  cframe : Nat
  count0 : Nat
  count1 : Nat
  body : Bytes
  late : Bool
  deriving DecidableEq, Repr

/-- The snapshot of an open page a command attends in T0 or a slice (R78, R143 place 2). -/
structure OpenSnap where
  kvh : Nat
  page : Nat
  full : Bool
  inSlice : Option (Nat × Nat)
  rows : List Bytes
  trailer : Bytes
  deriving DecidableEq, Repr

/-- One stream of a command as its view shows it at the start of the span. -/
structure StreamSnap where
  kvh : Nat
  handle : Nat
  visible : Nat
  x : Option Stream
  deriving DecidableEq, Repr

/-- An accepted command (R367, R370): its acceptance number is its key in `cmds`. -/
structure Cmd where
  conn : Nat
  hub : Nat
  hdr : Hdr
  payload : Bytes
  msn : Nat
  region : Nat
  rgen : Nat
  addr : Nat
  chained : Bool
  noreply : Bool
  entry : Option Nat
  target : Nat
  origTarget : Nat
  acc : Nat
  deferrals : Nat
  st : CmdState
  plan : Option Plan
  snaps : List StreamSnap
  opens : List OpenSnap
  prog : Option ProgImage
  handle : Nat
  omitted : Nat
  attended : Nat
  late : Bool
  outSent : Bool
  result : Option Outcome0
  blocks : Nat
  aux : List Nat
  deriving DecidableEq, Repr

/-- The reservations admission has made in one frame (R59). -/
structure FrameRes where
  energy : Nat
  pEnergy : SMap Nat
  chunks : SMap Nat
  carry : SMap Nat
  images : SMap (List Nat)
  merge0 : Nat
  merge1 : Nat
  pMerge0 : SMap Nat
  pMerge1 : SMap Nat
  tiles0 : Nat
  tiles1 : Nat
  oboe : Nat
  grants : SMap Nat
  gate : SMap Nat
  replay0 : Nat
  replay1 : Nat
  deriving DecidableEq, Repr

/-- Kinds of node job (R61). -/
inductive JobKind where
  | upload
  | code
  | seal
  | writePart
  | rerun
  | rowTest
  | zero
  deriving DecidableEq, Repr

/-- A node job: what it is for, the frame its admission targets, what it has reserved, and whether its row has
run (it is then kept until its effect, for R586). Of a re-run, `frames` are the completion and output frame that the other sequences
of its owner give (R186, R315). -/
structure Job where
  kind : JobKind
  handle : Nat
  page : Nat
  slice : Nat
  cid : Nat
  target : Nat
  granted : Option Nat
  coded : Bytes
  summary : Bytes
  k : Nat
  source : Nat
  acted : Bool := false
  left : Option (PageEnt × Stream) := none
  ver : Option Nat := none
  frames : Nat × Nat := (0, 0)
  deriving DecidableEq, Repr

/-- The reopened page of a DROP (R118): its slice, entry index and entry, and its rows and scale block. -/
structure Reopen where
  slice : Nat
  idx : Nat
  ent : PageEnt
  rows : List Bytes
  trailer : Bytes
  deriving DecidableEq, Repr

/-- Changes of the page table and other tables placed at a frame start (R77): applied when their frame starts. -/
inductive Eff where
  | addLength (handle n : Nat)
  | create (handle : Nat) (st : Stream)
  | close (handle : Nat)
  | dropTo (handle q : Nat) (re : Option Reopen)
  | stateStep (handle tok : Nat) (vers : List Nat)
  | stateSet (handle pos : Nat) (vers : List Nat)
  | sealedForm (handle page version coded chunk nchunk : Nat)
  | openInSlice (handle page version : Nat)
  | parked (handle page : Nat)
  | restored (handle page version chunk nchunk : Nat)
  | migCopied (handle page : Nat)
  | setProg (part slot : Nat) (img : Option ProgImage)
  | indexOff (hub tag : Nat)
  | indexFull (hub tag : Nat)
  | partState (part st : Nat)
  | resetPart (part cause : Nat)
  | mapAdopt
  deriving DecidableEq, Repr

/-- A pending change: the frame at whose start it takes effect, and the command or job that made it. -/
structure DueEff where
  frame : Nat
  cid : Nat
  eff : Eff
  deriving DecidableEq, Repr

/-- Admission and the command processor; `energyLen` is the frame length `BASE` and `CAP` are written for
(R53), `gained` counts the reserve credit each slice has been granted (R49). -/
structure Adm where
  energyBase : Nat
  energyCap : Nat
  energyCoef : Nat
  energyLen : Nat
  sampled : Nat × Nat × Nat
  closed : Nat
  gained : Nat
  stopped : Bool
  res : SMap FrameRes
  jobs : SMap Job
  nextJob : Nat
  cmds : SMap Cmd
  nextCid : Nat
  effs : List DueEff
  admitted : Nat
  deferred : Nat
  deriving DecidableEq, Repr

/-! ## Partitions and time-slice groups (13_partitions) -/

/-- A program slot's current image and the retiring one with its last service frame (R304). -/
structure ProgSlot where
  cur : Option ProgImage
  retiring : Option (ProgImage × Nat)
  gen : Nat
  deriving DecidableEq, Repr

/-- An empty program slot. -/
def ProgSlot.empty : ProgSlot := ⟨none, none, 0⟩

/-- Partition k (Tables 13-1 to 13-4 and the PART[k] block). -/
structure Part0 where
  state : Nat
  resets : Nat
  tsWeight : Nat
  tsgEn : Bool
  tsg : Nat
  ranges : List (Nat × Nat)
  rotor : Nat
  deferNote : Bool
  share : Nat
  deferMax : Nat
  depth : Nat
  queueEn : Nat
  quota0 : Nat
  quota1 : Nat
  used0 : Nat
  used1 : Nat
  entMax : Nat
  evMax : Nat
  entUsed : Nat
  evUsed : Nat
  solstice : Bool
  egBody : Nat
  egFwd : Nat
  egStat : Nat
  egWeight : Nat
  egChg : Bool
  egBurst : Nat
  egRate : Nat
  shBurst : Nat
  shRate : Nat
  maintReq : U64
  maintLeft : Nat
  snapWanted : Bool
  shot : List Nat
  shotFrame : Nat
  meters : List Nat
  idxMax : Nat
  idxReserved : Nat
  progs : SMap ProgSlot
  key : Nat
  destroying : Bool
  quiesce : Option (Nat × Nat)
  waitDraw : Bool
  actFrom : Nat
  deriving DecidableEq, Repr

/-- A time-slice group: origin frame and the pending change (frame, partition, weight, membership). -/
structure TsGroup where
  origin : Nat
  pending : Option (Nat × Nat × Nat × Nat)
  ghosts : List (Nat × Nat × Nat)
  deriving DecidableEq, Repr

/-! ## Chains (10_commands) -/

/-- A chain entry slot: its image (Table 10-18) as a number, state, generation and owner. -/
structure ChainEnt where
  gen : Nat
  part : Nat
  image : Nat
  state : Nat
  deriving DecidableEq, Repr

/-- An event object. -/
structure EventObj where
  gen : Nat
  part : Nat
  counter : Nat
  live : Bool
  deriving DecidableEq, Repr

/-- A command forwarded by a chain, known by the connection and message its reply answers (R403). -/
structure Forwarded where
  conn : Nat
  msn : Nat
  entry : Nat
  event : Nat
  add : Nat
  part : Nat
  deriving DecidableEq, Repr

/-- Chain tables: entries, event objects, waiters (acceptance numbers of ARMs), triggers due at a frame start, and
forwarded commands awaiting their records. -/
structure Chains where
  ents : SMap ChainEnt
  events : SMap EventObj
  trigs : SMap (Hdr × Bytes × Outcome0 × Nat × Nat)
  fwd : List Forwarded
  deriving DecidableEq, Repr

/-! ## Composition maps (13_partitions) -/

/-- A composition map (Tables 13-9 to 13-11): header fields, member entries, shard entries not all zero. -/
structure Member where
  nodeId : Nat
  addr : Nat
  group : Nat
  pos : Nat
  gsize : Nat
  parent : Nat
  ver : Nat
  deriving DecidableEq, Repr

structure CompMap where
  epoch : Nat
  mixed : Bool
  len : Nat
  equinox : Nat
  grace : Nat
  root : Nat
  members : List Member
  shards : SMap Nat
  deriving DecidableEq, Repr

structure Maps where
  cur : Option CompMap
  old : Option CompMap
  oldEnd : Nat
  pend : Option CompMap
  groups : SMap TsGroup
  deriving DecidableEq, Repr

/-! ## The Oboe unit (06_retrieval) -/

/-- An Oboe entry with its association record (Tables 6-5, 6-6). -/
structure OboeEnt where
  tag : Nat
  sig : Nat
  version : Nat
  stream : Nat
  page : Nat
  deriving DecidableEq, Repr

/-- An update waiting for a slot (R223): insert, association rewrite, or removal. -/
inductive OboeUpd where
  | insert (hub tag stream page version sig : Nat) (sum : Bytes) (bulk : Bool) (cid : Nat)
  | rewrite (hub tag stream page version : Nat)
  | remove (hub tag stream page : Nat)
  deriving DecidableEq, Repr

structure Oboe where
  en : Bool
  casc : Bool
  step : Nat
  stepNext : Nat
  temp0 : Int
  temp1 : Int
  ents0 : SMap OboeEnt
  ents1 : SMap OboeEnt
  tags : List Nat
  updates : List OboeUpd
  results : SMap (List OboeMatch)
  bounds : SMap (List UnionBound)
  slotsUsed : Nat
  deriving DecidableEq, Repr

/-! ## Transport (11_transport) -/

/-- One packet index of a message being sent: PSN and time in ns of its last sending, times retransmitted, pair it used,
the RTO it was given (R478), whether an `ACK` has shown it, whether it is declared lost and waits to be resent (R441),
and whether it waits for the window to move (Table 11-11). -/
structure SendPkt where
  psn : Nat
  sent : Nat
  tries : Nat
  pair : Nat
  rto : Nat
  shown : Bool
  lost : Bool
  windowed : Bool
  deriving DecidableEq, Repr

/-- DATA fields shared by every packet of a message (R426, Table 11-5). -/
structure MsgHdr where
  kind : Nat
  part : Nat
  mlen : Nat
  pcount : Nat
  region : Nat
  rgen : Nat
  addr : Nat
  answers : Nat
  av : Bool
  chainh : Nat
  deriving DecidableEq, Repr

/-- An outgoing message: its class, fields and bytes, the packets transmitted once or more, whether it is retired or
abandoned, and what local completion means to the node (a command's final or interim record). -/
structure OutMsg where
  msn : Nat
  tc : Nat
  hdr : MsgHdr
  body : Bytes
  pkts : SMap SendPkt
  next : Nat
  notBefore : Nat
  forPart : Nat
  cid : Option Nat
  final : Bool
  deriving DecidableEq, Repr

/-- A message being placed (R427, R428), and the T0 blocks it holds on a hub (R438). -/
structure InMsg where
  hdr : MsgHdr
  placed : List Nat
  bytes : SMap Bytes
  blocks : Nat
  hub : Nat
  deriving DecidableEq, Repr

/-- A packet the node has put on the wire (R413, Table 11-2): port, destination address, IPv6 and UDP fields,
base header, the type header's fields from its lowest bit up (for `DATA` the message's fields and `MSN`, `PINDEX`,
`OFFSET`, `LAST`), the payload in clear, the charged length, and the frame's bytes. -/
structure TxPkt where
  conn : Nat
  port : Nat
  dst : Nat
  tc : Nat
  ptype : Nat
  label : Nat
  flow : Nat
  sport : Nat
  dport : Nat
  ect : Bool
  dscp : Nat
  sframe : Nat
  psn : Nat
  dcid : Nat
  keyno : Nat
  ord : Bool
  tgen : Nat
  fields : List Nat
  msg : Option MsgHdr
  payload : Bytes
  charged : Nat
  frame : Bytes
  deriving DecidableEq, Repr

/-- A queued event record (Table 11-18). -/
structure EvRec where
  code : Nat
  flags : Nat
  part : Nat
  frame : Nat
  subject : Nat
  data : Nat
  deriving DecidableEq, Repr

/-- A shaper or policer: credit in bytes, rate in units of 1.25 Gb/s, burst in bytes (R497, R500, R503). -/
structure Shaper where
  credit : Int
  rate : Nat
  burst : Nat
  deriving DecidableEq, Repr

/-- The keys of one direction of a connection (R421, R567): the highest key number derived, its secret S, and the keys held
with their salts, by number. -/
structure LinkDir where
  num : Nat
  secret : Bytes
  keys : SMap Bytes
  deriving DecidableEq, Repr

/-- What an initiator keeps until the answer: its ephemeral private key, its nonce and its request's bytes (R566, R567). -/
structure HsOwn where
  priv : Bytes
  nonce : Bytes
  req : Bytes
  deriving DecidableEq, Repr

/-- A connection (Table 11-15) and what the node keeps with it: `sends` counts the reliable and the control packets sent, by
frame (R425). -/
structure Conn where
  opened : Bool
  initiator : Bool
  peerId : Nat
  peerNode : Nat
  gen : Nat
  ordered : Bool
  mps : Nat
  mgmt : Bool
  evmask : Nat
  peerAddrs : List Nat
  peerLive : Nat
  peerPseq : Option Nat
  ownPseq : Nat
  src : Nat
  created : Nat
  onBoard : Bool
  txPsn : Nat
  txCsn : Nat
  nextMsn : Nat
  out : SMap OutMsg
  peerFloor : Nat
  rxPsn : Option Nat
  rxCsn : Option Nat
  keyLow : Nat
  floor : Nat
  states : SMap Nat
  inMsgs : SMap InMsg
  failLog : List (Nat × Nat)
  seenPsn : List Nat
  newestAt : Nat
  owedAck : Nat
  ceSeen : Nat
  flushes : List (Nat × Nat)
  ordNext : Nat × Nat
  pairBad : SMap Nat
  pairLost : SMap (List Nat)
  probes : SMap Nat
  ordPair : Nat
  grants : SMap Nat
  authFails : Nat
  polDrops : Nat
  ctlCount : Nat
  events : List EvRec
  dropNote : Bool
  shaper : Shaper
  policer : Shaper
  ceFrame : Bool
  quietFrames : Nat
  held : List Nat
  rsp : Option TxPkt
  txKeys : LinkDir
  rxKeys : LinkDir
  own : Option HsOwn
  sends : List (Nat × Nat × Nat)
  deriving DecidableEq, Repr

/-! ## Ports and egress (12_egress, 15_faults) -/

/-- A port: fabric 0–15, board links 16–19, management 20. `lanes` is its width, `damped` the lanes out under R606, `laneOut`
the lanes out under quarantine or fenced, `laneBad` those that failed the test when the port came up (R608). `shapers` holds the credit of each subscriber shaper that is
not full (R499), `drrClass` and `drrPart` where deficit round robin stands (R484, R485), `busy` the time in ns at which the
packet being sent ends, `overrun` one past the last frame whose gate it has noted as overrun (R492). -/
structure Port where
  up : Bool
  lanes : Nat
  damped : Nat
  laneOut : Nat
  laneBad : Nat
  lmap : Bool
  flaps : Nat
  flapTimes : SMap (List Nat)
  q : List Nat
  overhead : Nat
  egctlNext : Option Nat
  switchF : Nat
  err : Bool
  arm : Bool
  armFrame : Nat
  count1 : Nat
  count0 : Nat
  active : Nat
  list0 : SMap Nat
  list1 : SMap Nat
  deficit : SMap Int
  subDeficit : SMap Int
  lastConn : SMap Nat
  drrClass : Nat
  drrPart : SMap Nat
  busy : Nat
  overrun : Nat
  shapers : SMap Int
  txBytes : Nat
  rxBytes : Nat
  retx : Nat
  hsCount : Nat
  deriving DecidableEq, Repr

/-- EGRESS registers (Tables 12-2, 12-7, 12-8) and the values that wait for a frame start. -/
structure Egress where
  protShare : Nat
  dscp : Nat
  incFrames : Nat
  inc : Nat
  dec : Nat
  minRate : Nat
  hsMax : Nat
  ctlMax : Nat
  pburst : Nat
  pchg : Bool
  prate : Nat
  drops : Nat
  ccNext : Option Nat
  ipolNext : Option Nat
  udpPort : Nat
  sportBase : Nat
  maxAge : Nat
  mpsMax : Nat
  reorder : Nat
  rto : Nat
  xportNext : Option Nat
  dropped : Nat
  deriving DecidableEq, Repr


/-! ## Faults, quarantine and service (15_faults) -/

/-- A unit under quarantine: cause, frame from which it is out, whether an error during the test counts against it
(R584), the partition whose request started the test, the frame of its return
once its test has ended, and the frames it is out when the test pauses between frames (R617; none listed: all). -/
structure Quar where
  unit : RasUnit
  cause : Nat
  start : Nat
  worse : Bool
  requested : Option Nat
  back : Option Nat
  frames : List Nat
  deriving DecidableEq, Repr

/-- A fence: the unit, its cause and whether it is in effect yet (from the named frame). -/
structure Fence where
  unit : RasUnit
  cause : Nat
  start : Nat
  deriving DecidableEq, Repr

/-- A replay waiting at a hub (R312, R313). -/
structure Replay where
  slice : Nat
  core : Nat
  frame : Nat
  cids : List Nat
  deriving DecidableEq, Repr

/-- Merge-core spare binding of one group on a hub (R316): logical core served by the spare, fenced cores, cores under
test, cores that passed and wait to move back, and the logical core to bind at the next frame start. -/
structure MergeGroup where
  bound : Option Nat
  failed : List Nat
  testing : List Nat
  passed : List Nat
  pending : Option Nat
  deriving DecidableEq, Repr

/-- A merge-core group in which every logical core runs at home. -/
def MergeGroup.reset : MergeGroup := ⟨none, [], [], [], none⟩

/-- Fife's RAS state (15_faults). `reports` are the errors detected and not yet handled: unit, cause, data (R579). The RAS record of the
boot flash (R585) is `flash`, the fences with their causes; `binds`, each bound spare with the logical core it serves; `damps`, the damped
lanes; and the row repairs, which stand with their slices. -/
structure Ras where
  reports : List (RasUnit × Nat × Nat)
  log : SMap EvRec
  written : Nat
  sback : Nat
  sbLost : Bool
  quar : List Quar
  fences : List Fence
  transients : List (RasUnit × Nat)
  replays : List Replay
  merge0 : SMap MergeGroup
  merge1 : SMap MergeGroup
  t0spare0 : Nat
  t0spare1 : Nat
  flash : List (RasUnit × Nat)
  binds : List (RasUnit × Nat)
  damps : List RasUnit
  bgInterval : Nat
  bgEn : Bool
  bgLast : Nat
  bgGroup : Nat
  bgPasses : Nat
  honoured : Nat
  lost : List Nat
  frameFault : SMap Nat
  toTally : List Nat
  deriving DecidableEq, Repr

/-! ## Security (14_security) -/

/-- An SPDM session: the certificate slot the node signed with (0 identity, 1 alias; Table 14-1), and whether the requester
has proved the owner anchor (Table 14-6). -/
structure SpdmSess where
  signer : Nat
  owner : Bool
  deriving DecidableEq, Repr

/-- A P-384 key pair: the private key, and the public key in SEC 1 uncompressed form. -/
structure KeyPair where
  priv : Bytes
  pub : Bytes
  deriving DecidableEq, Repr

/-- CRYPTO registers, key numbers (DESIGN CHOICE, log 5: a key of stored data is the number of its draw), SPDM sessions, fuses,
and the identity and alias key pairs with the alias certificate, once derived (R545, R546). -/
structure Crypto where
  evCoarse : Nat
  svcWr : Bool
  lock : Bool
  ownerSet : Bool
  ownerDigest : Nat
  drbgOk : Bool
  hsFail : Nat
  nodeId : Nat
  anchors : SMap U64
  utcSet : Bool
  utcSecs : Nat
  utcNs : Nat
  ksys : Nat
  draws : Nat
  sessions : SMap SpdmSess
  identity : Option KeyPair
  aliasKey : Option KeyPair
  aliasCert : Bytes
  deriving DecidableEq, Repr

/-! ## T2 flash (09_tiers) -/

/-- A parked image in T2, keyed by handle and page: its coded form, what the AEAD binds (key, nonce counter, additional data),
its tag, whether it is lost, and the block it lies in (2^20 times the channel plus the block). -/
structure T2Image where
  coded : Bytes
  key : Nat
  nonce : Nat
  aad : Bytes
  tag : Bytes
  version : Nat
  fmtVer : Nat
  bytes : Nat
  part : Nat
  block : Nat
  lost : Bool
  staged : Bool
  deriving DecidableEq, Repr

/-- An erase block: erase count, reads since its erase, programmed since its erase, retired. -/
structure Block where
  erases : Nat
  reads : Nat
  written : Bool
  retired : Bool
  deriving DecidableEq, Repr

/-- A NAND channel's blocks (64 MiB each); a block not listed has never been erased, programmed or read. -/
structure Channel where
  blocks : SMap Block
  deriving DecidableEq, Repr

/-- The FTL of one hub: images, restore reads in order, park programs waiting, staging bytes in use, capacity losses
noted, and the journal of the ended session's lost identities (R358). -/
structure Ftl where
  images : SMap T2Image
  channels : SMap Channel
  reads : List (Nat × Nat × Nat)
  programs : List (Nat × Nat)
  parkStage : Nat
  restStage : SMap T2Image
  lostNoted : Nat
  journal : List Nat
  low : Bool
  deriving DecidableEq, Repr


/-! ## Lifecycle, firmware, time, board and host side (02_frame, 16_lifecycle, 17_board, 18_registers) -/

/-- Lifecycle (Tables 16-2, 16-3): `due` is the change placed at the next frame start with its cause, `pendWinter` the
request that waits for R630, `entering` that R632 is still to be done, `springReq` a spring asked for in an access list.
`tries` counts watchdog resets of R644, `selfRefresh` says that the stacks are in self-refresh. -/
structure Life where
  state : Nat
  force : Bool
  pendWinter : Bool
  due : Option (Nat × Nat)
  err : Bool
  wcause : Nat
  step : Nat
  fail : Nat
  tries : Nat
  entering : Bool
  springReq : Bool
  selfRefresh : Bool
  deriving DecidableEq, Repr

/-- Firmware (Tables 16-9, 16-10): the two package slots of the boot flash, the running slot, the fused SVN floor and
the image digests measured at the previous spring (R585, R645). -/
structure Fw where
  slot0 : SMap U8
  slot1 : SMap U8
  next : Nat
  running : Nat
  fallback : Bool
  staged : Bool
  stagedVer : Nat
  stageErr : Nat
  svnFloor : Nat
  measured : List Bytes
  deriving DecidableEq, Repr

/-- Frame and base-interval counters, CTL and SYNC_STAT (Tables 2-1, 2-2), and how the phase is kept, times in units of
2^−16 ns: the last 8 path delays (R476), the correction still to be slewed and the whole correction made (R33, R37), base
intervals without a timing message (R36), tick faults and the good run of R667, exchange numbers, and the time join
(R637): its connection, the parent's frame from `QUERY_CAPS`, and whether it is done. -/
structure Time where
  frame : Nat
  bint : Nat
  left : Nat
  half : Bool
  tickMode : Nat
  len : Nat
  lenPend : Option Nat
  phaseErr : Int
  lost : Bool
  holdover : Bool
  locked : Bool
  delays : List Int
  slew : Int
  phase : Int
  quiet : Nat
  badTicks : Nat
  goodTicks : Nat
  byLinks : Bool
  resync : Option Int
  windowClosed : Bool
  dreq : Option (Nat × Nat)
  dreqNo : Nat
  syncNo : Nat
  joinConn : Option Nat
  joinFrame : Option Nat
  joined : Bool
  sinceDreq : Nat
  decided : Nat
  tickOut : Nat
  deriving DecidableEq, Repr

/-- Rails and pins of Tables 17-1 and 17-8 that the node drives or acts on. -/
structure Pins where
  auxIn : Bool
  auxOk : Bool
  mainOk : Bool
  mainEn : Bool
  rstN : Bool
  lockout : Bool
  tripped : Bool
  pcieUp : Bool
  tapHot : Bool
  deriving DecidableEq, Repr

/-- What the package is: variant (Table 18-4), fused MAC, the straps as sampled (Table 17-2), board group state
(Table 17-3) and the members' NODE_IDs, the secret fused into hub 0, and the identity certificate's chain in the boot flash
(R545). -/
structure Hw where
  variant : Nat
  mac : Nat
  pos : Nat
  gsize : Nat
  strapFree : Bool
  leadSel : Bool
  sbAddr : Nat
  peers : Nat
  boardErr : Nat
  peerIds : List Nat
  secret : Bytes
  idChain : Bytes
  deriving DecidableEq, Repr

/-- IRQ_CTL and WR_IGNORED (Tables 18-5, 18-6), the MSI-X vectors sent, and the RSVD bits software may not set. -/
structure Irq where
  pend : Nat
  en : Nat
  vectors : List Nat
  ignCount : Nat
  ignAddr : Nat
  wraps : SMap Nat
  deriving DecidableEq, Repr

/-- A list of register accesses that waits for a table read of a slice (R707): the path, the entries left, the bytes
so far, entries done, the tag, and the PART_CTL command or the owner session it belongs to. -/
structure TableWait where
  path : Nat
  rest : Bytes
  out : Bytes
  done : Nat
  tag : Nat
  cid : Option Nat
  table : Nat
  slice : Nat
  value : Nat
  session : Nat
  deriving DecidableEq, Repr

/-- The tables that table reads return, as they stood at the most recent frame start (R706). -/
structure Tables where
  streams0 : SMap Stream
  streams1 : SMap Stream
  migs0 : SMap MigRec
  migs1 : SMap MigRec
  slices : SMap Slice
  oboe0 : SMap OboeEnt
  oboe1 : SMap OboeEnt
  chainEnts : SMap ChainEnt
  deriving DecidableEq, Repr

/-- The mailbox (Table 18-10), its staging area of 1 MiB (R701), the lists that wait for a grant, the responses sent to owner
sessions, and the tables of the most recent frame start. -/
structure Mbox where
  reqLen : Nat
  go : Bool
  rspLen : Nat
  state : Nat
  req : SMap U8
  rsp : Bytes
  staging : SMap U8
  waits : List TableWait
  owner : List (Nat × Bytes)
  tables : Tables
  deriving DecidableEq, Repr

/-- An SPDM response: its code, the session, measurement blocks by index, and a signature. -/
structure SpdmRsp where
  code : Nat
  session : Nat
  blocks : List (Nat × Bytes)
  sig : Bytes
  deriving DecidableEq, Repr

/-- The counter of free values (DESIGN CHOICE, log 6) and what the node has sent, the addresses of the service endpoint's writes
that ended in an unsupported-request completion (R5, R687) among it. -/
structure Out where
  free : Nat
  seq : Nat
  wire : List TxPkt
  spdm : List SpdmRsp
  sideband : List Nat
  unsupported : List Nat
  deriving DecidableEq, Repr

/-! ## The node -/

/-- Why the machine stops with a fault. Safe: a stop proves nothing of the hardware. -/
inductive Fault where
  /-- Raised by no meaning: an event that the node's state does not allow changes nothing (DESIGN CHOICE, log 1). -/
  | noSuchUnit
  deriving DecidableEq, Repr

/-- Why a command has no meaning here. Safe: a refusal proves nothing of the hardware. -/
inductive Refusal where
  /-- Raised by an arm of `exec` whose command has no meaning yet. -/
  | notModelled (mnemonic : String)
  deriving DecidableEq, Repr

/-- The node. `pending` is the queue of commands that wait, first in, first out. Every sparse map lists only what
differs from reset: an unlisted partition is free, an unlisted slice, stack, port or core is as at reset. -/
structure State where
  pending : List Instr
  hw : Hw
  pins : Pins
  life : Life
  fw : Fw
  time : Time
  adm : Adm
  parts : SMap Part0
  hub0 : Hub
  hub1 : Hub
  slices : SMap Slice
  cores : SMap Core
  dramStacks : SMap Stack
  chains : Chains
  maps : Maps
  oboe : Oboe
  conns : SMap Conn
  ports : SMap Port
  eg : Egress
  ras : Ras
  crypto : Crypto
  ftl0 : Ftl
  ftl1 : Ftl
  irq : Irq
  mbox : Mbox
  out : Out
  deriving DecidableEq, Repr

/-- A partition that is free, at the reset values of its block (R688; Tables 2-12, 10-6, 10-16, 12-1, 12-6, 13-3). -/
def Part0.reset : Part0 where
  state := 0
  resets := 0
  tsWeight := 0
  tsgEn := false
  tsg := 0
  ranges := []
  rotor := 0
  deferNote := false
  share := 1
  deferMax := 0x40
  depth := 0x400
  queueEn := 0xFFFF
  quota0 := 0
  quota1 := 0
  used0 := 0
  used1 := 0
  entMax := 0
  evMax := 0
  entUsed := 0
  evUsed := 0
  solstice := false
  egBody := 5
  egFwd := 4
  egStat := 3
  egWeight := 0x10
  egChg := false
  egBurst := 4
  egRate := 0x500
  shBurst := 4
  shRate := 0x500
  maintReq := 0
  maintLeft := 0
  snapWanted := false
  shot := []
  shotFrame := 0
  meters := []
  idxMax := 0
  idxReserved := 0
  progs := []
  key := 0
  destroying := false
  quiesce := none
  waitDraw := false
  actFrom := 0

/-- A slice after the format of spring step 0x06: no entry, no stream, version counter 1 (R559, R121). -/
def Slice.reset : Slice where
  ents := []
  dir := []
  ver := 1
  alloc := []
  sums := []
  held := []
  nearFull := false
  sectors := []
  credit := 0
  creditAt := 0
  refDone := 0
  refAt := 0
  rowCtr := 0
  acts := []
  adjacent := []
  tree := []
  metaVers := []
  staging := []
  tiles := []
  work := []
  states := []
  ordq := []
  ordEnd := (0, 0)
  grants := 0
  reads := []
  seqs := []
  spares := []
  retired := []

/-- A logical core at reset; credit counters at their reset values (Table 8-6) are the empty list's reading. -/
def Core.reset : Core where
  credits := []
  waits := []
  padRead := []
  padPart := none
  spConflict := []
  scratch := []
  stopped := false

/-- A stack: hot mode at reset (Table 2-9). -/
def Stack.reset : Stack where
  step := 0
  stepNext := 0
  hot := true
  hotNext := true
  temp := 0
  samples := []
  badSensor := 0
  coreFault := 0
  progUsed := 0
  spare := []
  perf := []
  laneNext := 0
  slots := 0
  laneGroups := 0
  laneSpare := none
  refDue := 0
  recal := []

/-- A hub: VPOOL_CTL at its reset values (Table 5-5), T2_STAT at 52,000 (Table 9-13). -/
def Hub.reset : Hub where
  vhold := 0x1000
  ven := true
  vsize := 0x20
  ctxs := []
  gens := []
  lostCtx := []
  poolBad := []
  streams := []
  t0 := []
  heldT0 := []
  migs := []
  index := []
  oldIndex := []
  lostIds := []
  lostPages := []
  t2usable := 52000
  parkCtr := 0

/-- A shaper or policer at rest. -/
def Shaper.reset (rate burst : Nat) : Shaper := ⟨0, rate, burst⟩

/-- A port as at reset: down, EG_CTL and GATE_CTL at their reset values (Tables 12-3, 12-4). -/
def Port.reset : Port where
  up := false
  lanes := 0
  damped := 0
  laneOut := 0
  laneBad := 0
  lmap := false
  flaps := 0
  flapTimes := []
  q := [0x10, 0x10, 0x10, 0x10, 0x10]
  overhead := 0x14
  egctlNext := none
  switchF := 0
  err := false
  arm := false
  armFrame := 0
  count1 := 1
  count0 := 1
  active := 0
  list0 := []
  list1 := []
  deficit := []
  subDeficit := []
  lastConn := []
  drrClass := 3
  drrPart := []
  busy := 0
  overrun := 0
  shapers := []
  txBytes := 0
  rxBytes := 0
  retx := 0
  hsCount := 0

/-- Admission at reset: ADMIT.ENERGY of Table 2-11. -/
def Adm.reset : Adm where
  energyBase := 0x3D7
  energyCap := 0x119A
  energyLen := 1
  energyCoef := 0x1B
  sampled := (0x3D7, 0x119A, 0x1B)
  closed := 0
  gained := 0
  stopped := false
  res := []
  jobs := []
  nextJob := 1
  cmds := []
  nextCid := 1
  effs := []
  admitted := 0
  deferred := 0

/-- The egress registers at reset (Tables 12-2, 12-7, 12-8, 11-20). -/
def Egress.reset : Egress where
  protShare := 14
  dscp := packFields [(0, 6, 46), (6, 6, 48), (12, 6, 34), (18, 6, 26), (24, 6, 18), (30, 6, 10), (36, 6, 8)]
  incFrames := 8
  inc := 0x10
  dec := 3
  minRate := 8
  hsMax := 64
  ctlMax := 64
  pburst := 16
  pchg := false
  prate := 0x500
  drops := 0
  ccNext := none
  ipolNext := none
  udpPort := 0xC289
  sportBase := 0xD000
  maxAge := 0x100
  mpsMax := 2
  reorder := 0x40
  rto := 0x10
  xportNext := none
  dropped := 0

/-- The node after reset: `RST_N` low, nothing powered up yet (Table 17-8), no command waiting. -/
def State.reset : State where
  pending := []
  hw := ⟨0, 0, 0, 0, false, false, 0, 0, 0, [], zeros 32, []⟩
  pins := ⟨false, false, false, false, false, false, false, false, false⟩
  life := ⟨0, false, false, none, false, 0, 0, 0, 0, false, false, true⟩
  fw := ⟨[], [], 0, 0, false, false, 0, 0, 0, []⟩
  time :=
    { frame := 0, bint := 0, left := 0, half := false, tickMode := 0, len := 1, lenPend := none, phaseErr := 0,
      lost := false, holdover := false, locked := false, delays := [], slew := 0, phase := 0, quiet := 0, badTicks := 0, goodTicks := 0,
      byLinks := false, resync := none, windowClosed := false, dreq := none, dreqNo := 0, syncNo := 0, joinConn := none, joinFrame := none, joined := false, sinceDreq := 0, decided := 0,
      tickOut := 0 }
  adm := Adm.reset
  parts := []
  hub0 := Hub.reset
  hub1 := Hub.reset
  slices := []
  cores := []
  dramStacks := []
  chains := ⟨[], [], [], []⟩
  maps := ⟨none, none, 0, none, []⟩
  oboe := ⟨true, false, 3, 3, 0, 0, [], [], [], [], [], [], 0⟩
  conns := []
  ports := []
  eg := Egress.reset
  ras :=
    { reports := [], log := [], written := 0, sback := 0, sbLost := false, quar := [], fences := [], transients := [], replays := [],
      merge0 := [], merge1 := [], t0spare0 := 0, t0spare1 := 0, flash := [], binds := [], damps := [], bgInterval := 0x1000, bgEn := true,
      bgLast := 0, bgGroup := 0, bgPasses := 0, honoured := 0, lost := [0, 0, 0, 0, 0, 0, 0, 0], frameFault := [], toTally := [] }
  crypto :=
    { evCoarse := 1, svcWr := true, lock := false, ownerSet := false, ownerDigest := 0, drbgOk := false, hsFail := 0,
      nodeId := 0, anchors := [], utcSet := false, utcSecs := 0, utcNs := 0, ksys := 0, draws := 0, sessions := [],
      identity := none, aliasKey := none, aliasCert := [] }
  ftl0 := ⟨[], [], [], [], 0, [], 0, [], false⟩
  ftl1 := ⟨[], [], [], [], 0, [], 0, [], false⟩
  irq := ⟨0, 0, [], 0, 0, []⟩
  mbox := ⟨0, false, 0, 0, [], [], [], [], [], ⟨[], [], [], [], [], [], [], []⟩⟩
  out := ⟨0, 0, [], [], [], []⟩

end Sys2Proof.Machine
end

