-- ==== Sys2Proof/Machine/Ops.lean ====
section
/-!
DEFINITION. The shared operations of the node: one accessor and one update per table of the state, which units are
present and in service, raising an event (R472, R578, R624, R690, R691, R693), and giving a command its outcome.
-/

namespace Sys2Proof.Machine

/-! ## Tables -/

/-- Hub h: hub 1 for 1, hub 0 otherwise. -/
def hubAt (s : State) (h : Nat) : Hub := if h = 1 then s.hub1 else s.hub0

def setHub (s : State) (h : Nat) (x : Hub) : State := if h = 1 then { s with hub1 := x } else { s with hub0 := x }

def updHub (s : State) (h : Nat) (f : Hub → Hub) : State := setHub s h (f (hubAt s h))

def sliceAt (s : State) (i : Nat) : Slice := mgetD s.slices i Slice.reset

def updSlice (s : State) (i : Nat) (f : Slice → Slice) : State := { s with slices := mupd s.slices i Slice.reset f }

def stackAt (s : State) (n : Nat) : Stack := mgetD s.dramStacks n Stack.reset

def updStack (s : State) (n : Nat) (f : Stack → Stack) : State := { s with dramStacks := mupd s.dramStacks n Stack.reset f }

def coreAt (s : State) (i : Nat) : Core := mgetD s.cores i Core.reset

def updCore (s : State) (i : Nat) (f : Core → Core) : State := { s with cores := mupd s.cores i Core.reset f }

def partAt (s : State) (k : Nat) : Part0 := mgetD s.parts k Part0.reset

def updPart (s : State) (k : Nat) (f : Part0 → Part0) : State := { s with parts := mupd s.parts k Part0.reset f }

def portAt (s : State) (p : Nat) : Port := mgetD s.ports p Port.reset

def updPort (s : State) (p : Nat) (f : Port → Port) : State := { s with ports := mupd s.ports p Port.reset f }

def updConn (s : State) (c : Nat) (f : Conn → Conn) : State := { s with conns := mmod s.conns c f }

def cmdAt (s : State) (cid : Nat) : Option Cmd := mget s.adm.cmds cid

def updCmd (s : State) (cid : Nat) (f : Cmd → Cmd) : State :=
  { s with adm := { s.adm with cmds := mmod s.adm.cmds cid f } }

def jobAt (s : State) (j : Nat) : Option Job := mget s.adm.jobs j

def updJob (s : State) (j : Nat) (f : Job → Job) : State :=
  { s with adm := { s.adm with jobs := mmod s.adm.jobs j f } }

def delJob (s : State) (j : Nat) : State := { s with adm := { s.adm with jobs := mdel s.adm.jobs j } }

/-- Enter a job in the job list, giving it the next number. -/
def addJob (s : State) (j : Job) : State :=
  { s with adm := { s.adm with jobs := mset s.adm.jobs s.adm.nextJob j, nextJob := s.adm.nextJob + 1 } }

def updTime (s : State) (f : Time → Time) : State := { s with time := f s.time }

def updRas (s : State) (f : Ras → Ras) : State := { s with ras := f s.ras }

/-- Place a change of tables at the start of a frame (R77). -/
def addEff (s : State) (frame cid : Nat) (e : Eff) : State :=
  { s with adm := { s.adm with effs := s.adm.effs ++ [⟨frame, cid, e⟩] } }

/-- Apply a state update for every element of a list, in order. -/
def forAll {α : Type} (s : State) (xs : List α) (f : State → α → State) : State := xs.foldl f s

/-! ## Units (Tables 1-2, 18-1, R15) -/

def isA24F (s : State) : Bool := s.hw.variant == 0

/-- Hub 1 and what lies behind it is present on every variant but the A12 (Table 18-4). -/
def hub1Present (s : State) : Bool := s.hw.variant != 2

def stackCount (s : State) : Nat := if hub1Present s then 24 else 12

def sliceCount (s : State) : Nat := 1024 * stackCount s

/-- The stack of a slice and the hub of a stack (R15). -/
def stackOf (i : Nat) : Nat := i / 1024

def hubOfStack (n : Nat) : Nat := n / 12

def hubOfSlice (i : Nat) : Nat := i / 12288

/-- The hub a fabric port or board link belongs to: ports 0–7 and links 0–1 hub 0 (Table 17-1). -/
def hubOfPort (p : Nat) : Nat := if p < 16 then p / 8 else if p < 20 then (p - 16) / 2 else 0

def portPresent (s : State) (p : Nat) : Bool :=
  if p < 16 then hub1Present s || decide (p < 8)
  else if p < 20 then hub1Present s || decide (p < 18)
  else p == 20

/-- A unit is fenced when a fence names it and is in effect in frame n. -/
def fencedAt (s : State) (u : RasUnit) (n : Nat) : Bool :=
  s.ras.fences.any (fun f => f.unit == u && decide (f.start ≤ n))

/-- A quarantine keeps its unit out in frame n. -/
def quarIn (q : Quar) (n : Nat) : Bool :=
  decide (q.start ≤ n) && (q.frames.isEmpty || q.frames.contains n) &&
  (match q.back with
   | some b => decide (n < b)
   | none => true)

/-- A unit is in quarantine in frame n. -/
def quarAt (s : State) (u : RasUnit) (n : Nat) : Bool :=
  s.ras.quar.any (fun q => q.unit == u && quarIn q n)

/-- A slice is out of service in frame n: fenced or under test, itself or with its stack (R586, R594). -/
def sliceFenced (s : State) (i n : Nat) : Bool :=
  fencedAt s (.slice i) n || fencedAt s (.stack (stackOf i)) n

def sliceQuar (s : State) (i n : Nat) : Bool :=
  quarAt s (.slice i) n || quarAt s (.stack (stackOf i)) n

def sliceOut (s : State) (i n : Nat) : Bool := sliceFenced s i n || sliceQuar s i n

/-- The 64-bit SUBJECT that names a unit (Table 15-21). -/
def unitId : RasUnit → Nat
  | .core st g p => packFields [(56, 8, 1), (16, 5, st), (8, 8, g), (0, 6, p)]
  | .merge h g p => packFields [(56, 8, 2), (16, 1, h), (8, 7, g), (0, 6, p)]
  | .rowGroup i g => packFields [(56, 8, 3), (13, 15, i), (0, 13, g)]
  | .slice i => packFields [(56, 8, 4), (0, 15, i)]
  | .stack n => packFields [(56, 8, 5), (0, 5, n)]
  | .t0 h r => packFields [(56, 8, 6), (16, 1, h), (0, 9, r)]
  | .lane p l => packFields [(56, 8, 7), (8, 4, p), (0, 4, l)]
  | .port p => packFields [(56, 8, 8), (0, 4, p)]
  | .blane b l => packFields [(56, 8, 9), (8, 2, b), (0, 4, l)]
  | .blink b => packFields [(56, 8, 10), (0, 2, b)]
  | .laneGroup n g => packFields [(56, 8, 11), (4, 5, n), (0, 4, g)]
  | .bridge l => packFields [(56, 8, 12), (0, 10, l)]

/-- Is a partition's session key in force (R522). -/
def partKey (s : State) (k : Nat) : Nat := (partAt s k).key

/-! ## Free values -/

/-- The number the next free value is drawn at (DESIGN CHOICE, log 6). -/
def freshNo (s : State) : Nat := s.out.free

def bumpFree (s : State) : State := { s with out := { s.out with free := s.out.free + 1 } }

/-! ## Events -/

/-- The category of an event code, bits [15:8] (R624). -/
def evCat (code : Nat) : Nat := code / 256

/-- Frame granularity of EV_COARSE (Table 14-7). -/
def coarseFrames (c : Nat) : Nat := [1, 16, 256, 4096].getD c 1

/-- Codes whose SUBJECT names a physical core, and codes whose DATA does or carries a power or temperature figure: the
fields R578 zeroes on issuer connections. -/
def hidesSubject (code : Nat) : Bool := code == 0x0301 || code == 0x0302
def hidesData (code : Nat) : Bool := code == 0x0301 || code == 0x0303

/-- The record an issuer connection sees (R578). -/
def coarsen (s : State) (r : EvRec) : EvRec :=
  let g := coarseFrames s.crypto.evCoarse
  { r with
    frame := r.frame / g * g
    subject := if hidesSubject r.code then 0 else r.subject
    data := if hidesData r.code then 0 else r.data }

/-- Queue a record on a connection; on overflow of 256 the oldest is dropped and the next record sent says so (R473). -/
def queueEvent (c : Conn) (r : EvRec) : Conn :=
  if c.events.length < 256 then { c with events := c.events ++ [r] }
  else { c with events := c.events.drop 1 ++ [r], dropNote := true }

/-- What one connection takes of an event (R472, R578). -/
def connEvent (s : State) (r : EvRec) (part : Option Nat) (c : Conn) : Conn :=
  if !c.opened || !bit c.evmask (evCat r.code) then c
  else if c.mgmt then queueEvent c r
  else match part with
    | none => c
    | some k =>
      if evCat r.code = 1 || evCat r.code = 2 then c
      else if mgetD c.grants k 0 = 0 then c
      else queueEvent c (coarsen s r)

/-- Write a record into the log ring (R580, R690): 4,096 records, the oldest unread one lost when all are unread
(R693). `sback` counts all records the sideband has read or lost. -/
def logRecord (x : Ras) (r : EvRec) : Ras :=
  let full := x.written - x.sback ≥ 4096
  { x with
    log := mset x.log (x.written % 4096) r
    written := x.written + 1
    sback := if full then x.sback + 1 else x.sback
    sbLost := x.sbLost || full }

/-- Set a PEND bit; a rise while its EN bit is 1 sends its MSI-X vector (R691). -/
def raisePend (q : Irq) (c : Nat) : Irq :=
  if bit q.pend c then q
  else { q with pend := q.pend ||| 2 ^ c, vectors := if bit q.en c then q.vectors ++ [c] else q.vectors }

/-- Raise an event: the log record, the PEND bit of its category, and the queues of the connections it concerns. A
node-wide event has no partition and carries NODEWIDE (Table 11-18). -/
def raise (s : State) (code : Nat) (part : Option Nat) (subject data : Nat) : State :=
  let r : EvRec := ⟨code, if part.isNone then 2 else 0, part.getD 0, s.time.frame, subject, data⟩
  { s with
    ras := logRecord s.ras r
    irq := raisePend s.irq (evCat code)
    conns := s.conns.map (fun e => (e.1, connEvent s r part e.2)) }

/-- Raise a partition-scoped event once for each of a list of partitions (R624, R690). -/
def raiseParts (s : State) (code : Nat) (ks : List Nat) (subject data : Nat) : State :=
  forAll s ks (fun s k => raise s code (some k) subject data)

/-- The unread count of R693; SB_ALERT_N is asserted while it is above 0 (R674). -/
def unread (s : State) : Nat := s.ras.written - s.ras.sback

/-! ## Meters and performance counters (R12, R13, R543) -/

/-- Advance meter i of a partition, modulo 2^64; work charged to no partition is metered nowhere (R543). -/
def meter (s : State) (k i n : Nat) : State :=
  if 128 ≤ k then s
  else updPart s k (fun p =>
    let ms := (List.range 16).map (fun j => p.meters.getD j 0)
    { p with meters := ms.set i ((ms.getD i 0 + n) % 2 ^ 64) })

/-- A 48-bit performance counter advanced by n, and whether it wraps (R13). -/
def perfAdd (x n : Nat) : Nat × Bool := ((x + n) % 2 ^ 48, decide (2 ^ 48 ≤ x + n))

/-- Raise `EV_COUNTER_WRAP` of the counter at a register address when it has wrapped: its wraps so far (R13). -/
def noteWrap (s : State) (wrapped : Bool) (addr : Nat) : State :=
  if wrapped then
    let n := mgetD s.irq.wraps addr 0 + 1
    raise { s with irq := { s.irq with wraps := mset s.irq.wraps addr n } } 0x0D01 none addr n
  else s

/-- Count an admitted command in `ADMIT.PERF_ADMITTED`, and a deferral in `ADMIT.PERF_DEFERRED` (Table 18-3). -/
def countAdmitted (s : State) : State :=
  let r := perfAdd s.adm.admitted 1
  noteWrap { s with adm := { s.adm with admitted := r.1 } } r.2 0x20010

def countDeferred (s : State) : State :=
  let r := perfAdd s.adm.deferred 1
  noteWrap { s with adm := { s.adm with deferred := r.1 } } r.2 0x20018

/-- The registers answer from spring step 0x01 (R674) until the next reset. -/
def awake (s : State) : Bool := s.pins.rstN && decide (1 ≤ s.life.step)

end Sys2Proof.Machine
end

