-- ==== Sys2Proof/Machine/Operands.lean ====
section
/-!
DEFINITION. Operand forms: the command header of Table 10-1 read from and written to bytes, and the parameter words of
every opcode by the names its table gives the fields.
-/

namespace Sys2Proof.Machine

/-! ## The header (R363) -/

/-- A flag bit (Table 10-2). -/
def Hdr.chainEn (h : Hdr) : Bool := bit h.flags 2
def Hdr.recurrent (h : Hdr) : Bool := bit h.flags 1
def Hdr.flushFirst (h : Hdr) : Bool := bit h.flags 0

/-- The bits of Table 10-1 that are RSVD, outside the parameter words and FLAGS. -/
def hdrRsvd (x : Nat) : Bool :=
  bits x 319 288 != 0 || bits x 255 240 != 0 || bits x 63 62 != 0 || bits x 47 44 != 0 || bit x 39

/-- Read the header's fields from the first 64 bytes of a body. -/
def parseHdr (body : Bytes) : Hdr :=
  let x := leAt body 0 64
  { opcode := bits x 7 0, hver := bits x 15 8, flags := bits x 31 16, part := bits x 38 32, queue := bits x 43 40,
    layer := bits x 55 48, kvh := bits x 61 56, tag := bits x 95 64, tframe := bits x 127 96, epoch := bits x 159 128,
    paylen := bits x 191 160, ctx := bits x 239 192, chain := bits x 287 256, p0 := bits x 383 320,
    p1 := bits x 447 384, p2 := bits x 511 448, rsvd := hdrRsvd x }

/-- The 64 bytes of a header whose RSVD bits are 0. -/
def hdrBytes (h : Hdr) : Bytes :=
  leBytes 64 (packFields
    [(0, 8, h.opcode), (8, 8, h.hver), (16, 16, h.flags), (32, 7, h.part), (40, 4, h.queue), (48, 8, h.layer),
     (56, 6, h.kvh), (64, 32, h.tag), (96, 32, h.tframe), (128, 32, h.epoch), (160, 32, h.paylen), (192, 48, h.ctx),
     (256, 32, h.chain), (320, 64, h.p0), (384, 64, h.p1), (448, 64, h.p2)])

/-! ## Opcodes (Table 10-10) -/

def opATTEND : Nat := 0x01
def opVERIFY : Nat := 0x02
def opACCEPT : Nat := 0x03
def opAPPEND : Nat := 0x04
def opPUSH : Nat := 0x05
def opSTEP : Nat := 0x06
def opSELECT : Nat := 0x07
def opINDEX : Nat := 0x08
def opPARK : Nat := 0x10
def opRESTORE : Nat := 0x11
def opFORK : Nat := 0x12
def opDROP : Nat := 0x13
def opFLUSH : Nat := 0x14
def opMIGRATE : Nat := 0x15
def opREAD : Nat := 0x18
def opWRITE : Nat := 0x19
def opPOST : Nat := 0x20
def opARM : Nat := 0x21
def opFENCE : Nat := 0x22
def opOPEN : Nat := 0x30
def opCLOSE : Nat := 0x31
def opPROG : Nat := 0x32
def opPART : Nat := 0x38
def opCAPS : Nat := 0x3F

/-- Every assigned opcode. -/
def opcodes : List Nat :=
  [opATTEND, opVERIFY, opACCEPT, opAPPEND, opPUSH, opSTEP, opSELECT, opINDEX, opPARK, opRESTORE, opFORK, opDROP,
   opFLUSH, opMIGRATE, opREAD, opWRITE, opPOST, opARM, opFENCE, opOPEN, opCLOSE, opPROG, opPART, opCAPS]

/-- Opcodes that name streams (the Names column). -/
def namesStreams (op : Nat) : Bool :=
  [opATTEND, opVERIFY, opACCEPT, opAPPEND, opPUSH, opSTEP, opSELECT, opINDEX, opPARK, opRESTORE, opFORK, opDROP,
   opFLUSH, opMIGRATE, opREAD, opWRITE, opOPEN, opCLOSE].contains op

/-- Near-bank commands, on which FLUSH_FIRST is used (R326). -/
def nearBank (op : Nat) : Bool :=
  [opATTEND, opVERIFY, opSELECT, opSTEP, opFORK, opPARK, opMIGRATE, opINDEX].contains op

/-- The rights class of an opcode (Table 10-5): the bit, or none. -/
def rightsClass (op : Nat) : Option Nat :=
  if [opATTEND, opVERIFY, opSELECT, opREAD].contains op then some 0
  else if [opACCEPT, opAPPEND, opPUSH, opSTEP, opWRITE, opFLUSH].contains op then some 1
  else if [opINDEX, opPARK, opRESTORE, opFORK, opDROP, opMIGRATE, opOPEN, opCLOSE, opPROG].contains op then some 2
  else if [opPOST, opARM, opFENCE].contains op then some 3
  else none

/-! ## ATTEND, SELECT and VERIFY (Tables 4-1, 4-2, 5-1, 5-2, 6-1) -/

def Hdr.isVerify (h : Hdr) : Bool := h.opcode == opVERIFY
def Hdr.isSelect (h : Hdr) : Bool := h.opcode == opSELECT

/-- LIMIT of ATTEND and SELECT; BASEPOS of VERIFY. -/
def Hdr.limit (h : Hdr) : Nat := bits h.p0 63 32
def Hdr.basePos (h : Hdr) : Nat := bits h.p0 63 32
def Hdr.low (h : Hdr) : Nat := bits h.p0 31 0
def Hdr.scale2 (h : Hdr) : F32 := BitVec.ofNat 32 (bits h.p1 63 32)
def Hdr.prog (h : Hdr) : Nat := bits h.p1 31 24
/-- Query rows per query head (QROWS + 1), or nodes of the tree (TREE + 1). -/
def Hdr.rows (h : Hdr) : Nat := if h.isVerify then bits h.p1 23 18 + 1 else bits h.p1 23 20 + 1
def Hdr.attNkvh (h : Hdr) : Nat := if h.isVerify then bits h.p1 17 12 else bits h.p1 19 14
def Hdr.miss (h : Hdr) : Nat := if h.isVerify then bits h.p1 11 10 else bits h.p1 13 12
def Hdr.sealWait (h : Hdr) : Bool := if h.isVerify then bit h.p1 9 else bit h.p1 11
def Hdr.outBf16 (h : Hdr) : Bool := if h.isVerify then bit h.p1 8 else bit h.p1 10
def Hdr.candSlice (h : Hdr) : Nat := bits h.p2 43 32
def Hdr.probeBits (h : Hdr) : Nat := bits h.p2 31 24
def Hdr.probes (h : Hdr) : Nat := bits h.p2 23 22 + 1
def Hdr.prefilter (h : Hdr) : Bool := h.isSelect && bit h.p2 21
def Hdr.topj (h : Hdr) : Nat := bits h.p2 15 12
def Hdr.recent (h : Hdr) : Nat := bits h.p2 11 6
def Hdr.sink (h : Hdr) : Nat := bits h.p2 5 0

/-! ## Writes (Tables 10-11, 5-8, 9-3, 13-14, 5-13) -/

/-- First position of APPEND, WRITE and PUSH_LAYER. -/
def Hdr.pos (h : Hdr) : Nat := bits h.p0 63 32
/-- Positions of APPEND or WRITE. -/
def Hdr.npos (h : Hdr) : Nat := if h.opcode = opWRITE then bits h.p0 11 0 + 1 else bits h.p0 11 6 + 1
def Hdr.acount (h : Hdr) : Nat := bits h.p0 38 32
def Hdr.ctxHandle (h : Hdr) : Nat := bits h.p0 31 0
def Hdr.npage (h : Hdr) : Nat := bits h.p0 13 8 + 1
def Hdr.lastRows (h : Hdr) : Nat := bits h.p1 6 0
def Hdr.nhead (h : Hdr) : Nat := bits h.p0 15 10 + 1
def Hdr.tok (h : Hdr) : Nat := bits h.p0 9 4 + 1
def Hdr.commit (h : Hdr) : Bool := bit h.p0 3
def Hdr.stepMode (h : Hdr) : Nat := bits h.p0 2 2
def Hdr.stepPos (h : Hdr) : Nat := bits h.p1 31 0

/-! ## Structure and movement (Tables 10-12, 9-4, 9-8, 6-12, 8-14, 3-2, 3-8, 5-12) -/

def Hdr.childCtx (h : Hdr) : Nat := bits h.p0 47 0
def Hdr.forkP (h : Hdr) : Nat := bits h.p1 31 0
def Hdr.dropQ (h : Hdr) : Nat := bits h.p0 31 0
def Hdr.all (h : Hdr) : Bool := bit h.p0 44
def Hdr.pageHi (h : Hdr) : Nat := bits h.p0 37 19
def Hdr.pageLo (h : Hdr) : Nat := bits h.p0 18 0
def Hdr.reverse (h : Hdr) : Bool := bit h.p0 32
def Hdr.bg (h : Hdr) : Bool := bit h.p0 31
def Hdr.migWidth (h : Hdr) : Nat := bits h.p0 30 16
def Hdr.migBase (h : Hdr) : Nat := bits h.p0 14 0
def Hdr.indexOp (h : Hdr) : Nat := bits h.p0 33 32
def Hdr.reserve (h : Hdr) : Nat := bits h.p0 18 0
def Hdr.progSlot (h : Hdr) : Nat := bits h.p0 39 32
def Hdr.ninst (h : Hdr) : Nat := bits h.p0 13 8 + 1
def Hdr.progClear (h : Hdr) : Bool := bit h.p0 0
def Hdr.dWindow (h : Hdr) : Nat := bits h.p0 30 16
def Hdr.dGroup (h : Hdr) : Nat := bits h.p0 15 9
def Hdr.dDcode (h : Hdr) : Nat := bits h.p0 8 6
def Hdr.dFmt (h : Hdr) : Nat := bits h.p0 5 2
def Hdr.dLayout (h : Hdr) : Nat := bits h.p0 1 0
def Hdr.dDv (h : Hdr) : Nat := bits h.p0 5 3
def Hdr.dDk (h : Hdr) : Nat := bits h.p0 2 0
def Hdr.openPol (h : Hdr) : Nat := bits h.p1 53 53
def Hdr.hintHome (h : Hdr) : Nat := bits h.p1 52 51
def Hdr.hintBase (h : Hdr) : Nat := bits h.p1 50 36
def Hdr.baseExplicit (h : Hdr) : Bool := bit h.p1 35
def Hdr.expect (h : Hdr) : Nat := bits h.p1 34 16
def Hdr.hintWidth (h : Hdr) : Nat := bits h.p1 14 0

/-- The NKVH field of an opcode whose names are h0 to h0 + NKVH (0 for an opcode that names one stream). -/
def Hdr.nkvh (h : Hdr) : Nat :=
  if h.opcode = opATTEND ∨ h.opcode = opVERIFY ∨ h.opcode = opSELECT then h.attNkvh
  else if h.opcode = opAPPEND ∨ h.opcode = opPUSH ∨ h.opcode = opCLOSE then bits h.p0 5 0
  else if h.opcode = opSTEP then bits h.p0 15 10
  else if h.opcode = opFORK then bits h.p0 53 48
  else if h.opcode = opDROP then bits h.p0 37 32
  else if h.opcode = opFLUSH then bits h.p0 43 38
  else 0

/-- The KV heads a command names, ascending. -/
def Hdr.heads (h : Hdr) : List Nat := (List.range (h.nkvh + 1)).map (fun i => h.kvh + i)

/-! ## Chains and management (Tables 10-17, 10-20, 13-5) -/

def Hdr.postOp (h : Hdr) : Nat := bits h.p0 33 32
def Hdr.postHandle (h : Hdr) : Nat := bits h.p0 31 0
def Hdr.armEvent (h : Hdr) : Nat := bits h.p0 31 0
def Hdr.thresh (h : Hdr) : Nat := h.p1
def Hdr.qmask (h : Hdr) : Nat := bits h.p0 15 0
def Hdr.pcA (h : Hdr) : Nat := bits h.p0 63 32
def Hdr.pcWeight (h : Hdr) : Nat := bits h.p0 31 24
def Hdr.pcTsgEn (h : Hdr) : Bool := bit h.p0 22
def Hdr.pcTsg (h : Hdr) : Nat := bits h.p0 21 17
def Hdr.pcOp (h : Hdr) : Nat := bits h.p0 7 0

/-- Assigned PART_CTL operations (Table 13-6). -/
def partOps : List Nat := [0x01, 0x02, 0x03, 0x04, 0x05, 0x06, 0x07, 0x08, 0x09, 0x10, 0x11, 0x12]

/-! ## Fields of a chain entry image (Table 10-18) -/

def ceTag (x : Nat) : Nat := bits x 255 224
def ceEvent (x : Nat) : Nat := bits x 223 192
def ceNext (x : Nat) : Nat := bits x 191 160
def ceAdd (x : Nat) : Nat := bits x 159 128
def ceConn (x : Nat) : Nat := bits x 127 112
def cePart (x : Nat) : Nat := bits x 111 105
def ceQueue (x : Nat) : Nat := bits x 103 100
def ceLead (x : Nat) : Nat := bits x 99 92
def ceAct (x : Nat) : Nat := bits x 91 88
def ceTrig (x : Nat) : Nat := bits x 87 86
def cePersist (x : Nat) : Bool := bit x 85
def ceAny (x : Nat) : Bool := bit x 84
def ceNextEn (x : Nat) : Bool := bit x 83
def ceNoReply (x : Nat) : Bool := bit x 82
def ceTagKeep (x : Nat) : Bool := bit x 81
/-- The image's RSVD bits and its STATE (R398). -/
def ceBad (x : Nat) : Bool :=
  bit x 104 || bits x 80 78 != 0 || bits x 77 0 != 0 || ceAct x == 0 || decide (4 < ceAct x) || ceTrig x == 3 ||
    (ceAct x == 2 && ceTrig x == 1)

/-! ## Serial target frames (R10, R57) -/

/-- The target frame a header names, widened; none when it cannot be. -/
def targetFrame (cur tframe : Nat) : Option Int := widenFrame cur tframe

end Sys2Proof.Machine
end

