-- ==== Sys2Proof/Machine/Flags.lean ====
section
/-!
DEFINITION. Status codes (Table 10-23), the detail words, the status record of Table 10-7 with its SFLAGS, and how a
command's outcome becomes its result message (R380, R381, R727).
-/

namespace Sys2Proof.Machine

/-! ## Status codes (Table 10-23) -/

def stOK : Nat := 0x00
def stOMITTED : Nat := 0x01
def stDEFERRED : Nat := 0x02
def stNOBUDGET : Nat := 0x03
def stMOVED : Nat := 0x04
def stSTALE : Nat := 0x05
def stDIRTY : Nat := 0x06
def stCTXLOST : Nat := 0x07
def stPAGELOST : Nat := 0x08
def stOWNERLOST : Nat := 0x09
def stBADGEN : Nat := 0x0A
def stFENCED : Nat := 0x0B
def stINTEGRITY : Nat := 0x0C
def stMALFORMED : Nat := 0x0D
def stDENIED : Nat := 0x0E
def stUNSUPPORTED : Nat := 0x0F

/-- Detail of a failed check: step in [7:0], sub-code in [15:8] (R368). -/
def stepDetail (step sub : Nat) : Nat := packFields [(0, 8, step), (8, 8, sub)]

/-- Detail of PAGE_LOST and INTEGRITY (Table 15-6). -/
def lossDetail (ranges : Bool) (kvh cause page : Nat) : Nat :=
  packFields [(30, 1, b2n ranges), (24, 6, kvh), (18, 6, cause), (0, 18, page)]

/-- Detail of FENCED (Table 15-4): reason and 24 low bits. -/
def fencedDetail (reason low : Nat) : Nat := packFields [(24, 8, reason), (0, 24, low)]

/-! ## The status record (Tables 10-7, 10-8) -/

def sflags (body chained late interim : Bool) : Nat :=
  packFields [(4, 1, b2n body), (3, 1, b2n chained), (1, 1, b2n late), (0, 1, b2n interim)]

/-- The 32 bytes of a status record. -/
def statusRecord (h : Hdr) (chained interim : Bool) (defers : Nat) (o : Outcome0) : Bytes :=
  leBytes 32 (packFields
    [(0, 32, h.tag), (32, 8, o.status), (40, 8, h.opcode),
     (48, 16, sflags (!o.body.isEmpty) chained o.late interim), (64, 32, o.detail), (96, 32, o.cframe),
     (128, 32, o.count0), (160, 32, o.count1), (192, 32, o.body.length), (224, 7, h.part), (232, 4, h.queue),
     (240, 8, satTo 255 defers)])

/-- The fields of a status record that answers a forwarded command (R403): status and INTERIM. -/
def recStatus (bs : Bytes) : Nat := bits (leAt bs 0 32) 39 32
def recInterim (bs : Bytes) : Bool := bit (leAt bs 0 32) 48
def recTag (bs : Bytes) : Nat := bits (leAt bs 0 32) 31 0

/-! ## Messages -/

/-- The connection number of a command the service host's mailbox delivered (R510): not a Swinus connection ID. -/
def mailboxConn : Nat := 0x10000

/-- A mailbox response (Table 18-12): operation, status, `DONE`, tag, body. -/
def mboxReply (op st done tag : Nat) (body : Bytes) : Bytes :=
  leBytes 16 (packFields [(0, 8, op), (8, 8, st), (32, 32, done), (96, 32, tag)]) ++ body

/-- Complete the service host's request (R698). -/
def mboxDone (s : State) (rsp : Bytes) : State :=
  { s with mbox := { s.mbox with rsp := rsp, rspLen := rsp.length, state := 2, go := false }, irq := raisePend s.irq 15 }

/-- Queue a message on a connection, in a class, for a partition's subscriber queue. Its key is its place in the order in
which messages become ready (R485); it takes the next MSN of its direction when its first packet starts (R426), so that
an outcome may still be replaced (R727). `notBefore` is the frame whose gate it leaves in, 0 for none. -/
def queueMsg (s : State) (c tc : Nat) (hdr : MsgHdr) (body : Bytes) (forPart : Nat) (cid : Option Nat) (final : Bool)
    (notBefore : Nat) : State :=
  match mget s.conns c with
  | none => s
  | some x =>
    if !x.opened then s
    else
      let m : OutMsg :=
        { msn := 0, tc := tc,
          hdr := { hdr with mlen := body.length, pcount := ceilDiv body.length x.mps }, body := body, pkts := [],
          next := 0, notBefore := notBefore, forPart := forPart, cid := cid, final := final }
      { updConn s c (fun x => { x with out := mset x.out s.out.seq m }) with
        out := { s.out with seq := s.out.seq + 1 } }

/-- The DATA fields of the result message of a command (R431). -/
def resHdr (c : Cmd) : MsgHdr :=
  { kind := 2, part := 0, mlen := 0, pcount := 0, region := c.region, rgen := c.rgen, addr := c.addr, answers := c.msn,
    av := true, chainh := 0 }

/-- Blocks of 4 KiB a command's header and payload hold (R372). -/
def cmdBlocks (payload : Bytes) : Nat := ceilDiv (64 + payload.length) 4096

/-- Give back blocks of T0 quota (R508). -/
def releaseT0 (s : State) (k h n : Nat) : State :=
  updPart s k (fun p => if h = 1 then { p with used1 := p.used1 - n } else { p with used0 := p.used0 - n })

/-- Take blocks of T0 quota. -/
def takeT0 (s : State) (k h n : Nat) : State :=
  updPart s k (fun p => if h = 1 then { p with used1 := p.used1 + n } else { p with used0 := p.used0 + n })

/-- Does a FENCE cover a command: same partition, earlier, a covered queue, and not a PART_CTL (R376, R511). -/
def fenceCovers (fid : Nat) (f : Cmd) (cid : Nat) (c : Cmd) : Bool :=
  let mask := if f.hdr.qmask = 0 then 2 ^ f.hdr.queue else f.hdr.qmask
  decide (0 < c.acc) && f.hdr.part == c.hdr.part && bit mask c.hdr.queue && c.hdr.opcode != opPART && cid != fid

/-- A command leaves its queue: its final record has been sent or discarded (R372). Its T0 space is given back, it counts
in meters 12 and 14 (Table 13-16), and every waiting FENCE that covers it notes the frame (R376). -/
def retireCmd (s : State) (cid : Nat) : State :=
  match cmdAt s cid with
  | none => s
  | some c =>
    let s1 := if c.hdr.opcode = opPART then s else releaseT0 s c.hdr.part c.hub c.blocks
    let s2 := meter s1 c.hdr.part 12 1
    let s3 := match c.result with
      | some o => if o.status = stNOBUDGET then meter s2 c.hdr.part 14 1 else s2
      | none => s2
    let cmds := (mdel s3.adm.cmds cid).map (fun e =>
      if e.2.hdr.opcode == opFENCE && e.2.result.isNone && decide (cid < e.1) && fenceCovers e.1 e.2 cid c then
        (e.1, { e.2 with aux := [e.2.aux.getD 0 0 + 1, s.time.frame] })
      else e)
    { s3 with adm := { s3.adm with cmds := cmds } }

/-- Remove every message of a command that has not begun to leave (R727). -/
def dropUnsent (s : State) (cid : Nat) : State :=
  { s with conns := s.conns.map (fun e =>
      (e.1, { e.2 with out := mfilter e.2.out (fun _ m => !(m.cid == some cid && m.next == 0)) })) }

/-- The bulk class of a result (R381, R479). -/
def bulkClass (s : State) (k : Nat) (hasBody : Bool) : Nat :=
  if hasBody then (partAt s k).egBody else (partAt s k).egStat

/-- Has a message of the command that carries its final record begun to leave. -/
def recordLeft (s : State) (cid : Nat) : Bool :=
  s.conns.any (fun e => e.2.out.any (fun m => m.2.cid == some cid && m.2.final && decide (0 < m.2.next)))

/-- Class of pages lost with their stack or hub: thermal when the stack of the first range (Table 15-8) is fenced for its temperature
(R579, R623; DEDUCED, log 165). -/
def stackLossClass (s : State) (o : Outcome0) : Nat :=
  let n := bits (leAt o.body 0 16) 114 100 / 1024
  if s.ras.fences.any (fun f => f.unit == .stack n && f.cause == 0x0B) then 5 else 3

/-- The goodput class of an outcome that keeps a frame from being honoured (R622, R623); none when it does not. -/
def outcomeClass (s : State) (o : Outcome0) : Option Nat :=
  let reason := bits o.detail 31 24
  let cause := bits o.detail 23 18
  if o.status = stFENCED then
    (if reason = 1 ∨ reason = 2 then some 6 else if reason = 3 ∨ reason = 5 then some 2 else if reason = 4 then some 3 else none)
  else if o.status = stINTEGRITY then some (if cause = 7 then 4 else 7)
  else if o.status = stPAGELOST then
    (if bit o.detail 31 || cause == 0 then none
     else some (if cause = 1 then 2 else if cause = 2 then stackLossClass s o else if cause = 7 then 4 else if cause = 9 then 0 else 7))
  else if o.late then some 0
  else none

/-- Note the class of the first fault that touched a frame, by the outcome of a command served or completed in it. A detail
that carries a context handle (R162) says nothing of the fault: it is noted before. -/
def noteOutcome (s : State) (c : Cmd) (o : Outcome0) : State :=
  match (if c.hdr.isVerify && c.handle != 0 && o.detail == c.handle && o.status != stOK && o.status != stOMITTED then none
    else outcomeClass s o) with
  | none => s
  | some k =>
    let f := match c.plan with
      | some p => if [opATTEND, opVERIFY, opSELECT, opSTEP].contains c.hdr.opcode then p.service else o.cframe
      | none => o.cframe
    if mhas s.ras.frameFault f then s else { s with ras := { s.ras with frameFault := mset s.ras.frameFault f k } }

/-- Complete a command: fix its final outcome, arm its completion trigger for the frame after CFRAME (R399), and queue
its result message. `gate` is the frame in whose gate partial records or outputs leave, 0 for a bulk result; a bulk
result of a command with a span waits for the end of its completion frame (DEDUCED, log 12). An outcome
replaces an earlier one until the record is on the wire (R727). A command whose connection is closed, or that sends no
reply, retires at once (R380, R470). `fires` is false for the outcomes whose triggers do not fire (R523, R408). -/
def finishWith (s : State) (cid : Nat) (o : Outcome0) (gate : Nat) (fires : Bool) : State :=
  match cmdAt s cid with
  | none => s
  | some c =>
    if recordLeft s cid then s
    else
      let o := { o with late := o.late || c.late }
      let s := noteOutcome (dropUnsent s cid) c o
      let s := updCmd s cid (fun c => { c with result := some o, st := .closed })
      let trigs := mdel s.chains.trigs cid
      let trigs := if fires && c.hdr.chainEn then mset trigs cid (c.hdr, c.payload, o, o.cframe + 1, c.deferrals) else trigs
      let s := { s with chains := { s.chains with trigs := trigs } }
      if c.conn = mailboxConn then
        retireCmd (mboxDone s (mboxReply 1 stOK 0 (leNat (bread s.mbox.req 12 4))
          (statusRecord c.hdr c.chained false c.deferrals o ++ o.body))) cid
      else
        match mget s.conns c.conn with
        | some x =>
          if !x.opened || c.noreply then retireCmd s cid
          else
            let tc := if 0 < gate then 0 else bulkClass s c.hdr.part (!o.body.isEmpty)
            let nb := if 0 < gate then gate else if c.plan.isSome then o.cframe + 1 else 0
            queueMsg s c.conn tc (resHdr c) (statusRecord c.hdr c.chained false c.deferrals o ++ o.body) c.hdr.part
              (some cid) true nb
        | none => retireCmd s cid

/-- A frame no run reaches: what waits for a re-run to be planned waits in it. -/
def heldFrame : Nat := 2 ^ 48

/-- The completion frame of a command that something stops: that of its span (R71, R382), or for one with no span, or whose re-run
is not yet planned, the current frame. -/
def endFrame (s : State) (cid : Nat) : Nat :=
  match (cmdAt s cid).bind (fun c => c.plan) with
  | some p => if p.cframe < heldFrame then p.cframe else s.time.frame
  | none => s.time.frame

/-- Complete a command with a status, a detail and counts, in a frame, with no body. -/
def finish (s : State) (cid status detail cframe c0 c1 : Nat) : State :=
  finishWith s cid ⟨status, detail, cframe, c0, c1, [], false⟩ 0 true

/-- Complete a command with a bulk body. -/
def finishBody (s : State) (cid status detail cframe c0 c1 : Nat) (body : Bytes) : State :=
  finishWith s cid ⟨status, detail, cframe, c0, c1, body, false⟩ 0 true

/-- Send an interim record (R63, R186), with outputs when it has a body. -/
def interim (s : State) (cid status detail cframe : Nat) (body : Bytes) (count0 gate : Nat) : State :=
  match cmdAt s cid with
  | none => s
  | some c =>
    if c.noreply then s
    else
      let o : Outcome0 := ⟨status, detail, cframe, count0, 0, body, c.late⟩
      queueMsg s c.conn (if 0 < gate then 0 else bulkClass s c.hdr.part (!body.isEmpty)) (resHdr c)
        (statusRecord c.hdr c.chained true c.deferrals o ++ body) c.hdr.part (some cid) false gate

end Sys2Proof.Machine
end

