-- ==== Sys2Proof/Machine/Frames.lean ====
section
/-!
DEFINITION. The frame clock and the budgets: which base intervals a frame holds, refresh and throttling, the per-slice
service budget (R48), long-sequence planning (R68), reserve windows (R331), spans (R58) and reservations (R59).
-/

namespace Sys2Proof.Machine

/-! ## Frames and base intervals (R28, R29, R39) -/

/-- Base intervals per frame (a frame of 1.024 µs is half of one). -/
def bintsPerFrame (len : Nat) : Nat := [1, 1, 2, 4].getD len 1

/-- Frame length in ns. -/
def frameNs (len : Nat) : Nat := 1024 * 2 ^ len

/-- Gate length in tenths of a ns: 40 % of the frame (R40). -/
def gateTenths (len : Nat) : Nat := 4096 * 2 ^ len

/-- Reserve credit per frame, and the length of the frame's reserve windows, in bytes (Table 2-10). -/
def creditPerFrame (len : Nat) : Nat := 1024 * 2 ^ len

/-- Cycles of a merge-core frame (R389). -/
def mergeCycles (len : Nat) : Nat := 2048 * 2 ^ len

/-- Compressor tiles per frame on one hub (R250). -/
def tilesPerFrame (len : Nat) : Nat := 4096 * 2 ^ len

/-- First base interval of the current frame. -/
def firstBint (t : Time) : Nat := t.bint + 1 + t.left - bintsPerFrame t.len

/-- First base interval of frame n, and whether n is the second half of it; n is not before the current frame. -/
def bintOf (t : Time) (n : Nat) : Nat × Bool :=
  let d := n - t.frame
  if t.len = 0 then
    let h := b2n t.half + d
    (firstBint t + h / 2, h % 2 == 1)
  else (firstBint t + d * bintsPerFrame t.len, false)

/-- The frame that holds base interval b, the later one at 1.024 µs (R68). -/
def frameOf (t : Time) (b : Nat) : Nat :=
  if t.len = 0 then t.frame + 2 * (b - firstBint t) + 1 - b2n t.half
  else t.frame + (b - firstBint t) / bintsPerFrame t.len

/-- The equinox frame of a pending map that carries another frame length, with that length (R31). -/
def lenChange (s : State) : Option (Nat × Nat) :=
  match s.maps.cur, s.maps.pend with
  | some _, some m => if m.len = s.time.len then none else some (m.equinox, m.len)
  | _, _ => none

/-- Frame length of frame f. -/
def lenAt (s : State) (f : Nat) : Nat :=
  match lenChange s with
  | some c => if c.1 ≤ f then c.2 else s.time.len
  | none => s.time.len

/-- The clock as the next frame's new length lays it out (R32). -/
def layoutTime (t : Time) (len : Nat) : Time :=
  { t with len := len, left := (bintOf t (t.frame + 1)).1 - t.bint - 1, half := len == 0 }

/-- A span does not cross an equinox frame that carries a new length (R32). -/
def spanWhole (s : State) (start last : Nat) : Bool :=
  match lenChange s with
  | some c => decide (c.1 ≤ start) || decide (last < c.1)
  | none => true

/-- R53: `BASE` and `CAP` in proportion to a frame length, from the length they are written for. -/
def rescaleEnergy (s : State) (len : Nat) : State :=
  let a := s.adm
  { s with adm := { a with
    energyLen := len
    energyBase := satTo 65535 (ceilDiv (a.energyBase * 2 ^ len) (2 ^ a.energyLen))
    energyCap := satTo 65535 (a.energyCap * 2 ^ len / 2 ^ a.energyLen) } }

/-! ## Refresh mode and thermal step (R43–R46, R58) -/

/-- Mode and step of a stack in base interval b: of its cycle when fixed, hot and 50 % otherwise (R58). -/
def modeAt (s : State) (st b : Nat) : Bool × Nat :=
  let x := stackAt s st
  let cyc := s.time.bint / 16
  if b / 16 ≤ cyc then (x.hot, x.step)
  else if b / 16 = cyc + 1 ∧ s.time.decided = cyc + 1 then (x.hotNext, x.stepNext)
  else (true, 3)

/-- Throttled base intervals of a step (Table 2-8). -/
def throttledSet (step : Nat) : List Nat :=
  if step = 0 then [] else if step = 1 then [7, 14] else if step = 2 then [3, 7, 10, 14] else [1, 2, 3, 5, 6, 7, 10, 14]

def throttled (step b : Nat) : Bool := (throttledSet step).contains (b % 16)

/-- A refresh is due in base interval b (R44). -/
def refreshDue (hot : Bool) (b : Nat) : Bool := hot || b % 2 == 0

/-! ## Merged maintenance windows (R41) -/

/-- Merged maintenance slots that end with base interval b on a slice, 0 for none (R41): an immediate recalibration merges
8 (R617), on the slices of the partition that asked that no long sequence holds. -/
def mergedSlots (s : State) (i b : Nat) : Nat :=
  if (stackAt s (stackOf i)).recal.any (fun e => e.1 == b && (partAt s e.2).ranges.any (fun r =>
      decide (r.1 ≤ i) && decide (i < r.1 + r.2))) then 8 else 0

/-- The budget of R41 in a merged maintenance window of k slots. -/
def mergedBudget (len k : Nat) (refresh : Bool) (normal : Nat) : Nat :=
  let l := if len = 0 then 10240 else 20480
  let v := if len = 0 then 1024 else 2048
  let used := (if refresh then 4100 else 0) + v + 1280 * k
  min normal ((l - used) / 4096)

/-! ## Long sequences (R64–R68) -/

/-- Chunk-times a sequence has in base interval b with k merged maintenance slots at its end, and its debt after it (R65,
R66). A merged window planned earlier leaves it what R41 leaves the slice; the interval holds a refresh only when the
sequence suspends for one (DEDUCED, log 121). -/
def seqAvail (len k : Nat) (ms : Bool × Nat) (b debt : Nat) : Nat × Nat :=
  if throttled ms.2 b then (0, debt)
  else
    let a := if refreshDue ms.1 b then if debt < 4 then (4, debt + 1) else (3, debt) else (4, debt)
    let a := (if len = 0 ∧ b % 16 = 15 then a.1 - 1 else a.1, a.2)
    let suspends := refreshDue ms.1 b && debt == 4
    if k = 0 then a
    else if len = 0 then (min a.1 ((if suspends then 1 else 2) + mergedBudget 0 k false 1), a.2)
    else (mergedBudget len k suspends a.1, a.2)

/-- R68: uses per base interval from b, newest first, with the free chunk-times of the last and the debt left; `win` gives
the merged maintenance slots of an interval (R41). -/
def planSeq (fuel len : Nat) (mode : Nat → Bool × Nat) (win : Nat → Nat) (b left debt : Nat) (acc : List (Nat × Nat)) :
    Option (List (Nat × Nat) × Nat × Nat) :=
  match fuel with
  | 0 => none
  | f + 1 =>
    let a := seqAvail len (win b) (mode b) b debt
    if left ≤ a.1 then some ((b, left) :: acc, a.1 - left, a.2)
    else planSeq f len mode win (b + 1) (left - a.1) a.2 ((b, a.1) :: acc)

/-- Refreshes owed on a slice at base interval b after its last planned sequence, repaid up to 4 per slot counting the
scheduled one (R67). -/
def owedFrom (fuel : Nat) (mode : Nat → Bool × Nat) (b0 b debt : Nat) : Nat :=
  match fuel with
  | 0 => debt
  | f + 1 =>
    if b ≤ b0 then debt
    else owedFrom f mode (b0 + 1) b (debt - min debt (4 - b2n (refreshDue (mode b0).1 b0)))

/-- The last planned sequence that ends before base interval b. -/
def lastSeq (x : Slice) (b : Nat) : Option SeqHold :=
  (x.seqs.filter (fun q => decide (q.last < b))).foldl
    (fun o q => match o with
      | none => some q
      | some p => if p.last < q.last then some q else some p) none

/-- Refreshes owed on slice i when base interval b starts. -/
def owedAt (s : State) (i b : Nat) : Nat :=
  match lastSeq (sliceAt s i) b with
  | none => 0
  | some q => owedFrom (b - q.last) (fun b => modeAt s (stackOf i) b) (q.last + 1) b q.debt

/-- The sequence that holds base interval b of a slice, the last planned when one starts where another ends (R185). -/
def seqAt (x : Slice) (b : Nat) : Option SeqHold :=
  (x.seqs.filter (fun q => decide (q.first ≤ b) && decide (b ≤ q.last))).getLast?

/-! ## Service budget (R48) -/

/-- Service chunks of one base interval, or of the named half of it at 1.024 µs (Table 2-10), before reductions. -/
def gridBudget (len : Nat) (ms : Bool × Nat) (b : Nat) (second : Bool) : Nat :=
  if throttled ms.2 b then 0
  else if len = 0 then
    if second then if b % 16 = 15 then 1 else 2 else if refreshDue ms.1 b then 1 else 2
  else if refreshDue ms.1 b then 3 else 4

/-- Service chunks of slice i in base interval b (or its named half): none while a sequence holds it but what the last
interval leaves, less one for each owed refresh repaid in the interval, within a merged window's budget (R41, R48, R64,
R67). At 1.024 µs the first half gives up its chunks first, since the repayment slot stands at its start. -/
def bintBudget (s : State) (i b : Nat) (second : Bool) : Nat :=
  let ms := modeAt s (stackOf i) b
  let x := sliceAt s i
  match seqAt x b with
  | some q => if b = q.last then if s.time.len = 0 ∧ !second then 0 else q.lastFree else 0
  | none =>
    let g := gridBudget s.time.len ms b second
    let owed := owedAt s i b
    let cut := min owed (4 - b2n (refreshDue ms.1 b))
    let cut := if second then cut - gridBudget s.time.len ms b false else cut
    let k := mergedSlots s i b
    let g := if throttled ms.2 b then 0 else g - cut
    if 0 < k ∧ (s.time.len ≠ 0 ∨ second) then mergedBudget s.time.len k (refreshDue ms.1 b && !second) g else g

/-- The service budget of slice i in frame n (R48, R60). -/
def sliceBudget (s : State) (i n : Nat) : Nat :=
  if sliceOut s i n then 0
  else
    let b := bintOf s.time n
    if s.time.len = 0 then bintBudget s i b.1 b.2
    else ((List.range (bintsPerFrame s.time.len)).map (fun j => bintBudget s i (b.1 + j) false)).sum

/-- The budget every slice would have in frame n with nothing reserved, counted as hot at the 50 % step when its cycle is
not fixed (R58). -/
def emptyBudget (s : State) (i n : Nat) : Nat :=
  let b := bintOf s.time n
  if s.time.len = 0 then gridBudget 0 (modeAt s (stackOf i) b.1) b.1 b.2
  else ((List.range (bintsPerFrame s.time.len)).map
    (fun j => gridBudget s.time.len (modeAt s (stackOf i) (b.1 + j)) (b.1 + j) false)).sum

/-! ## Reservations of a frame -/

def FrameRes.empty : FrameRes where
  energy := 0
  pEnergy := []
  chunks := []
  carry := []
  images := []
  merge0 := 0
  merge1 := 0
  pMerge0 := []
  pMerge1 := []
  tiles0 := 0
  tiles1 := 0
  oboe := 0
  grants := []
  gate := []
  replay0 := 0
  replay1 := 0

def resAt (s : State) (n : Nat) : FrameRes := mgetD s.adm.res n FrameRes.empty

def updRes (s : State) (n : Nat) (f : FrameRes → FrameRes) : State :=
  { s with adm := { s.adm with res := mupd s.adm.res n FrameRes.empty f } }

/-- Chunk-times of slice i still unreserved in frame n. -/
def chunksLeft (s : State) (i n : Nat) : Nat := sliceBudget s i n - mgetD (resAt s n).chunks i 0

/-- Ordinary-read grants of 64 bytes a slice may still give in frame n (R42, R707): one is left for table reads in a base
interval with index mod 16 = 0. -/
def grantsLeft (s : State) (i n : Nat) : Nat :=
  if sliceOut s i n then 0
  else
    let b := bintOf s.time n
    let lim := fun b => if b % 16 = 15 then 6 else if b % 16 = 0 then 15 else 16
    let cap := if s.time.len = 0 then if b.1 % 16 = 0 ∧ !b.2 then 7 else 8
      else ((List.range (bintsPerFrame s.time.len)).map (fun j => lim (b.1 + j))).sum
    cap - mgetD (resAt s n).grants i 0

/-! ## What a candidate needs, and its plan (R58, R59) -/

/-- The needs of a candidate in every class: service chunks, carry bytes and image per slice; ordinary write bytes per
slice; ordinary reads (R334) per slice; sequence chunk-times per slice; merge-core cycles of the attend part and of the
fold part per hub (R390); compressor tiles per hub in the frame after completion; tiles that no seal has reserved, each hub's with
those that write-back takes before (R252, R325); search slots; NAND units; protected packets of its connection, and for outputs the chunk-time of each sequence after which they are ready (R186). -/
structure Need where
  part : Nat
  node : Bool
  chunks : SMap Nat
  carry : SMap Nat
  image : Option Nat
  ord : SMap Nat
  reads : SMap Nat
  seqs : List (Nat × Nat)
  att0 : Nat
  att1 : Nat
  fold0 : Nat
  fold1 : Nat
  tiles0 : Nat
  tiles1 : Nat
  lr : List (Nat × Nat × Nat)
  search : Nat
  nand : Nat
  conn : Nat
  packets : Nat
  outAt : Nat
  deriving DecidableEq, Repr

def Need.zero (part : Nat) : Need where
  part := part
  node := false
  chunks := []
  carry := []
  image := none
  ord := []
  reads := []
  seqs := []
  att0 := 0
  att1 := 0
  fold0 := 0
  fold1 := 0
  tiles0 := 0
  tiles1 := 0
  lr := []
  search := 0
  nand := 0
  conn := mailboxConn
  packets := 0
  outAt := 0

/-- Does the plan's partition own frame n (R518, R521)? Node jobs are admitted in every frame. -/
abbrev Owns := Nat → Bool

/-- Earliest-first reservation of `need` chunk-times of slice i over frames from n, `fuel` frames at most: the frames
used with their chunks, or none when they do not cover it. -/
def takeChunks (s : State) (owns : Owns) (fuel i n need : Nat) : Option (List (Nat × Nat)) :=
  match fuel with
  | 0 => if need = 0 then some [] else none
  | f + 1 =>
    if need = 0 then some []
    else
      let a := min need (if owns n then chunksLeft s i n else 0)
      match takeChunks s owns f i (n + 1) (need - a) with
      | none => none
      | some r => some (if a = 0 then r else (n, a) :: r)

/-- The fewest frames from n, up to 64, whose empty budgets would cover every slice's need (R58). -/
def emptyCovers (s : State) (owns : Owns) (chunks : SMap Nat) (n : Nat) : Bool :=
  chunks.all (fun e => decide (e.2 ≤ ((List.range 64).map (fun j => if owns (n + j) then emptyBudget s e.1 (n + j) else 0)).sum))

/-- Carry space and images of one slice in one frame can take the candidate (R142, R306). -/
def carryFits (s : State) (nd : Need) (i n : Nat) : Bool :=
  decide (mgetD (resAt s n).carry i 0 + mgetD nd.carry i 0 ≤ 196608) &&
  (match nd.image with
   | none => true
   | some g => let xs := mgetD (resAt s n).images i []; xs.contains g || decide (xs.length < 4))

/-- A plan: first frame, service frame, completion frame, chunk-times by frame and slice, sequences with their slice and
hold, ordinary ends, reads by frame and slice, and unreserved compressor tiles by frame and hub. -/
structure PlanOut where
  start : Nat
  service : Nat
  cframe : Nat
  out : Nat
  chunks : List (Nat × Nat × Nat)
  seqs : List (Nat × SeqHold × List (Nat × Nat))
  ordEnds : List (Nat × Nat × Nat)
  reads : List (Nat × Nat × Nat)
  readCredit : SMap Nat
  lr : List (Nat × Nat × Nat)
  deriving DecidableEq, Repr

/-- Plan the service chunks of R58: the smallest span that covers every slice. -/
def planChunks (s : State) (owns : Owns) (nd : Need) (n : Nat) : Option (List (Nat × Nat × Nat) × Nat) :=
  nd.chunks.foldl (fun o e =>
    match o with
    | none => none
    | some (acc, last) =>
      match takeChunks s owns 64 e.1 n e.2 with
      | none => none
      | some us =>
        some (acc ++ us.map (fun u => (u.1, e.1, u.2)), us.foldl (fun m u => max m u.1) last))
    (some ([], n))

/-- What is reserved on slice i stays within its budget in every frame that a hold meets, or whose owed refreshes are repaid
after it, once the hold stands (R59, R64, R67). -/
def seqFits (s : State) (i : Nat) (q : SeqHold) : Bool :=
  let t := updSlice s i (fun x => { x with seqs := x.seqs ++ [q] })
  let f0 := frameOf s.time q.first - b2n (s.time.len == 0)
  let f1 := frameOf s.time (q.last + 5)
  (List.range (f1 + 1 - f0)).all (fun j =>
    let r := mgetD (resAt s (f0 + j)).chunks i 0
    r == 0 || decide (f0 + j ≤ s.time.frame) || decide (r ≤ sliceBudget t i (f0 + j)))

/-- No other sequence holds slice i in base intervals b0 to b1. -/
def seqFree (s : State) (i b0 b1 : Nat) : Bool :=
  (sliceAt s i).seqs.all (fun q => decide (b1 < q.first) || decide (q.last < b0))

/-- Plan one long sequence of k chunk-times on slice i from base interval b0 (R64, R68): no other sequence in any of its
base intervals, and what is reserved already still fits. -/
def planFirstSeq (s : State) (owner i b0 k : Nat) : Option (SeqHold × List (Nat × Nat)) :=
  match planSeq 4096 s.time.len (fun b => modeAt s (stackOf i) b) (mergedSlots s i) b0 k (owedAt s i b0) [] with
  | none => none
  | some (uses, free, debt) =>
    let q : SeqHold := ⟨owner, b0, (uses.head?.getD (b0, 0)).1, free, debt, k⟩
    if seqFree s i b0 q.last && seqFits s i q then some (q, uses.reverse) else none

/-- Plan a sequence that follows another of the same candidate on the same slice, from the base interval in which the one
before it ends, with the debt it leaves (R185), under the same conditions. `s` holds the sequence before it. -/
def planNextSeq (s : State) (owner i k : Nat) (q : SeqHold) : Option (SeqHold × List (Nat × Nat)) :=
  let r := if k ≤ q.lastFree then some ((⟨owner, q.last, q.last, q.lastFree - k, q.debt, k⟩ : SeqHold), [(q.last, k)])
    else
      match planSeq 4096 s.time.len (fun b => modeAt s (stackOf i) b) (mergedSlots s i) (q.last + 1) (k - q.lastFree) q.debt [] with
      | none => none
      | some (uses, free, debt) =>
        some (⟨owner, q.last, (uses.head?.getD (q.last, 0)).1, free, debt, k⟩, (q.last, q.lastFree) :: uses.reverse)
  match r with
  | none => none
  | some x => if seqFree s i (q.last + 1) x.1.last && seqFits s i x.1 then some x else none

/-- Plan the long sequences of a candidate from frame n, in order; each is at most 512 chunk-times (R64). At 1.024 µs a
sequence of a frame that is the second half of a base interval starts with the next base interval (DEDUCED, log 122). -/
def planSeqs (s : State) (owner n : Nat) (seqs : List (Nat × Nat)) :
    Option (List (Nat × SeqHold × List (Nat × Nat))) :=
  let b0 := let b := bintOf s.time n; if b.2 then b.1 + 1 else b.1
  (seqs.foldl (fun o e =>
    match o with
    | none => none
    | some (t, acc) =>
      if sliceOut t e.1 n || decide (512 < e.2) then none
      else
        let r := match (acc.filter (fun a => a.1 == e.1)).getLast? with
          | some a => planNextSeq t owner e.1 e.2 a.2.1
          | none => planFirstSeq t owner e.1 b0 e.2
        match r with
        | none => none
        | some x =>
          let f := frameOf s.time x.1.last
          if (List.range (f - n)).any (fun j => sliceOut t e.1 (n + 1 + j)) then none
          else some (updSlice t e.1 (fun y => { y with seqs := y.seqs ++ [x.1] }), acc ++ [(e.1, x.1, x.2)]))
    (some (s, []))).map (fun r => r.2)

/-- Where `q` bytes of ordinary writes admitted for frame n end in a slice's reserve windows (R331). -/
def ordFinish (len n : Nat) (e : Nat × Nat) (q : Nat) : Nat × Nat :=
  let c := creditPerFrame len
  let f := if e.1 < n then n else e.1
  let u := (if e.1 < n then 0 else e.2) + q
  let k := ceilDiv u c - 1
  (f + k, u - k * c)

/-- A slice's credit admits q bytes (R49). -/
def creditAdmits (credit : Int) (q : Nat) : Bool :=
  decide ((q : Int) ≤ credit) || (decide (8192 < q) && decide (8192 ≤ credit))

/-- A slice's reserve credit now: what it had and what every frame start has given since, up to 8 KiB (R49). -/
def sliceCredit (s : State) (i : Nat) : Int :=
  let x := sliceAt s i
  min 8192 (x.credit + ((s.adm.gained - x.creditAt : Nat) : Int))

/-- Spend reserve credit of a slice. -/
def spendCredit (s : State) (i n : Nat) : State :=
  let c := sliceCredit s i
  updSlice s i (fun x => { x with credit := c - (n : Int), creditAt := s.adm.gained })

/-- Grants first and earlier frames first, then credit, up to 64 frames (R334). -/
def takeGrants (s : State) (fuel i n need : Nat) (acc : List (Nat × Nat × Nat)) : Nat × List (Nat × Nat × Nat) :=
  match fuel with
  | 0 => (need, acc)
  | f + 1 =>
    let g := min (ceilDiv need 64) (grantsLeft s i n)
    takeGrants s f i (n + 1) (need - 64 * g) (if g = 0 then acc else acc ++ [(n, i, g)])

/-- The fewest frames whose grants with the slice's credit cover a read's need on every slice; grants, credit used. -/
def planReads (s : State) (fuel : Nat) (reads : SMap Nat) (n span : Nat) :
    Option (List (Nat × Nat × Nat) × SMap Nat × Nat) :=
  match fuel with
  | 0 => none
  | f + 1 =>
    let r := reads.map (fun e => (e.1, takeGrants s span e.1 n e.2 []))
    if r.all (fun e => creditAdmits (sliceCredit s e.1) e.2.1 || e.2.1 == 0) then
      some (r.flatMap (fun e => e.2.2), r.map (fun e => (e.1, e.2.1)), n + span - 1)
    else planReads s f reads n (span + 1)

/-- The base interval in which chunk-time p of a sequence's uses ends (R186). -/
def usesEnd (uses : List (Nat × Nat)) (p : Nat) (last : Nat) : Nat :=
  match uses with
  | [] => last
  | u :: r => if p ≤ u.2 then u.1 else usesEnd r (p - u.2) last

/-- Carry space and program images of a plan, held in every frame of its span on every slice (R142, R306). -/
def carryOk (s : State) (nd : Need) (p : PlanOut) : Bool :=
  nd.carry.all (fun e => (List.range (p.service + 1 - p.start)).all (fun j => carryFits s nd e.1 (p.start + j)))

/-- Compressor tiles of a hub from frame n on that no seal has reserved, behind `ahead` tiles of write-back (R252, R325), over at most
`fuel` frames; none when they do not cover the need. A decoding that does not fit one frame goes on in the next (DEDUCED, log 147). -/
def planLr (s : State) (fuel hub n need ahead : Nat) : Option (List (Nat × Nat × Nat)) :=
  match fuel with
  | 0 => if need = 0 then some [] else none
  | f + 1 =>
    if need = 0 then some []
    else
      let r := resAt s n
      let room := tilesPerFrame (lenAt s n) - (if hub = 1 then r.tiles1 else r.tiles0)
      let a := min need (room - ahead)
      match planLr s f hub (n + 1) (need - a) (ahead - room) with
      | none => none
      | some l => some (if a = 0 then l else (n, hub, a) :: l)

/-- The same for every hub of a need. -/
def planLrs (s : State) (nd : Need) (n : Nat) : Option (List (Nat × Nat × Nat)) :=
  nd.lr.foldr (fun e acc => match acc, planLr s 64 e.1 n e.2.1 e.2.2 with
    | some l, some m => some (m ++ l)
    | _, _ => none) (some [])

/-- Plan a candidate for frame n in every class that has a place in time. -/
def planNeed (s : State) (owns : Owns) (owner : Nat) (nd : Need) (n : Nat) : Option PlanOut :=
  match planChunks s owns nd n, planSeqs s owner n nd.seqs, (if nd.reads.isEmpty then some ([], [], n) else planReads s 64 nd.reads n 1),
      planLrs s nd n with
  | some (cs, last), some qs, some (rs, rc, rlast), some lr =>
    let ends := nd.ord.map (fun e => (e.1, ordFinish s.time.len n (sliceAt s e.1).ordEnd e.2))
    let credOk := nd.ord.all (fun e => !sliceOut s e.1 n && creditAdmits (sliceCredit s e.1) e.2)
    if credOk && nd.chunks.all (fun e => !sliceOut s e.1 n) then
      let sq := qs.foldl (fun m q => max m (frameOf s.time q.2.1.last)) n
      let oe := ends.foldl (fun m e => max m e.2.1) n
      let sv := max (max last (max sq (max oe rlast))) (lr.foldl (fun m e => max m e.1) n)
      let out := if nd.outAt = 0 then sv
        else qs.foldl (fun m q => max m (frameOf s.time (usesEnd q.2.2 nd.outAt q.2.1.last))) n
      some
        { start := n, service := sv, cframe := sv, out := out, chunks := cs, seqs := qs, ordEnds := ends.map (fun e => (e.1, e.2.1, e.2.2)), reads := rs, readCredit := rc, lr := lr }
    else none
  | _, _, _, _ => none

/-! ## Energy (R51, R391) and merge-core charges (R390) -/

/-- Energy units a quantity costs: whole units of its class (Table 10-13). -/
def unitsOf (q unit charge : Nat) : Nat := ceilDiv q unit * charge

/-- Energy by frame of a plan. -/
def energyList (s : State) (nd : Need) (p : PlanOut) : List (Nat × Nat) :=
  let coef := s.adm.sampled.2.2
  let ch := p.chunks.map (fun e => (e.1, e.2.2 * coef))
  let sq := p.seqs.flatMap (fun q => q.2.2.map (fun u => (frameOf s.time u.1, u.2 * coef)))
  let ord := fun (f : Nat) => (if f = p.start then (nd.ord.map (fun e => e.2)).sum + (p.readCredit.map (fun e => e.2)).sum else 0) +
    64 * ((p.reads.filter (fun e => e.1 == f)).map (fun e => e.2.2)).sum
  let od := (p.start :: p.reads.map (fun e => e.1)).eraseDups.map (fun f => (f, unitsOf (ord f) 512 3))
  let at' := unitsOf (nd.att0 + nd.att1) 1024 3
  let fo := unitsOf (nd.fold0 + nd.fold1) 1024 3
  let ti := unitsOf (nd.tiles0 + nd.tiles1) 8 1
  ch ++ sq ++ od ++ [(p.start, unitsOf nd.search 64 1 + nd.nand * 1024), (p.service, at'), (p.service + 1, fo),
    (p.cframe + 1, ti)] ++ p.lr.map (fun e => (e.1, unitsOf e.2.2 8 1))

/-- Energy a candidate would add in frame f. -/
def energyIn (es : List (Nat × Nat)) (f : Nat) : Nat := ((es.filter (fun e => e.1 == f)).map (fun e => e.2)).sum

/-- Units the cap leaves for admission in a frame: (CAP − BASE) × 1,024 (R51, R52). -/
def energyRoom (s : State) : Nat := (s.adm.sampled.2.1 - s.adm.sampled.1) * 1024

/-- Half-cycles of merge-core time admission may reserve on a hub in a frame (R389, R390, R313). -/
def mergeRoom (s : State) (f : Nat) : Nat := 2 * 4080 * mergeCycles (lenAt s f)

/-- Partition k's part of a budget in the first pass (R54); node jobs are not held to a share (DEDUCED, log 120). -/
def shareOf (s : State) (pending : List Nat) (k room : Nat) : Nat :=
  let sum := (pending.map (fun j => (partAt s j).share)).sum
  if sum = 0 then 0 else room * (partAt s k).share / sum

/-! ## The protected gate (R488–R490) -/

/-- Board position that board link k of position b is wired to (R661). -/
def linkPeer (b k : Nat) : Nat := if k = 3 then b ^^^ 1 else b ^^^ (k + 1)

/-- Live pairs of a connection: local port and index of the peer address, in R455's order. A connection between two
members of a board group uses only the links that join them (R416, R663): a member's address there is fe80::1:b. -/
def pairList (s : State) (c : Conn) : List (Nat × Nat) :=
  let ports := if c.onBoard then
      ((List.range 4).filter (fun k => linkPeer s.hw.pos k == c.peerAddrs.headD 0 % 65536)).map (fun k => 16 + k)
    else if c.mgmt then [20] else List.range 16
  let live := ports.filter (fun p => portPresent s p && (portAt s p).up)
  let addrs := (List.range c.peerAddrs.length).filter (fun i => bit c.peerLive i)
  (live.flatMap (fun p => addrs.map (fun a => (p, a)))).filter (fun e => !mhas c.pairBad (e.1 * 16 + e.2))

/-- Charged length of a packet with a payload (R482): 138 bytes of headers, tag and check, plus OVERHEAD. -/
def chargedLen (ov payload : Nat) : Nat := (((138 + payload : Nat) : Int) + sext 8 ov).toNat

/-- The capacity of a port in a gate (R489). -/
def gateCapacity (s : State) (f p : Nat) : Nat :=
  let x := portAt s p
  if x.up then gateTenths (lenAt s f) * 25 * x.lanes * s.eg.protShare / 160 else 0

/-- The reserved load of a port in the gate of frame f (R490). -/
def gateLoad (s : State) (gate : SMap Nat) (p : Nat) : Nat :=
  (gate.map (fun e =>
    match mget s.conns e.1 with
    | none => 0
    | some c =>
      let pl := pairList s c
      let pc := (pl.filter (fun x => x.1 == p)).length
      if pc = 0 then 0
      else (ceilDiv (e.2 * pc) pl.length + pc) * chargedLen (portAt s p).overhead c.mps)).sum

/-- The gate of frame f can take `k` more protected packets of a connection. -/
def gateFits (s : State) (f conn k : Nat) : Bool :=
  if k = 0 then true
  else
    let g := mupd (resAt s f).gate conn 0 (fun x => x + k)
    (List.range 20).all (fun p => decide (gateLoad s g p ≤ gateCapacity s f p) || decide (gateLoad s g p = 0))

/-! ## Fit and reserve (R59, R61) -/

/-- A candidate's energy and merge-core time stay within the caps in every frame, and within its share in pass 1. -/
def withinCaps (s : State) (pending : List Nat) (pass : Nat) (nd : Need) (p : PlanOut) : Bool :=
  let es := energyList s nd p
  let frames := es.map (fun e => e.1)
  let room := energyRoom s
  let shared := pass == 1 && !nd.node
  frames.all (fun f =>
    let e := energyIn es f
    e == 0 || (decide ((resAt s f).energy + e ≤ room) &&
      (!shared || decide (mgetD (resAt s f).pEnergy nd.part 0 + e ≤ shareOf s pending nd.part room)))) &&
  [(p.service, 2 * nd.att0, 2 * nd.att1), (p.service + 1, 5 * nd.fold0, 5 * nd.fold1)].all (fun m =>
    let r := resAt s m.1
    let mroom := mergeRoom s m.1
    (m.2.1 == 0 || (decide (r.merge0 + m.2.1 ≤ mroom) &&
      (!shared || decide (mgetD r.pMerge0 nd.part 0 + m.2.1 ≤ shareOf s pending nd.part mroom)))) &&
    (m.2.2 == 0 || (decide (r.merge1 + m.2.2 ≤ mroom) &&
      (!shared || decide (mgetD r.pMerge1 nd.part 0 + m.2.2 ≤ shareOf s pending nd.part mroom)))))

/-- The span keeps one layout; carry, compressor tiles, search slots and gate packets fit (R32, R142, R222, R251, R490). -/
def otherFits (s : State) (searchSlots : Nat) (nd : Need) (p : PlanOut) : Bool :=
  let r := resAt s (p.cframe + 1)
  let tiles := tilesPerFrame (lenAt s (p.cframe + 1))
  spanWhole s p.start (max p.cframe p.out) && carryOk s nd p && decide (r.tiles0 + nd.tiles0 ≤ tiles) && decide (r.tiles1 + nd.tiles1 ≤ tiles) &&
  decide ((resAt s p.start).oboe + nd.search ≤ searchSlots) && gateFits s (p.out + 1) nd.conn nd.packets

/-- Reserve chunk-times of a slice in a frame. -/
def addChunks (s : State) (f i k : Nat) : State :=
  updRes s f (fun r => { r with chunks := mupd r.chunks i 0 (fun x => x + k) })

/-- Reserve a plan in every class (R59), with its meters 0–3 and 5 (R543). What a node job reserves counts against its
partition's share in the first pass (DEDUCED, log 120). -/
def reserve (s : State) (nd : Need) (p : PlanOut) : State :=
  let s := forAll s p.chunks (fun s e => addChunks s e.1 e.2.1 e.2.2)
  let s := forAll s nd.carry (fun s e => forAll s (List.range (p.service + 1 - p.start)) (fun s j =>
    updRes s (p.start + j) (fun r =>
      { r with
        carry := mupd r.carry e.1 0 (fun x => x + e.2)
        images := match nd.image with
          | none => r.images
          | some g => mupd r.images e.1 [] (fun xs => if xs.contains g then xs else xs ++ [g]) })))
  let s := forAll s p.seqs (fun s q => updSlice s q.1 (fun x => { x with seqs := x.seqs ++ [q.2.1] }))
  let s := forAll s p.ordEnds (fun s e => updSlice s e.1 (fun x => { x with ordEnd := (e.2.1, e.2.2) }))
  let s := forAll s nd.ord (fun s e => spendCredit s e.1 e.2)
  let s := forAll s p.readCredit (fun s e => spendCredit s e.1 e.2)
  let s := forAll s p.reads (fun s e =>
    updRes s e.1 (fun r => { r with grants := mupd r.grants e.2.1 0 (fun x => x + e.2.2) }))
  let es := energyList s nd p
  let s := forAll s es (fun s e => updRes s e.1 (fun r =>
    { r with energy := r.energy + e.2, pEnergy := mupd r.pEnergy nd.part 0 (fun x => x + e.2) }))
  let s := updRes s p.service (fun r =>
    { r with
      merge0 := r.merge0 + 2 * nd.att0
      merge1 := r.merge1 + 2 * nd.att1
      pMerge0 := mupd r.pMerge0 nd.part 0 (fun x => x + 2 * nd.att0)
      pMerge1 := mupd r.pMerge1 nd.part 0 (fun x => x + 2 * nd.att1) })
  let s := updRes s (p.service + 1) (fun r =>
    { r with
      merge0 := r.merge0 + 5 * nd.fold0
      merge1 := r.merge1 + 5 * nd.fold1
      pMerge0 := mupd r.pMerge0 nd.part 0 (fun x => x + 5 * nd.fold0)
      pMerge1 := mupd r.pMerge1 nd.part 0 (fun x => x + 5 * nd.fold1) })
  let s := updRes s (p.out + 1) (fun r =>
    { r with gate := if nd.packets = 0 then r.gate else mupd r.gate nd.conn 0 (fun x => x + nd.packets) })
  let s := updRes s (p.cframe + 1) (fun r => { r with tiles0 := r.tiles0 + nd.tiles0, tiles1 := r.tiles1 + nd.tiles1 })
  let s := forAll s p.lr (fun s e => updRes s e.1 (fun r =>
    if e.2.1 = 1 then { r with tiles1 := r.tiles1 + e.2.2 } else { r with tiles0 := r.tiles0 + e.2.2 }))
  let s := updRes s p.start (fun r => { r with oboe := r.oboe + nd.search })
  let ct := (p.chunks.map (fun e => e.2.2)).sum + (nd.seqs.map (fun e => e.2)).sum
  let s := meter s nd.part 0 ct
  let s := meter s nd.part 1 ((nd.ord.map (fun e => e.2)).sum + (nd.reads.map (fun e => e.2)).sum)
  let s := meter s nd.part 2 (nd.att0 + nd.att1 + nd.fold0 + nd.fold1)
  let s := meter s nd.part 3 (nd.tiles0 + nd.tiles1 + (p.lr.map (fun e => e.2.2)).sum)
  meter s nd.part 5 ((es.map (fun e => e.2)).sum)

end Sys2Proof.Machine
end

