-- ==== Sys2Proof/Machine/Protect.lean ====
section
/-!
DEFINITION. How a sector is protected in the stacks: its address, metadata and tweak (R555, R556, R261), ciphertext, tag and
check symbols (R260, R262, R557), the checks of a read (R259, R262, R263), and the sectors of a slice's tables with the
integrity tree over them (R107, R559–R561).
-/

namespace Sys2Proof.Machine

/-! ## GF(2^10) (R262) -/

/-- Twice a field element: x^10 is x^3 + 1. -/
def gfDouble (a : Nat) : Nat := if 2 * a < 1024 then 2 * a else Nat.xor (2 * a) 0x409

/-- Product, by the bits of b from the lowest. -/
def gfMulFrom (fuel a b acc : Nat) : Nat :=
  match fuel with
  | 0 => acc
  | f + 1 => gfMulFrom f (gfDouble a) (b / 2) (if b % 2 = 1 then Nat.xor acc a else acc)

def gfMul (a b : Nat) : Nat := gfMulFrom 10 a b 0

/-- Power, by the bits of the exponent from the lowest. -/
def gfPowFrom (fuel a e acc : Nat) : Nat :=
  match fuel with
  | 0 => acc
  | f + 1 => gfPowFrom f (gfMul a a) (e / 2) (if e % 2 = 1 then gfMul acc a else acc)

def gfPow (a e : Nat) : Nat := gfPowFrom 10 a (e % 1023) 1

/-- α^e for the root α of the field polynomial. -/
def alphaPow (e : Nat) : Nat := gfPow 2 e

def gfInv (a : Nat) : Nat := gfPow a 1022

/-- Value of a polynomial, lowest coefficient first, at a point. -/
def polyAt (p : List Nat) (x : Nat) : Nat := p.foldr (fun c acc => Nat.xor c (gfMul x acc)) 0

/-- Sum of two polynomials. -/
def polyAdd (p q : List Nat) : List Nat :=
  (List.range (max p.length q.length)).map (fun i => Nat.xor (p.getD i 0) (q.getD i 0))

/-- A polynomial times c x^m. -/
def polyShift (p : List Nat) (c m : Nat) : List Nat := List.replicate m 0 ++ p.map (gfMul c)

def polyMul (p q : List Nat) : List Nat := p.zipIdx.foldl (fun acc e => polyAdd acc (polyShift q e.1 e.2)) []

/-! ## The Reed–Solomon code (R262) -/

/-- The generator, lowest coefficient first. -/
def rsGen : List Nat := (List.range 38).foldl (fun g i => polyMul g [alphaPow i, 1]) [1]

/-- Check symbols of information symbols: the remainder of the division by the generator. The first information symbol is
the highest coefficient, and check symbol 0 that of x^37 (DEDUCED, log 136). -/
def rsCheck (info : List Nat) : List Nat :=
  let g := (rsGen.take 38).reverse
  info.foldl (fun acc x =>
    let fb := Nat.xor x (acc.headD 0)
    (List.range 38).map (fun i => Nat.xor (acc.getD (i + 1) 0) (gfMul fb (g.getD i 0)))) (List.replicate 38 0)

/-- Coefficient a symbol of a sector's 566 stands for. -/
def rsDegree (pos : Nat) : Nat := 565 - pos

/-- Syndromes of an error pattern: positions with what was added to them. A code word has none. -/
def syndromes (errs : SMap Nat) : List Nat :=
  (List.range 38).map (fun i => errs.foldl (fun acc e => Nat.xor acc (gfMul e.2 (alphaPow (i * rsDegree e.1)))) 0)

/-- A step of Berlekamp and Massey's search for the error locator. -/
structure Massey where
  c : List Nat
  b : List Nat
  len : Nat
  gap : Nat
  last : Nat
  deriving DecidableEq, Repr

def masseyStep (ss : List Nat) (x : Massey) (n : Nat) : Massey :=
  let d := (List.range (x.len + 1)).foldl (fun acc i => Nat.xor acc (gfMul (x.c.getD i 0) (ss.getD (n - i) 0))) 0
  if d = 0 then { x with gap := x.gap + 1 }
  else
    let c := polyAdd x.c (polyShift x.b (gfMul d (gfInv x.last)) x.gap)
    if 2 * x.len ≤ n then ⟨c, x.c, n + 1 - x.len, 1, d⟩ else { x with c := c, gap := x.gap + 1 }

/-- The errors the decoder finds, at most 16; none when it finds no such pattern. -/
def rsErrors (errs : SMap Nat) : Option (SMap Nat) :=
  let ss := syndromes errs
  if ss.all (fun x => x == 0) then some []
  else
    let r := (List.range 38).foldl (masseyStep ss) ⟨[1], [1], 0, 1, 1⟩
    let at' := fun (pos : Nat) => alphaPow (1023 - rsDegree pos)
    let ps := (List.range 566).filter (fun pos => polyAt r.c (at' pos) == 0)
    if 16 < r.len || ps.length != r.len then none
    else
      let om := (polyMul ss r.c).take 38
      let dc := r.c.zipIdx.drop 1 |>.map (fun e => if e.2 % 2 = 1 then e.1 else 0)
      some (ps.map (fun pos =>
        (pos, gfMul (alphaPow (rsDegree pos)) (gfMul (polyAt om (at' pos)) (gfInv (polyAt dc (at' pos)))))))

/-- Two error patterns over one another. -/
def addErrors (m : SMap Nat) (es : List (Nat × Nat)) : SMap Nat :=
  mfilter (es.foldl (fun m e => mupd m (e.1 % 566) 0 (fun x => Nat.xor x (e.2 % 1024))) m) (fun _ x => x != 0)

/-- What is left of an error pattern after correction: none when the decoder reports it uncorrectable, which it does too
when an information symbol would exceed 0xFF. The code is linear: only the error pattern counts. -/
def rsDecode (es : List (Nat × Nat)) : Option (SMap Nat) :=
  let m := addErrors [] es
  match rsErrors m with
  | none => none
  | some fix =>
    let r := addErrors m fix
    if r.any (fun e => decide (e.1 < 528) && decide (0xFF < e.2)) then none else some r

/-! ## Sector address, tweak and metadata (R555, R556, R261) -/

/-- R555. -/
def psaOf (i chunk sector : Nat) : Nat := packFields [(18, 15, i), (3, 15, chunk), (0, 3, sector)]

/-- Object kinds of Table 7-8. -/
def kCoded : Nat := 1
def kRaw : Nat := 2
def kRows : Nat := 3
def kSummary : Nat := 4
def kState : Nat := 5
def kTable : Nat := 6

/-- The metadata word (Table 7-8). -/
def metaWord (kind sector fmtVer fmt dcode : Nat) (last : Bool) (version : Nat) : Nat :=
  packFields [(56, 8, kind), (48, 8, sector), (40, 8, fmtVer), (36, 4, fmt), (33, 3, dcode), (32, 1, b2n last), (0, 32, version)]

def sectorKind (y : Sector) : Nat := bits y.info 63 56
def sectorVersion (y : Sector) : Nat := bits y.info 31 0

/-- The tweak of a sector (R556). -/
def tweakOf (psa kind version : Nat) : Nat := packFields [(0, 33, psa), (56, 8, kind), (64, 32, version)]

/-- A sector as a bank unit forms it (R266): bound to its key, its own address and its metadata. -/
def formSector (i key chunk sector info : Nat) (data : Bytes) : Sector :=
  ⟨key, tweakOf (psaOf i chunk sector) (bits info 63 56) (bits info 31 0), psaOf i chunk sector, info, fitTo 512 data⟩

/-! ## The stored image (Table 7-6) -/

/-- Ciphertext (R556). -/
def sectorCipher (y : Sector) : Bytes := fitTo 512 (Config.aesXts y.key y.tweak y.plain)

/-- Tag: the leftmost 64 bits of the CMAC over address, metadata and ciphertext (R557). -/
def sectorTag (y : Sector) : Bytes :=
  fitTo 8 (Config.aesCmac y.key (leBytes 8 y.addr ++ leBytes 8 y.info ++ sectorCipher y))

/-- The 528 bytes the check symbols cover. -/
def sectorWords (y : Sector) : Bytes := sectorCipher y ++ sectorTag y ++ leBytes 8 y.info

/-- Check symbols, packed least significant bit first into 48 bytes with bits [383:380] zero. -/
def sectorChecks (y : Sector) : Bytes := leBytes 48 (packBits 10 (rsCheck ((sectorWords y).map (fun b => b.toNat))))

/-- The 576 bytes of a sector. -/
def sectorImage (y : Sector) : Bytes := sectorWords y ++ sectorChecks y

/-! ## What a read returns (R259, R262–R264, R557) -/

/-- What an object's sectors must show: kind, version, format version, format and dimension code. -/
structure ObjId where
  kind : Nat
  version : Nat
  fmtVer : Nat
  fmt : Nat
  dcode : Nat
  deriving DecidableEq, Repr

/-- Kinds 0x01 and 0x02 are both a sealed page's: which of the two it is, the expander checks (R246). -/
def kindFits (want got : Nat) : Bool := want == got || ((want == kCoded || want == kRaw) && (got == kCoded || got == kRaw))

/-- R263 and the tag (R557): a sector serves the object at its place, under the key of the partition that reads it (R571).
The version expected of kinds 0x04 and 0x06 is the sector's own (R561). -/
def sectorOk (y : Sector) (i key chunk sector idx : Nat) (o : ObjId) : Bool :=
  y.key == key && y.addr == psaOf i chunk sector && y.tweak == tweakOf y.addr (sectorKind y) (sectorVersion y) &&
  kindFits o.kind (sectorKind y) && bits y.info 55 48 == idx % 256 && bits y.info 47 40 == o.fmtVer &&
  bits y.info 39 36 == o.fmt && bits y.info 35 33 == o.dcode &&
  (o.kind == kSummary || o.kind == kTable || sectorVersion y == o.version)

/-- A sector off the stack, after correction, with whether any symbol was corrected; else the cause of Table 15-1. A place
never written and a miscorrection fail the tag (R262; PRESUMED of the symbolic tag, log 116). -/
def dramReturns (f : DramFault) (stored : Option Sector) : Except Nat (Sector × Bool) :=
  match f, stored with
  | .none, some y => .ok (y, false)
  | .flips es, some y =>
    match rsDecode es with
    | none => .error 0x02
    | some r => if r.isEmpty then .ok (y, !(addErrors [] es).isEmpty) else .error 0x03
  | .replaced z, _ => .ok (z, false)
  | _, none => .error 0x03

/-- The check path of a bank unit (R259): sector `sector` of a chunk, read as sector `idx` of an object. -/
def checkSector (x : Slice) (i key chunk sector idx : Nat) (o : ObjId) (f : DramFault) : Except Nat (Sector × Bool) :=
  match dramReturns f (mget x.sectors (8 * chunk + sector)) with
  | .error e => .error e
  | .ok y => if sectorOk y.1 i key chunk sector idx o then .ok y else .error 0x03

/-- Sector j of an object as stored, when nothing disturbs the read. -/
def readSector (x : Slice) (i key chunk : Nat) (o : ObjId) (j : Nat) : Option Sector :=
  match checkSector x i key (chunk + j / 8) (j % 8) j o .none with
  | .ok y => some y.1
  | .error _ => none

/-! ## The slice's tables and the integrity tree (R107, R108, R559–R561) -/

/-- First chunk of the slice table, and sectors of the table and of the directory behind it. -/
def tableChunk : Nat := 24416
def tableSectors : Nat := 768
def dirSectors : Nat := 512

/-- A page entry (Table 3-10). -/
def pageWord (e : PageEnt) : Nat :=
  packFields [(0, 15, e.chunk), (15, 5, e.nchunk), (20, 2, e.form), (22, 15, e.sumChunk), (37, 8, e.sumOff), (45, 15, e.next),
    (60, 18, e.page), (78, 1, b2n e.openT0), (96, 32, e.version)]

/-- A stream directory entry (Table 3-11). -/
def dirWord (e : DirEnt) : Nat := packFields [(0, 21, e.stream), (21, 15, e.first), (36, 15, e.last), (51, 19, e.count)]

/-- The contents of sector t of the reserved chunks; a free entry is all zeros (DEDUCED, log 137). -/
def tablePlain (x : Slice) (t : Nat) : Bytes :=
  (List.range 32).flatMap (fun j =>
    if t < tableSectors then
      match mget x.ents (32 * t + j) with
      | some e => leBytes 16 (pageWord e)
      | none => zeros 16
    else
      match mget x.dir (32 * (t - tableSectors) + j) with
      | some d => leBytes 16 (dirWord d)
      | none => zeros 16)

/-- Sector index of sector t in its object: the table, or the directory. -/
def tableIdx (t : Nat) : Nat := if t < tableSectors then t else t - tableSectors

/-- Sector t of a slice's reserved chunks as it is stored: kind 0x06 under K_sys, its version 1 from the format at spring and
one more with every write (R559). -/
def tableSector (x : Slice) (i key t : Nat) : Sector :=
  formSector i key (tableChunk + t / 8) (t % 8)
    (metaWord kTable (tableIdx t % 256) 0 0 0 (t + 1 == tableSectors || t + 1 == tableSectors + dirSectors) (mgetD x.metaVers t 1))
    (tablePlain x t)

/-- A node over tags, in order (R560). -/
def nodeOf (key : Nat) (tags : List Bytes) : Nat := leNat (fitTo 8 (Config.aesCmac key (tags.flatMap (fun t => t))))

/-- Tags of the eight sectors of reserved chunk c. -/
def chunkTags (x : Slice) (i key c : Nat) : List Bytes := (List.range 8).map (fun q => sectorTag (tableSector x i key (8 * c + q)))

/-- The stored node of reserved chunk c: that of the formatted tables until a write. -/
def chunkNode (x : Slice) (i key c : Nat) : Nat := mgetD x.tree c (nodeOf key (chunkTags Slice.reset i key c))

/-- Count a write of the table sectors in which two states of a slice differ: each takes the next version (R559), and its
chunk node and the slice root follow (R560). -/
def metaSync (i key : Nat) (old new : Slice) : Slice :=
  let diff := fun {α : Type} [DecidableEq α] (a b : SMap α) =>
    ((a ++ b).map (fun e => e.1)).eraseDups.filter (fun k => mget a k != mget b k)
  let secs := ((diff old.ents new.ents).map (fun k => k / 32) ++ (diff old.dir new.dir).map (fun k => tableSectors + k / 32)).eraseDups
  if secs.isEmpty then new
  else
    let y := { new with metaVers := secs.foldl (fun m c => mupd m c 1 (fun v => (v + 1) % 2 ^ 32)) old.metaVers }
    let y := { y with tree := (secs.map (fun c => c / 8)).eraseDups.foldl (fun t c => mset t c (nodeOf key (chunkTags y i key c))) old.tree }
    { y with tree := mset y.tree 160 (nodeOf key ((List.range 160).map (fun c => leBytes 8 (chunkNode y i key c)))) }

/-- A read of table sector t (R561): checked as any sector, and with the tags of the rest of its chunk against the stored
node; a node that differs counts as a tag failure. -/
def readTableSector (x : Slice) (i key t : Nat) (f : DramFault) : Except Nat (Sector × Bool) :=
  match dramReturns f (some (tableSector x i key t)) with
  | .error e => .error e
  | .ok y =>
    if sectorOk y.1 i key (tableChunk + t / 8) (t % 8) (tableIdx t) ⟨kTable, 0, 0, 0, 0⟩ &&
        nodeOf key ((chunkTags x i key (t / 8)).set (t % 8) (sectorTag y.1)) == chunkNode x i key (t / 8) then .ok y
    else .error 0x03

end Sys2Proof.Machine
end

