-- ==== Sys2Proof/Machine/Streams.lean ====
section
/-!
DEFINITION. The page manager (03_pages): stream entries, placement, the slice tables with their directory and chains,
summary records, chunk allocation, opening and freeing pages, and the changes that take effect at a frame start (R77,
R78).
-/

namespace Sys2Proof.Machine

/-! ## Stream entries (R74, R106) -/

def handleOf (hub idx : Nat) : Nat := hub * 2 ^ 20 + idx
def hubOfHandle (h : Nat) : Nat := h / 2 ^ 20
def idxOfHandle (h : Nat) : Nat := h % 2 ^ 20

def streamAt (s : State) (h : Nat) : Option Stream := mget (hubAt s (hubOfHandle h)).streams (idxOfHandle h)

def updStream (s : State) (h : Nat) (f : Stream → Stream) : State :=
  updHub s (hubOfHandle h) (fun x => { x with streams := mmod x.streams (idxOfHandle h) f })

/-- Every stream entry of the node with its handle. -/
def allStreams (s : State) : List (Nat × Stream) :=
  s.hub0.streams.map (fun e => (handleOf 0 e.1, e.2)) ++ s.hub1.streams.map (fun e => (handleOf 1 e.1, e.2))

/-- The handle of a named stream of a partition (R74, R366). -/
def lookupStream (s : State) (part ctx layer kvh : Nat) : Option Nat :=
  ((allStreams s).find? (fun e => e.2.part == part && e.2.ctx == ctx && e.2.layer == layer && e.2.kvh == kvh)).map
    (fun e => e.1)

/-- A recurrent state (R178). -/
def Stream.isState (x : Stream) : Bool := x.layout == 3

/-- Window in positions, 0 when the stream is not a ring stream. -/
def Stream.win (x : Stream) : Nat := 64 * x.window

/-- Raw chunk count r (Table 3-4). -/
def Stream.r (x : Stream) : Nat := rawChunks x.fmt x.dcode

/-- Chunks of one half of a state (R179), with its dimensions. -/
def Stream.dk (x : Stream) : Nat := if x.isState then 32 * (x.dcode + 1) else keyDim x.dcode
def Stream.dv (x : Stream) : Nat := if x.isState then 32 * (x.fmt + 1) else valDim x.dcode
def Stream.stateChunks (x : Stream) : Nat := x.dk * x.dv / 1024

/-- Pages the stream has: those its LENGTH reaches. -/
def Stream.pages (x : Stream) : Nat := if x.isState then ceilDiv x.stateChunks 8 else ceilDiv x.length 64

/-- First page a ring stream still holds (R79): pages p with 64(p + 1) ≤ LENGTH − W are freed. -/
def Stream.firstPage (x : Stream) : Nat := if x.window = 0 then 0 else (x.length - x.win) / 64

/-! ## Placement (R100–R104, R343) -/

/-- Slices of a partition's ranges, ascending. -/
def rangeSlices (rs : List (Nat × Nat)) : List Nat := rs.flatMap (fun r => (List.range r.2).map (fun j => r.1 + j))

/-- R100: interleave the per-stack lists, one rank at a time. -/
def interleave (fuel : Nat) (ls : List (List Nat)) : List Nat :=
  match fuel with
  | 0 => []
  | f + 1 =>
    let ls := ls.filter (fun l => !l.isEmpty)
    if ls.isEmpty then [] else ls.filterMap (fun l => l.head?) ++ interleave f (ls.map (fun l => l.drop 1))

/-- The interleaved slice list I of a set of ranges. -/
def sliceList (rs : List (Nat × Nat)) : List Nat :=
  let xs := rangeSlices rs
  interleave 1025 ((List.range 24).map (fun n => xs.filter (fun i => stackOf i == n)))

def partList (s : State) (k : Nat) : List Nat := sliceList (partAt s k).ranges

/-- R101 for a base and a width over a list I. -/
def placeOf (xs : List Nat) (base width p : Nat) : Nat :=
  if xs.isEmpty then 0 else xs.getD ((base + p % max 1 width) % xs.length) 0

/-- The migration record of a stream (R343). -/
def migOf (s : State) (h : Nat) : Option MigRec := mget (hubAt s (hubOfHandle h)).migs (idxOfHandle h)

/-- The home slice of page p of a stream (R101, R343). -/
def homeSlice (s : State) (h p : Nat) : Nat :=
  match streamAt s h with
  | none => 0
  | some x =>
    let xs := partList s x.part
    match migOf s h with
    | some m => if x.forkPages ≤ p ∧ p < m.doneTo then placeOf xs m.abase m.awidth p else placeOf xs x.base x.width p
    | none => placeOf xs x.base x.width p

/-- The stream page p resolves to (R114), at most 8 forks up. -/
def ownerOf (fuel : Nat) (s : State) (h p : Nat) : Nat :=
  match fuel with
  | 0 => h
  | f + 1 =>
    match streamAt s h with
    | none => h
    | some x => if p < x.forkPages && 0 < x.depth then ownerOf f s x.parent p else h

def owner (s : State) (h p : Nat) : Nat := ownerOf 9 s h p

/-! ## Slice tables (R107, R108) -/

def noEntry : Nat := 0x7FFF

/-- First bucket of a handle (R108). -/
def bucketOf (h : Nat) : Nat := (Nat.xor h (h >>> 12)) % 4096

/-- The 16 directory places a handle may take: 4 ways of 4 buckets. -/
def dirPlaces (h : Nat) : List Nat :=
  (List.range 4).flatMap (fun b => (List.range 4).map (fun w => 4 * ((bucketOf h + b) % 4096) + w))

/-- Where the directory entry of a stream lies in a slice. -/
def dirFind (x : Slice) (h : Nat) : Option (Nat × DirEnt) :=
  (dirPlaces h).findSome? (fun k => match mget x.dir k with
    | some d => if d.stream = h then some (k, d) else none
    | none => none)

/-- A free place for a new directory entry. -/
def dirFree (x : Slice) (h : Nat) : Option Nat := (dirPlaces h).find? (fun k => !mhas x.dir k)

/-- Walk a stream's chain for page p: the entry's index. -/
def chainFind (fuel : Nat) (x : Slice) (i p : Nat) : Option (Nat × PageEnt) :=
  match fuel with
  | 0 => none
  | f + 1 =>
    if i = noEntry then none
    else match mget x.ents i with
      | none => none
      | some e => if e.page = p then some (i, e) else chainFind f x e.next p

/-- The entries of a stream's chain, in order. -/
def chainList (fuel : Nat) (x : Slice) (i : Nat) : List (Nat × PageEnt) :=
  match fuel with
  | 0 => []
  | f + 1 =>
    if i = noEntry then []
    else match mget x.ents i with
      | none => []
      | some e => (i, e) :: chainList f x e.next

/-- The page entry of page p of stream h in a slice. -/
def entIn (x : Slice) (h p : Nat) : Option (Nat × PageEnt) :=
  match dirFind x h with
  | none => none
  | some d => chainFind (x.ents.length + 1) x d.2.first p

/-- The pages of a stream in a slice. -/
def entsIn (x : Slice) (h : Nat) : List (Nat × PageEnt) :=
  match dirFind x h with
  | none => []
  | some d => chainList (x.ents.length + 1) x d.2.first

/-- Rebuild the links of a stream's chain from a list of entry indices, ascending by page. -/
def relink (ents : SMap PageEnt) (xs : List (Nat × PageEnt)) : SMap PageEnt :=
  match xs with
  | [] => ents
  | [a] => mset ents a.1 { a.2 with next := noEntry }
  | a :: b :: r => relink (mset ents a.1 { a.2 with next := b.1 }) (b :: r)

/-- Insert by page into an ascending chain. -/
def insertByPage (e : Nat × PageEnt) (xs : List (Nat × PageEnt)) : List (Nat × PageEnt) :=
  match xs with
  | [] => [e]
  | a :: r => if e.2.page < a.2.page then e :: a :: r else a :: insertByPage e r

/-- Put a stream's chain back with its directory entry; an empty chain frees the entry (R108). -/
def setChain (x : Slice) (h : Nat) (xs : List (Nat × PageEnt)) : Slice :=
  match dirFind x h with
  | some d =>
    if xs.isEmpty then { x with dir := mdel x.dir d.1 }
    else
      { x with
        ents := relink x.ents xs
        dir := mset x.dir d.1
          ⟨xs.length, (xs.getLast?.map (fun e => e.1)).getD noEntry, (xs.head?.map (fun e => e.1)).getD noEntry, h⟩ }
  | none =>
    match dirFree x h, xs with
    | some k, _ :: _ =>
      { x with
        ents := relink x.ents xs
        dir := mset x.dir k
          ⟨xs.length, (xs.getLast?.map (fun e => e.1)).getD noEntry, (xs.head?.map (fun e => e.1)).getD noEntry, h⟩ }
    | _, _ => x

/-- The same, with the table's sectors written. -/
def putChain (s : State) (i : Nat) (x : Slice) (h : Nat) (xs : List (Nat × PageEnt)) : Slice :=
  metaSync i s.crypto.ksys x (setChain x h xs)

/-- Link a page entry into its stream's chain. -/
def linkEnt (s : State) (i : Nat) (x : Slice) (h j : Nat) (e : PageEnt) : Slice := putChain s i x h (insertByPage (j, e) (entsIn x h))

/-- Take page p of a stream out of its chain and the table. -/
def unlinkEnt (s : State) (i : Nat) (x : Slice) (h p : Nat) : Slice :=
  let y := setChain x h ((entsIn x h).filter (fun e => e.2.page != p))
  metaSync i s.crypto.ksys x (match entIn x h p with
    | some e => { y with ents := mdel y.ents e.1 }
    | none => y)

/-! ## Chunks and summary records (R86, R109, R110) -/

def poolChunks : Nat := 24416

/-- First gap of n chunks among sorted runs, from c upwards: first fit (DESIGN CHOICE, log 8). -/
def firstGap (runs : SMap Nat) (c n : Nat) : Option Nat :=
  match runs with
  | [] => if c + n ≤ poolChunks then some c else none
  | (a, l) :: r => if c + n ≤ a then some c else firstGap r (max c (a + l)) n

/-- Allocate n contiguous chunks. -/
def allocRun (x : Slice) (n : Nat) : Option (Nat × Slice) :=
  match firstGap x.alloc 0 n with
  | none => none
  | some c => some (c, { x with alloc := mset x.alloc c n })

/-- Take the chunks [c, c + n) out of one run (a, l) of the allocation. -/
def cutRun (m : SMap Nat) (a l c n : Nat) : SMap Nat :=
  let m := mdel m a
  let m := if a < c then mset m a (c - a) else m
  if c + n < a + l then mset m (c + n) (a + l - (c + n)) else m

/-- Return n chunks from c to the free pool; they may be part of a run. Those of a retired row group stay out (R602). -/
def freeRun (x : Slice) (c n : Nat) : Slice :=
  match x.alloc.find? (fun e => decide (e.1 ≤ c) && decide (c + n ≤ e.1 + e.2)) with
  | none => x
  | some e =>
    let out := (List.range n).filter (fun j => x.retired.contains ((c + j) / 3))
    { x with alloc := out.foldl (fun m j => mset m (c + j) 1) (cutRun x.alloc e.1 e.2 c n) }

def freeChunks (x : Slice) : Nat := poolChunks - (x.alloc.map (fun e => e.2)).sum

/-- Records per summary chunk (R109). -/
def sumsPerChunk (size : Nat) : Nat := 4096 / size

/-- Reserve a summary record of a partition: the first free slot of its own summary chunks, else a new chunk (R110). The
record's chunk and its offset in 16-byte units. -/
def allocSum (x : Slice) (part size : Nat) : Option ((Nat × Nat) × Slice) :=
  let slots := List.range (sumsPerChunk size)
  match x.sums.findSome? (fun e =>
      if e.2.part = part ∧ e.2.recSize = size then
        (slots.find? (fun j => !e.2.used.contains j)).map (fun j => (e.1, j))
      else none) with
  | some (c, j) => some ((c, j * size / 16), { x with sums := mmod x.sums c (fun y => { y with used := y.used ++ [j] }) })
  | none =>
    match allocRun x 1 with
    | none => none
    | some (c, x) => some ((c, 0), { x with sums := mset x.sums c ⟨part, size, [0], []⟩ })

/-- Free a summary record; its chunk returns to the pool with its last record (R110). -/
def freeSum (x : Slice) (c off : Nat) : Slice :=
  match mget x.sums c with
  | none => x
  | some y =>
    let used := y.used.filter (fun j => j * y.recSize / 16 != off)
    if used.isEmpty then freeRun { x with sums := mdel x.sums c } c 1
    else { x with sums := mset x.sums c { y with used := used } }

/-- Entries free for use: neither in the table nor held (R78). -/
def freeEnt (x : Slice) : Option Nat :=
  let held := x.held.flatMap (fun h => h.ents)
  (List.range 24576).find? (fun i => !mhas x.ents i && !held.contains i)

/-- The next version of the slice's counter that no sector of the chunks holds (R121, R558). -/
def nextVersion (fuel : Nat) (x : Slice) (c n : Nat) : Nat × Slice :=
  let v := (x.ver + 1) % 2 ^ 32
  let x := { x with ver := v }
  match fuel with
  | 0 => (v, x)
  | f + 1 =>
    if x.sectors.any (fun e => decide (8 * c ≤ e.1) && decide (e.1 < 8 * (c + n)) && bits e.2.info 31 0 == v)
    then nextVersion f x c n else (v, x)

/-- EV_SLICE_NEAR_FULL below 256 free chunks, once until above 512 (R105), to the partitions that hold the slice. -/
def partsOfSlice (s : State) (i : Nat) : List Nat :=
  (s.parts.filter (fun e => e.2.state != 0 && e.2.ranges.any (fun r => decide (r.1 ≤ i) && decide (i < r.1 + r.2)))).map
    (fun e => e.1)

def nearFullCheck (s : State) (i : Nat) : State :=
  let f := freeChunks (sliceAt s i)
  if f < 256 && !(sliceAt s i).nearFull then
    raiseParts (updSlice s i (fun x => { x with nearFull := true })) 0x0601 (partsOfSlice s i) (unitId (.slice i)) f
  else if 512 < f then updSlice s i (fun x => { x with nearFull := false })
  else s

/-! ## Opening pages (R86–R91) -/

/-- T0 page key. -/
def t0Key (h p : Nat) : Nat := h * 2 ^ 18 + p

def t0At (s : State) (h p : Nat) : Option T0Page := mget (hubAt s (hubOfHandle h)).t0 (t0Key h p)

def updT0 (s : State) (h p : Nat) (f : Option T0Page → Option T0Page) : State :=
  updHub s (hubOfHandle h) (fun x =>
    match f (mget x.t0 (t0Key h p)) with
    | some v => { x with t0 := mset x.t0 (t0Key h p) v }
    | none => { x with t0 := mdel x.t0 (t0Key h p) })

/-- Blocks of the partition's quota still free on a hub (R508). -/
def quotaLeft (s : State) (k h : Nat) : Nat :=
  let p := partAt s k
  if h = 1 then p.quota1 - p.used1 else p.quota0 - p.used0

/-- Does a page open in T0: OPEN_POL 0 and room for r chunks in the quota (R88). -/
def opensInT0 (s : State) (x : Stream) : Bool := x.openPol == 0 && decide (x.r ≤ quotaLeft s x.part x.home)

/-- Reserve what an opening page needs on a slice (R86): the chunks, the summary record, the entry and a place in the
stream directory. The entry is not linked yet. The version of a page in T0 reads 0 until it is sealed (DESIGN CHOICE, log 128). -/
def reservePage (sl : Slice) (h part p n size : Nat) (inT0 : Bool) : Option (Nat × PageEnt × Slice) :=
  match (if (dirFind sl h).isSome || (dirFree sl h).isSome then freeEnt sl else none) with
  | none => none
  | some i =>
    match allocRun sl n with
    | none => none
    | some (c, sl) =>
      match allocSum sl part size with
      | none => none
      | some (sm, sl) =>
        let v := if inT0 then (0, sl) else nextVersion 64 sl c n
        some (i, ⟨v.1, inT0, p, noEntry, sm.2, sm.1, 1, n - 1, c⟩, v.2)

/-- Open page p of stream h on its home slice, or fail as R87 states. -/
def openPage (s : State) (h : Nat) (x : Stream) (i p : Nat) (inT0 : Bool) : Option State :=
  match reservePage (sliceAt s i) h x.part p (if inT0 then x.r else 2 * x.r) (summarySize x.dcode) inT0 with
  | none => none
  | some (e, ent, sl) =>
    let s := { s with slices := mset s.slices i (linkEnt s i sl h e ent) }
    let s := if inT0 then takeT0 (updT0 s h p (fun _ => some ⟨[], [], false, none, 0⟩)) x.part x.home x.r else s
    some (nearFullCheck s i)

/-- The page entry of the stream page p resolves to, with its slice and index. -/
def pageEnt (s : State) (h p : Nat) : Option (Nat × Nat × PageEnt) :=
  let o := owner s h p
  let i := homeSlice s o p
  (entIn (sliceAt s i) o p).map (fun e => (i, e.1, e.2))

/-- The slice and entry of a job's page: as they stand, or as the job keeps them (R120). -/
def jobPage (s : State) (j : Job) : Option (Nat × PageEnt) :=
  match j.left with
  | some l => some (j.slice, l.1)
  | none => (pageEnt s j.handle j.page).map (fun e => (e.1, e.2.2))

def updEnt (s : State) (i idx : Nat) (f : PageEnt → PageEnt) : State :=
  updSlice s i (fun x => metaSync i s.crypto.ksys x { x with ents := mmod x.ents idx f })

/-! ## Freeing under R78 -/

/-- First frame in which what a change effective at frame f frees may be used again: one past the last service frame of
the commands whose span starts before f, whether or not their outcome is fixed already. -/
def holdUntil (s : State) (f : Nat) : Nat :=
  s.adm.cmds.foldl (fun m e =>
    match e.2.plan with
    | some p => if p.start < f then max m (p.service + 1) else m
    | none => m) f

/-- When the image a slot held before frame f is free: past the latest service frame of the commands that use it (R304). -/
def progUntil (s : State) (k slot f : Nat) : Nat :=
  s.adm.cmds.foldl (fun m e =>
    match e.2.plan with
    | some p => if e.2.hdr.part = k && e.2.hdr.prog == slot && p.start < f &&
        (e.2.hdr.opcode == opATTEND || e.2.hdr.opcode == opVERIFY || e.2.hdr.opcode == opSELECT) then max m (p.service + 1) else m
    | none => m) f

/-- Release what a slice holds back, when frame n has come. -/
def releaseHeld (x : Slice) (n : Nat) : Slice :=
  let due := x.held.filter (fun h => decide (h.free ≤ n) && h.job.isNone)
  let x := { x with held := x.held.filter (fun h => decide (n < h.free) || h.job.isSome) }
  due.foldl (fun x h =>
    let x := h.extents.foldl (fun x e => freeRun x e.1 e.2) x
    h.sums.foldl (fun x e => freeSum x e.1 e.2) x) x

/-- Hold chunks, entries and summaries of partition k on slice i until commands that see them have passed (R78), and while
the seal job `job` still runs on them (R120). -/
def holdFor (s : State) (i k f : Nat) (job : Option Nat) (extents : List (Nat × Nat)) (ents : List Nat)
    (sums : List (Nat × Nat)) : State :=
  let s := updSlice s i (fun x =>
    releaseHeld { x with held := x.held ++ [⟨holdUntil s f, k, extents, ents, sums, job⟩] } s.time.frame)
  nearFullCheck s i

/-- Hold what a change frees until commands that see it have passed (R78). -/
def holdFree (s : State) (i k f : Nat) (extents : List (Nat × Nat)) (ents : List Nat) (sums : List (Nat × Nat)) : State :=
  holdFor s i k f none extents ents sums

/-- Free T0 blocks of a partition under R78. -/
def holdT0 (s : State) (k hub f n : Nat) : State :=
  let u := holdUntil s f
  if u ≤ s.time.frame then releaseT0 s k hub n
  else updHub s hub (fun x => { x with heldT0 := x.heldT0 ++ [(u, k, n)] })

/-- Give back the held T0 blocks whose frame has come. -/
def releaseHeldT0 (s : State) (hub : Nat) : State :=
  let due := (hubAt s hub).heldT0.filter (fun e => decide (e.1 ≤ s.time.frame))
  let s := updHub s hub (fun x => { x with heldT0 := x.heldT0.filter (fun e => decide (s.time.frame < e.1)) })
  forAll s due (fun s e => releaseT0 s e.2.1 hub e.2.2)

/-- Drop the T0 rows of a page, its blocks free under R78. -/
def dropT0Page (s : State) (h p f blocks part home : Nat) : State :=
  if (t0At s h p).isNone then s else holdT0 (updT0 s h p (fun _ => none)) part home f blocks

/-- A job of page p of stream h as it stands: one left running for a page freed since is none (R120). -/
def Job.of (j : Job) (h p : Nat) : Bool := j.left.isNone && j.handle == h && j.page == p

/-- Jobs of a page are dropped with it. -/
def dropPageJobs (s : State) (h p : Nat) : State :=
  { s with adm := { s.adm with jobs := mfilter s.adm.jobs (fun _ j => !j.of h p) } }

/-- The seal job of a page that is freed runs on (R120; DEDUCED, log 135): it keeps the page's entry and stream with it, and the rows of a
page that was still to be coded from T0. Other jobs of the page go. -/
def leaveSeal (s : State) (h p : Nat) (x : Stream) (e : PageEnt) : State :=
  let raw := (t0At s h p).map (fun t => rawPage x.fmt x.dcode t.rows t.trailer)
  { s with adm := { s.adm with jobs := (mfilter s.adm.jobs (fun _ j =>
      !j.of h p || j.kind == .seal || j.kind == .upload || (j.kind == .code && j.source != 1))).map (fun a =>
        if a.2.of h p then
          (a.1, { a.2 with
            left := some (e, x)
            coded := if a.2.kind == .code && a.2.source == 0 then raw.getD [] else a.2.coded
            source := if a.2.kind == .code then 2 else a.2.source })
        else a) } }

/-- The stream of a job, and the entry of its page with its slice: as they stand, or as the job keeps them (R120). -/
def jobStream (s : State) (j : Job) : Option Stream :=
  match j.left with
  | some l => some l.2
  | none => streamAt s j.handle

/-- The seal job of a page, if one runs. -/
def sealJobOf (s : State) (h p : Nat) : Option Nat :=
  (s.adm.jobs.find? (fun a => a.2.of h p && (a.2.kind == .seal || a.2.kind == .upload || (a.2.kind == .code && a.2.source != 1)))).map
    (fun a => a.1)

/-- Remove the lost-page table entries of a page (R600). -/
def forgetLost (s : State) (h p : Nat) : State :=
  updHub s (hubOfHandle h) (fun x => { x with lostPages := mdel x.lostPages (t0Key h p) })

/-- The flash translation layer of a hub. -/
def ftlAt (s : State) (hub : Nat) : Ftl := if hub = 1 then s.ftl1 else s.ftl0

def updFtl (s : State) (hub : Nat) (f : Ftl → Ftl) : State :=
  if hub = 1 then { s with ftl1 := f s.ftl1 } else { s with ftl0 := f s.ftl0 }

/-- Park staging an image takes until it is programmed: its chunks. -/
def parkBytes (img : T2Image) : Nat := 4096 * ceilDiv img.coded.length 4096

/-- Free the T2 copy of a page. -/
def dropImage (s : State) (h p : Nat) : State :=
  match mget (ftlAt s (hubOfHandle h)).images (t0Key h p) with
  | none => s
  | some img =>
    updFtl s (hubOfHandle h) (fun y =>
      { y with
        images := mdel y.images (t0Key h p)
        programs := if img.staged then y.programs.filter (fun q => q != (h, p)) else y.programs
        parkStage := if img.staged then y.parkStage - parkBytes img else y.parkStage })

/-- The index tag an update is for. -/
def updTag (u : OboeUpd) : Nat :=
  match u with
  | .insert _ t _ _ _ _ _ _ _ => t
  | .rewrite _ t _ _ _ => t
  | .remove _ t _ _ => t

/-- Is the update an insert for page p of stream h. -/
def isInsertOf (h p : Nat) (u : OboeUpd) : Bool :=
  match u with
  | .insert _ _ h' p' _ _ _ _ _ => h' == h && p' == p
  | _ => false

/-- Entries of both halves. -/
def oboeEnts (s : State) : List OboeEnt := s.oboe.ents0.map (fun e => e.2) ++ s.oboe.ents1.map (fun e => e.2)

/-- Has a tag no entry and no update left? -/
def tagIdle (s : State) (tag : Nat) : Bool :=
  !(oboeEnts s).any (fun e => e.tag == tag) && !s.oboe.updates.any (fun u => updTag u == tag)

/-- The reservation, the tag and the T0 block of a retired record return with its last removal (R209, R214, R235). -/
def freeOld (s : State) (hub : Nat) (r : IndexRec) : State :=
  let s := updHub s hub (fun y => { y with oldIndex := y.oldIndex.filter (fun q => q.tag != r.tag) })
  let s := updPart s r.part (fun p => { p with idxReserved := p.idxReserved - r.reserve })
  releaseT0 { s with oboe := { s.oboe with tags := s.oboe.tags.filter (fun t => t != r.tag) } } r.part hub 1

/-- Free every retired record of a hub whose last entry is out. -/
def sweepOld (s : State) (hub : Nat) : State :=
  forAll s (hubAt s hub).oldIndex (fun s r => if tagIdle s r.tag then freeOld s hub r else s)

/-- Stop inserts of a tag and queue the removal of every entry it has. -/
def removeTag (s : State) (hub tag : Nat) : State :=
  let keep := s.oboe.updates.filter (fun u => match u with
    | .insert _ t _ _ _ _ _ _ _ => t != tag
    | _ => true)
  let rm := ((oboeEnts s).filter (fun e => e.tag == tag)).map (fun e => OboeUpd.remove hub tag e.stream e.page)
  { s with oboe := { s.oboe with updates := keep ++ rm.filter (fun u => !keep.contains u) } }

/-- A stream's index record is retired: the stream counts as not indexed, and its entries go by removals (R214, R235). -/
def retireIndex (s : State) (hub idx : Nat) : State :=
  match mget (hubAt s hub).index idx with
  | none => s
  | some r =>
    sweepOld (removeTag (updHub s hub (fun y =>
      { y with index := mdel y.index idx, oldIndex := y.oldIndex ++ [r] })) hub r.tag) hub

/-- A migration's copy of a page that is freed goes with it: what it took at its destination is freed (R118, R344). -/
def dropCopy (s : State) (h p f : Nat) : State :=
  match migOf s h, streamAt s h with
  | some m, some x =>
    let xs := partList s x.part
    let j := if m.state = 2 then placeOf xs x.base x.width p else placeOf xs m.abase m.awidth p
    if !m.copies.any (fun c => c.1 == p) then s
    else
      let s := { s with adm := { s.adm with effs := s.adm.effs.filter (fun e => e.eff != .migCopied h p) } }
      let s := updHub s (hubOfHandle h) (fun y => { y with migs := mmod y.migs (idxOfHandle h) (fun m =>
        { m with copies := m.copies.filter (fun c => c.1 != p) }) })
      if j = homeSlice s h p then s
      else forAll s ((entsIn (sliceAt s j) h).filter (fun e => x.isState || e.2.page == p)) (fun s e =>
        holdFree (updSlice s j (fun y => unlinkEnt s j y h e.2.page)) j x.part f
          (if e.2.form = 3 then [] else [(e.2.chunk, e.2.nchunk + 1)]) [e.1]
          (if x.isState then [] else [(e.2.sumChunk, e.2.sumOff)]))
  | _, _ => s

/-- Free page p of stream h (which resolves to h itself), effective at frame f: its entry, chunks, summary, T0 rows,
flash image and index entry. -/
def freePage (s : State) (h p f : Nat) : State :=
  match streamAt s h with
  | none => s
  | some x =>
    let i := homeSlice s h p
    let s := forgetLost s h p
    let job := sealJobOf s h p
    let ent := entIn (sliceAt s i) h p
    let s := match ent with
      | some e => leaveSeal s h p x e.2
      | none => dropPageJobs s h p
    let s := dropT0Page s h p f x.r x.part x.home
    let s := dropCopy (dropImage s h p) h p f
    let s := match mget (hubAt s (hubOfHandle h)).index (idxOfHandle h) with
      | some r =>
        let us := s.oboe.updates.filter (fun u => !isInsertOf h p u) ++ [.remove (hubOfHandle h) r.tag h p]
        { s with oboe := { s.oboe with updates := us } }
      | none => s
    match ent with
    | none => s
    | some e =>
      let s := updSlice s i (fun y => unlinkEnt s i y h p)
      let ext := if e.2.form = 3 then [] else [(e.2.chunk, e.2.nchunk + 1)]
      holdFor s i x.part f job ext [e.1] (if x.isState then [] else [(e.2.sumChunk, e.2.sumOff)])

/-- Free the pages [a, b) of a stream. -/
def freePages (s : State) (h a b f : Nat) : State := forAll s (List.range (b - a)) (fun s j => freePage s h (a + j) f)

/-! ## SEALED and CHUNKS_MAX -/

/-- A page counts as sealed when its entry's form is sealed or parked. -/
def pageSealed (s : State) (h p : Nat) : Bool :=
  match pageEnt s h p with
  | some e => e.2.2.form == 2 || e.2.2.form == 3
  | none => false

/-- The least N ≥ n such that page N is not sealed. -/
def sealedFrom (fuel : Nat) (s : State) (h n limit : Nat) : Nat :=
  match fuel with
  | 0 => n
  | f + 1 => if n < limit && pageSealed s h n then sealedFrom f s h (n + 1) limit else n

/-- Advance SEALED of every stream over the pages whose sealed form is current (Table 3-9). -/
def advanceSealed (s : State) : State :=
  forAll s (allStreams s) (fun s e =>
    if e.2.isState then s
    else
      let n := sealedFrom (e.2.pages + 1) s e.1 (max e.2.sealed e.2.firstPage) e.2.pages
      if n = e.2.sealed then s else updStream s e.1 (fun x => { x with sealed := n }))

/-- Raise CHUNKS_MAX of every stream that resolves page p to its owner h (Table 3-9). -/
def raiseChunksMax (s : State) (h p n : Nat) : State :=
  forAll s (allStreams s) (fun s e =>
    if !e.2.isState && owner s e.1 p == h && decide (e.2.chunksMax < n) && decide (p < e.2.pages) then
      updStream s e.1 (fun x => { x with chunksMax := n })
    else s)

/-! ## Closing (R116, R117) -/

/-- One past the highest page the stream itself has an entry for on any slice of its partition (R116): pages that an
`APPEND` in flight opened are among them. -/
def topPage (s : State) (h : Nat) (x : Stream) : Nat :=
  ((partList s x.part).eraseDups.flatMap (fun i => (entsIn (sliceAt s i) h).map (fun e => e.2.page + 1))).foldl max 0

/-- Free a stream entry and lower the parent's CHILDREN; a retained parent whose last child goes is closed too. -/
def closeEntry (fuel : Nat) (s : State) (h f : Nat) : State :=
  match fuel with
  | 0 => s
  | g + 1 =>
    match streamAt s h with
    | none => s
    | some x =>
      let s := freePages s h x.forkPages (max (topPage s h x) (max x.pages (x.sealed + 1))) f
      let s := updHub s (hubOfHandle h) (fun y =>
        { y with streams := mdel y.streams (idxOfHandle h), migs := mdel y.migs (idxOfHandle h) })
      let s := retireIndex s (hubOfHandle h) (idxOfHandle h)
      if x.depth = 0 then s
      else
        let s := updStream s x.parent (fun y => { y with children := y.children - 1 })
        match streamAt s x.parent with
        | some y => if y.state = 1 && y.children = 0 then closeEntry g s x.parent f else s
        | none => s

/-- STREAM_CLOSE of one stream at frame f. -/
def closeStream (s : State) (h f : Nat) : State :=
  match streamAt s h with
  | none => s
  | some x =>
    if x.children = 0 then closeEntry 9 s h f
    else
      let open' := x.length / 64
      let s := if x.length % 64 = 0 ∨ x.isState then s else freePage s h open' f
      updStream s h (fun y => { y with state := 1 })

/-! ## Changes that take effect at a frame start (R77) -/

/-- Ring advance after LENGTH has grown from l0 (R79). -/
def ringAdvance (s : State) (h l0 f : Nat) : State :=
  match streamAt s h with
  | none => s
  | some x =>
    if x.window = 0 then s
    else freePages s h (max x.forkPages ((l0 - x.win) / 64)) x.firstPage f

/-- Free the reserved chunks a sealed form does not use (R94): the entry held [c0, c0 + n0], the form keeps
[c, c + n). -/
def sealFree (s : State) (i k f : Nat) (e : PageEnt) (c n : Nat) : State :=
  let lo := if e.chunk < c then [(e.chunk, c - e.chunk)] else []
  let hi := if c + n < e.chunk + e.nchunk + 1 then [(c + n, e.chunk + e.nchunk + 1 - (c + n))] else []
  if (lo ++ hi).isEmpty then s else holdFree s i k f (lo ++ hi) [] []

/-- The pages of a migration whose copies are complete from DONE on, raised over (R345). -/
def migAdvance (fuel : Nat) (m : MigRec) (d : Nat) : Nat :=
  match fuel with
  | 0 => d
  | f + 1 => if m.copies.any (fun c => c.1 == d && c.2) then migAdvance f m (d + 1) else d

/-- A copied page becomes current at its new home: the entry and chunks at its old home are freed (R345). A state moves
whole (Table 5-14). -/
def dropOldCopy (s : State) (h k i j p f : Nat) (whole : Bool) : State :=
  if i = j then s
  else
    forAll s ((entsIn (sliceAt s i) h).filter (fun e => whole || e.2.page == p)) (fun s e =>
      let s := updSlice s i (fun y => unlinkEnt s i y h e.2.page)
      holdFree s i k f (if e.2.form = 3 then [] else [(e.2.chunk, e.2.nchunk + 1)]) [e.1]
        (if whole then [] else [(e.2.sumChunk, e.2.sumOff)]))

/-- Pages a migration moves: those the stream resolves to itself; a state moves as one. -/
def migPages (x : Stream) : Nat := if x.isState then 1 else max x.pages x.forkPages

/-- Raise or lower DONE of a record over its complete copies (R345–R347). A record that is through has `STATE` 0 until the frame
start that freed it has completed its MIGRATE. -/
def migStep (s : State) (h f : Nat) : State :=
  match migOf s h, streamAt s h with
  | some m, some x =>
    let xs := partList s x.part
    let pa := fun p => placeOf xs m.abase m.awidth p
    let pb := fun p => placeOf xs x.base x.width p
    let setM := fun (s : State) (m : MigRec) => updHub s (hubOfHandle h) (fun y => { y with migs := mset y.migs (idxOfHandle h) m })
    let endM := fun (s : State) (m : MigRec) => setM s { m with state := 0, copies := [] }
    if m.state = 0 then s
    else if m.state = 2 then
      let p := m.doneTo - 1
      if x.forkPages < m.doneTo && m.copies.any (fun c => c.1 == p && c.2) then
        let s := dropOldCopy s h x.part (pa p) (pb p) p f x.isState
        let m := { m with doneTo := p, copies := m.copies.filter (fun c => c.1 != p) }
        if p = x.forkPages then endM s m else setM s m
      else if m.doneTo = x.forkPages then endM s m else s
    else
      let d := migAdvance (m.copies.length + 1) m m.doneTo
      let s := forAll s (List.range (d - m.doneTo)) (fun s j =>
        dropOldCopy s h x.part (pb (m.doneTo + j)) (pa (m.doneTo + j)) (m.doneTo + j) f x.isState)
      if m.state = 1 && migPages x ≤ d then
        endM (updStream s h (fun y => { y with base := m.abase, width := m.awidth })) { m with doneTo := d }
      else setM s { m with doneTo := d, copies := m.copies.filter (fun c => decide (d ≤ c.1)) }
  | _, _ => s

/-- The blocks of a state take the versions of the half just written, and hold data (R180). -/
def setBlocks (s : State) (h : Nat) (vs : List Nat) : State :=
  let i := homeSlice s h 0
  forAll s (entsIn (sliceAt s i) h) (fun s e =>
    updEnt s i e.1 (fun y => { y with form := 2, version := vs.getD y.page y.version }))

/-- Largest chunk count of the sealed pages below f that stream h resolves to (Table 3-9). -/
def sealedMax (s : State) (h f : Nat) : Nat :=
  ((List.range f).map (fun p => match pageEnt s h p with
    | some e => if e.2.2.form = 2 ∨ e.2.2.form = 3 then e.2.2.nchunk + 1 else 0
    | none => 0)).foldl max 0

/-- A child stream takes what its shared pages have become since its `FORK`'s view: seals that took effect by its first
frame count in its `SEALED` and `CHUNKS_MAX` (Table 3-9, R114). -/
def childStands (s : State) (h : Nat) (st : Stream) : State :=
  if st.depth = 0 || st.isState then s
  else advanceSealed (updStream s h (fun y => { y with chunksMax := max y.chunksMax (sealedMax s h st.forkPages) }))

/-- A change of the page table at the start of frame f; one of a page that has been freed or opened anew since does nothing,
and what it had reserved is free. Changes of partitions and maps are applied where they are
described (13_partitions). -/
def applyStreamEff (s : State) (f : Nat) (e : Eff) : State :=
  match e with
  | .addLength h n =>
    match streamAt s h with
    | none => s
    | some x => ringAdvance (updStream s h (fun y => { y with length := y.length + n })) h x.length f
  | .create h st =>
    let s := updHub s (hubOfHandle h) (fun y => { y with streams := mset y.streams (idxOfHandle h) st })
    if st.depth = 0 then s else childStands (updStream s st.parent (fun y => { y with children := y.children + 1 })) h st
  | .close h => closeStream s h f
  | .dropTo h q re =>
    match streamAt s h with
    | none => s
    | some x =>
      if x.isState then
        let s := forAll s (entsIn (sliceAt s (homeSlice s h 0)) h) (fun s e =>
          updEnt s (homeSlice s h 0) e.1 (fun y => { y with form := 1 }))
        updStream s h (fun y => { y with length := 0 })
      else
        let a := max x.forkPages (q / 64)
        let s := freePages s h a (max x.pages (x.sealed + 1)) f
        let s := updStream s h (fun y =>
          { y with length := q, forkPages := min y.forkPages (q / 64), sealed := min y.sealed (q / 64) })
        match re with
        | none => s
        | some r =>
          let s := updSlice s r.slice (fun y => linkEnt s r.slice y h r.idx r.ent)
          if r.ent.openT0 then updT0 s h (q / 64) (fun _ => some ⟨r.rows, r.trailer, false, none, 0⟩) else s
  | .stateStep h n vs =>
    setBlocks (updStream s h (fun y => { y with length := y.length + n, sealed := (y.sealed + 1) % 2 ^ 20 })) h vs
  | .stateSet h n vs => setBlocks (updStream s h (fun y => { y with length := n })) h vs
  | .sealedForm h p v _ c n =>
    match pageEnt s h p, streamAt s h with
    | some (i, idx, e), some x =>
      if c < e.chunk || decide (e.chunk + e.nchunk + 1 < c + n) then s else
      let s := updEnt s i idx (fun y => { y with version := v, form := 2, chunk := c, nchunk := n - 1, openT0 := false })
      let s := sealFree s i x.part f e c n
      let s := dropPageJobs s h p
      let s := dropT0Page s h p f x.r x.part x.home
      advanceSealed (raiseChunksMax s h p n)
    | _, _ => s
  | .openInSlice h p v =>
    match pageEnt s h p, streamAt s h with
    | some (i, idx, _), some x =>
      if !(t0At s h p).any (fun t => t.dirty) then s else
      let s := { s with adm := { s.adm with jobs := mfilter s.adm.jobs (fun _ j => !(j.kind == .writePart && j.of h p)) } }
      dropT0Page (updEnt s i idx (fun y => { y with version := v, openT0 := false })) h p f x.r x.part x.home
    | _, _ => s
  | .parked h p =>
    match pageEnt s h p, streamAt s h with
    | some (i, idx, e), some x =>
      if e.form != 2 then s else
      holdFree (updEnt s i idx (fun y => { y with form := 3 })) i x.part f [(e.chunk, e.nchunk + 1)] [] []
    | _, _ => s
  | .restored h p v c n =>
    match pageEnt s h p, streamAt s h with
    | some (i, idx, e), some x =>
      if e.form != 3 then holdFree s i x.part f [(c, n)] [] [] else
      dropImage (updEnt s i idx (fun y => { y with version := v, form := 2, chunk := c, nchunk := n - 1 })) h p
    | none, some x => holdFree s (homeSlice s h p) x.part f [(c, n)] [] []
    | _, none => s
  | .migCopied h p =>
    migStep (updHub s (hubOfHandle h) (fun y =>
      { y with migs := mmod y.migs (idxOfHandle h) (fun m =>
        { m with copies := m.copies.map (fun c => if c.1 = p then (p, true) else c), copied := m.copied + 1 }) })) h f
  | .setProg k slot img =>
    updPart s k (fun y =>
      let g := mgetD y.progs slot ProgSlot.empty
      let old := g.cur
      let keep := match old with
        | some o => some (o, progUntil s k slot f)
        | none => none
      if img.isNone && keep.isNone then { y with progs := mdel y.progs slot }
      else { y with progs := mset y.progs slot ⟨img, keep, g.gen + 1⟩ })
  | .indexOff hub tag =>
    match (hubAt s hub).index.find? (fun r => r.2.tag == tag) with
    | some r => retireIndex s hub r.1
    | none => s
  | .indexFull hub tag =>
    updHub s hub (fun y => { y with index := y.index.map (fun r => if r.2.tag = tag then (r.1, { r.2 with offAt := 0 }) else r) })
  | .partState _ _ => s
  | .resetPart _ _ => s
  | .mapAdopt => s

/-- The page table as a command whose span starts at frame n sees it (R77): every change due by then applied. -/
def viewAt (s : State) (n : Nat) : State :=
  (s.adm.effs.filter (fun e => decide (e.frame ≤ n))).foldl (fun s e => applyStreamEff s e.frame e.eff) s

/-! ## Request contexts named and released (R168, R174) -/

/-- The request context an ACCEPT names (Table 5-6), or the detail of Table 5-9. A handle of another
partition counts as one of no live context (DEDUCED, log 130). -/
def findCtx (s : State) (c : Cmd) : Except Nat (Nat × Nat × ReqCtx) :=
  let h := c.hdr.ctxHandle
  let hub := bits h 31 31
  let slot := bits h 11 0
  match mget (hubAt s hub).ctxs slot with
  | some x =>
    if x.gen = bits h 30 12 ∧ x.part = c.hdr.part then
      match x.lost with
      | some d => .error d
      | none => .ok (hub, slot, x)
    else .error 5
  | none =>
    match mget (hubAt s hub).lostCtx slot with
    | some e => if e.1 = c.hdr.part * 2 ^ 19 + bits h 30 12 then .error e.2 else .error 5
    | none => .error 5

/-- Release a context (R168); with a detail of Table 5-9 it is remembered as lost under its handle. -/
def releaseCtx (s : State) (hub slot : Nat) (lost : Option Nat) : State :=
  match mget (hubAt s hub).ctxs slot with
  | none => s
  | some x =>
    let s := updHub s hub (fun y =>
      { y with
        ctxs := mdel y.ctxs slot
        lostCtx := match lost with
          | some d => mset y.lostCtx slot (x.part * 2 ^ 19 + x.gen, d)
          | none => y.lostCtx })
    let s := releaseT0 s x.part hub x.blocks0
    if x.slot1.isSome then releaseT0 s x.part (1 - hub) x.blocks1 else s

/-- An `ACCEPT` that completes, with any final status, releases the context it names (R168). -/
def releaseNamed (s : State) (c : Cmd) : State :=
  if c.hdr.opcode = opACCEPT then
    match findCtx s c with
    | .ok (hub, slot, _) => releaseCtx s hub slot none
    | .error _ => s
  else s

/-- A `VERIFY` that stops while its context exists carries the context's handle as its detail (R162; DEDUCED, log 133). -/
def keepHandle (s : State) (c : Cmd) (o : Outcome0) : Outcome0 :=
  let live := match mget (hubAt s (bits c.handle 31 31)).ctxs (bits c.handle 11 0) with
    | some x => x.gen == bits c.handle 30 12 && x.part == c.hdr.part && x.lost.isNone
    | none => false
  if c.hdr.isVerify && c.handle != 0 && live && o.status != stCTXLOST then { o with detail := c.handle } else o

/-- The pages a command opened or placed beyond what its streams now show, freed again. -/
def undoPages (s : State) (c : Cmd) (f : Nat) : State :=
  forAll s c.snaps (fun s x =>
    match streamAt s x.handle with
    | none => s
    | some y =>
      if y.isState then s
      else
        let pend := (s.adm.effs.filterMap (fun e => match e.eff with
          | .addLength h n => if h = x.handle then some n else none
          | _ => none)).sum
        let lo := ceilDiv (y.length + pend) 64
        forAll s (List.range 66) (fun s j => if (pageEnt s x.handle (lo + j)).isSome then freePage s x.handle (lo + j) f else s))

/-! ## Versions and sectors of a form -/

/-- A page's rows held in T0, and its scale block. -/
def t0Rows (s : State) (h p : Nat) : List Bytes × Bytes :=
  match t0At s h p with
  | some t => (t.rows, t.trailer)
  | none => ([], [])

end Sys2Proof.Machine
end

