-- ==== Sys2Proof/Machine/Accept.lean ====
section
/-!
DEFINITION. Acceptance of a command: checks 1 to 8 of Table 10-4 (R363–R372, R626, R728), and the queue it enters.
-/

namespace Sys2Proof.Machine

/-! ## How a command came (R381, R404, R407) -/

/-- The connection its records go to, the message it came in, and how a chain brought it. -/
structure Delivery where
  conn : Nat
  msn : Nat
  region : Nat
  rgen : Nat
  addr : Nat
  chained : Bool
  noreply : Bool
  entry : Option Nat
  redirect : Option (Nat × Nat)
  deriving DecidableEq, Repr

/-! ## Versions of the running package (R646–R652) -/

/-- A package slot of the boot flash. -/
def fwSlot (s : State) (i : Nat) : SMap U8 := if i = 1 then s.fw.slot1 else s.fw.slot0

/-- `FW_VER` of the running package (Table 16-7). -/
def fwVer (s : State) : Nat := leNat (bread (fwSlot s s.fw.running) 4 4)

/-- The node's `VER` (R646). -/
def nodeVer (s : State) : Nat := fwVer s / 65536

/-- Version table entry (Table 16-8) for a version: `PFV`, `HVER_MAX`, `TGEN_MAX`. -/
def vtableEntry (s : State) (ver : Nat) : Option (Nat × Nat × Nat) :=
  ((List.range 16).map (fun i => bread (fwSlot s s.fw.running) (176 + 8 * i) 8)).findSome? (fun e =>
    if leAt e 0 2 = ver && leAt e 2 6 ≠ 0 then some (leAt e 2 1, leAt e 3 1, leAt e 4 1) else none)

/-- The node's own entry; version 1 of each where the package's table has none (DESIGN CHOICE, log 9). -/
def ownVersions (s : State) : Nat × Nat × Nat := (vtableEntry s (nodeVer s)).getD (1, 1, 1)

/-- The floor (R648): the own entry, or with `MIXED` the least of each field over the members' entries. -/
def floorVersions (s : State) : Nat × Nat × Nat :=
  let own := ownVersions s
  match s.maps.cur with
  | none => own
  | some m =>
    if m.mixed then
      m.members.foldl (fun (a : Nat × Nat × Nat) e =>
        let v := (vtableEntry s e.ver).getD own
        (min a.1 v.1, min a.2.1 v.2.1, min a.2.2 v.2.2)) own
    else own

/-- Highest header version the node accepts (R649). -/
def hverMax (s : State) : Nat := (floorVersions s).2.1

/-- Page format version of the streams the node opens and the highest it decodes (R650, R652). -/
def ownPfv (s : State) : Nat := (ownVersions s).1

/-- Page format version of every image that READ returns (R651). -/
def floorPfv (s : State) : Nat := (floorVersions s).1

/-- The accepting hub (R366). -/
def acceptHub (s : State) (h : Hdr) : Nat :=
  if namesStreams h.opcode && h.opcode != opOPEN then
    match lookupStream s h.part h.ctx h.layer h.kvh with
    | some x => hubOfHandle x
    | none => 0
  else 0

/-- Flags an opcode uses (Table 10-2). -/
def flagsOk (h : Hdr) : Bool :=
  (!h.recurrent || h.opcode == opOPEN) && (!h.flushFirst || nearBank h.opcode)

/-- R364; the parts that depend on the opcode apply to assigned opcodes. -/
def zeroFieldsOk (h : Hdr) : Bool :=
  !h.rsvd && decide (h.flags < 8) && (h.chainEn || h.chain == 0) &&
  (!opcodes.contains h.opcode ||
    (flagsOk h && (namesStreams h.opcode || (h.ctx == 0 && h.layer == 0 && h.kvh == 0))))

/-- Does the command need a unit that is absent (step 6; R2, R82). -/
def unitsMissing (s : State) (h : Hdr) : Bool :=
  (!isA24F s && ([opPARK, opRESTORE, opINDEX].contains h.opcode || (h.opcode == opSELECT && h.prefilter))) ||
  (!hub1Present s && h.opcode == opOPEN && h.hintHome == 2)

/-! ## Step 8 (R728) -/

/-- No bit outside a mask of allowed bit ranges (hi, lo) is set. -/
def onlyBits (x : Nat) (rs : List (Nat × Nat)) : Bool :=
  rs.foldl (fun a r => putField a r.2 (r.1 + 1 - r.2) 0) x == 0

/-- The range of KV heads stays within 0–63. -/
def rangeOk (h : Hdr) : Bool := decide (h.kvh + h.nkvh ≤ 63)

def attendOk (h : Hdr) : Bool :=
  rangeOk h && isFinite h.scale2 && h.miss != 3 && onlyBits h.p1 [(63, 10)]

/-- R191's conditions on the words alone. -/
def selectOk (h : Hdr) : Bool :=
  attendOk h && f32Lt f32Zero h.scale2 && onlyBits h.p2 [(43, 21), (15, 0)] && decide (h.probeBits ≤ 128) &&
  (!h.prefilter || (h.probeBits != 0 && h.candSlice != 0 && decide (h.probes * h.probeBits ≤ 128)))

def verifyOk (h : Hdr) : Bool :=
  rangeOk h && isFinite h.scale2 && h.miss != 3 && onlyBits h.p1 [(63, 8)] && h.p2 == 0 &&
  decide (h.basePos + h.rows ≤ 16777216)

/-- The page range word of Table 9-4. -/
def pageRangeOk (h : Hdr) : Bool :=
  onlyBits h.p0 [(44, 0)] && h.p1 == 0 && h.p2 == 0 && h.paylen == 0 &&
  (if h.opcode = opFLUSH then rangeOk h else !h.all && bits h.p0 43 38 == 0) &&
  ((h.opcode == opFLUSH && h.all) || (h.opcode != opFLUSH && h.pageHi == 0 && h.pageLo == 0) ||
    (decide (h.pageLo < h.pageHi) && decide (h.pageHi ≤ 262144)))

/-- R81's conditions on the words alone, and R177's for a recurrent state. -/
def openOk (h : Hdr) : Bool :=
  onlyBits h.p1 [(53, 16), (14, 0)] && h.p2 == 0 && h.paylen == 0 && h.hintHome != 3 && decide (h.expect ≤ 262144) &&
  (if h.recurrent then onlyBits h.p0 [(5, 0)] && decide (h.hintWidth ≤ 1)
   else
    onlyBits h.p0 [(30, 0)] && decide (h.dWindow ≤ 16384) && decide (1 ≤ h.dGroup) && decide (h.dGroup ≤ 64) &&
    decide (h.dDcode ≤ 5) && decide (h.dFmt ≤ 7) && h.dLayout != 3 && ((h.dLayout == 2) == (h.dDcode == 5)) &&
    (h.dLayout != 2 || decide (2 ≤ h.dFmt)) && (h.dLayout == 0 || h.kvh == 0))

/-- R512's conditions on the words alone. -/
def partCtlOk (h : Hdr) : Bool :=
  partOps.contains h.pcOp && onlyBits h.p0 [(63, 24), (22, 17), (7, 0)] &&
  ((h.pcOp == 0x01 || h.pcOp == 0x08) == (h.pcWeight != 0)) &&
  (h.pcOp == 0x01 || (!h.pcTsgEn && h.pcTsg == 0)) &&
  (if h.pcOp = 0x01 ∨ h.pcOp = 0x06 then decide (1 ≤ h.pcA) && decide (h.pcA ≤ 64) && h.paylen == 4 * h.pcA
   else h.pcOp == 0x10 || h.pcOp == 0x12 || h.paylen == 0) &&
  (!(h.pcOp == 0x10 || h.pcOp == 0x11 || h.pcOp == 0x12) || h.part == 0)

/-- Step 8 for each opcode: the parameter words and the payload length. -/
def paramsOk (h : Hdr) : Bool :=
  let op := h.opcode
  let rest0 := h.p1 == 0 && h.p2 == 0
  if op = opATTEND then attendOk h && h.p2 == 0
  else if op = opSELECT then selectOk h
  else if op = opVERIFY then verifyOk h
  else if op = opACCEPT then onlyBits h.p0 [(38, 0)] && rest0 && decide (h.acount ≤ 64) && h.paylen == 64
  else if op = opAPPEND then
    onlyBits h.p0 [(63, 32), (11, 0)] && rest0 && rangeOk h && decide (h.pos + h.npos ≤ 16777216)
  else if op = opPUSH then
    onlyBits h.p0 [(63, 32), (13, 8), (5, 0)] && onlyBits h.p1 [(6, 0)] && h.p2 == 0 && rangeOk h &&
    decide (1 ≤ h.lastRows) && decide (h.lastRows ≤ 64)
  else if op = opSTEP then onlyBits h.p0 [(15, 2)] && onlyBits h.p1 [(31, 0)] && h.p2 == 0 && rangeOk h
  else if op = opINDEX then
    onlyBits h.p0 [(33, 32), (18, 0)] && rest0 && h.paylen == 0 && h.indexOp != 3 &&
    (h.indexOp == 1 || (decide (1 ≤ h.reserve) && decide (h.reserve ≤ 262144)))
  else if op = opPARK ∨ op = opRESTORE ∨ op = opREAD ∨ op = opFLUSH then pageRangeOk h
  else if op = opFORK then
    onlyBits h.p0 [(53, 0)] && onlyBits h.p1 [(31, 0)] && h.p2 == 0 && h.paylen == 0 && rangeOk h &&
    h.childCtx != h.ctx && h.forkP != 0
  else if op = opDROP then onlyBits h.p0 [(37, 0)] && rest0 && h.paylen == 0 && rangeOk h
  else if op = opCLOSE then onlyBits h.p0 [(5, 0)] && rest0 && h.paylen == 0 && rangeOk h
  else if op = opMIGRATE then onlyBits h.p0 [(32, 16), (14, 0)] && rest0 && h.paylen == 0
  else if op = opWRITE then onlyBits h.p0 [(63, 32), (11, 0)] && rest0 && decide (h.pos + h.npos ≤ 16777216)
  else if op = opPOST then
    onlyBits h.p0 [(33, 0)] && rest0 && h.paylen == (if h.postOp = 0 then 32 else 0) &&
    (h.postOp == 1 || h.postOp == 3 || h.postHandle == 0)
  else if op = opARM then onlyBits h.p0 [(31, 0)] && h.p2 == 0 && (h.paylen == 0 || decide (64 ≤ h.paylen))
  else if op = opFENCE then onlyBits h.p0 [(15, 0)] && rest0 && h.paylen == 0
  else if op = opOPEN then openOk h
  else if op = opPROG then
    onlyBits h.p0 [(39, 32), (13, 8), (0, 0)] && rest0 && h.progSlot != 0 &&
    h.paylen == (if h.progClear then 0 else 4 * h.ninst + 64)
  else if op = opPART then partCtlOk h
  else true

/-- The chain a header names is a posted entry of its partition that a completion fires (step 8). -/
def chainOk (s : State) (h : Hdr) : Bool :=
  !h.chainEn ||
  (match mget s.chains.ents (bits h.chain 17 0) with
   | some e => e.gen == bits h.chain 31 18 && e.part == h.part && e.state == 1 && ceTrig e.image == 1
   | none => false)

/-- The target a command names can be widened and is not too far ahead (R57). -/
def targetOk (s : State) (h : Hdr) : Bool :=
  match targetFrame s.time.frame h.tframe with
  | none => false
  | some t => decide (t ≤ (s.time.frame : Int) + 65536)

/-! ## The checks in order -/

/-- Commands held in queue q of partition k (R372). -/
def queueCount (s : State) (k q : Nat) : Nat :=
  (s.adm.cmds.filter (fun e => decide (0 < e.2.acc) && e.2.hdr.opcode != opPART && e.2.hdr.part == k &&
    e.2.hdr.queue == q)).length

/-- Rights of a connection in a partition. -/
def rightsIn (s : State) (conn k : Nat) : Nat :=
  match mget s.conns conn with
  | some c => mgetD c.grants k 0
  | none => 0

def mgmtConn (s : State) (conn : Nat) : Bool :=
  conn == mailboxConn || (match mget s.conns conn with
    | some c => c.mgmt
    | none => false)

/-- The first failing check of steps 1 to 8: status and detail. -/
def firstFailure (s : State) (conn hub : Nat) (h : Hdr) (len : Nat) : Option (Nat × Nat) :=
  let bad := fun st k sub => some (st, stepDetail k sub)
  let caps := h.opcode == opCAPS
  let pc := h.opcode == opPART
  if len < 64 || len != 64 + h.paylen || decide (16777216 < h.paylen) || (caps && h.paylen != 0) then
    bad stMALFORMED 1 0
  else if caps then none
  else if h.hver = 0 || decide (hverMax s < h.hver) || !zeroFieldsOk h then bad stMALFORMED 2 0
  else if !opcodes.contains h.opcode then bad stMALFORMED 3 0
  else if !pc && (s.life.state == 0 || s.life.state == 3) then some (stFENCED, fencedDetail 0x06 s.life.state)
  else if !pc && ((partAt s h.part).state == 0 || rightsIn s conn h.part == 0) then bad stDENIED 4 1
  else if !pc && !bit (partAt s h.part).queueEn h.queue then bad stDENIED 4 2
  else if pc && !mgmtConn s conn then bad stDENIED 5 0x20
  else if (match rightsClass h.opcode with
      | some b => !bit (rightsIn s conn h.part) b
      | none => false) then bad stDENIED 5 (0x10 + (rightsClass h.opcode).getD 0)
  else if h.opcode = opARM && (mgmtConn s conn || !bit (rightsIn s conn (bits h.armEvent 31 25)) 3) then bad stDENIED 5 0x13
  else if unitsMissing s h then bad stUNSUPPORTED 6 0
  else if !pc && decide ((partAt s h.part).depth ≤ queueCount s h.part h.queue) then bad stNOBUDGET 7 1
  else if !pc && decide (quotaLeft s h.part hub < ceilDiv (64 + h.paylen) 4096) then bad stNOBUDGET 7 2
  else if !paramsOk h || !targetOk s h || !chainOk s h then bad stMALFORMED 8 0
  else none

/-! ## Entering the queue (R370, R372) -/

/-- A command as it stands on arrival. -/
def newCmd (s : State) (d : Delivery) (hub : Nat) (h : Hdr) (payload : Bytes) (accepted : Bool) : Cmd :=
  let t : Nat := match targetFrame s.time.frame h.tframe with
    | some t => t.toNat
    | none => 0
  let target := max t (s.adm.closed + 1)
  { conn := d.conn, hub := hub, hdr := h, payload := payload, msn := d.msn, region := d.region, rgen := d.rgen,
    addr := d.addr, chained := d.chained, noreply := d.noreply, entry := d.entry, target := target,
    origTarget := target, acc := if accepted then s.adm.nextCid else 0, deferrals := 0, st := .queued, plan := none,
    snaps := [], opens := [], prog := none, handle := 0, omitted := 0, attended := 0, late := false, outSent := false,
    result := none, blocks := if accepted && h.opcode != opPART then ceilDiv (64 + payload.length) 4096 else 0,
    aux := [] }

/-- Put a command into the table under the next acceptance number. -/
def putCmd (s : State) (c : Cmd) : State :=
  { s with adm := { s.adm with cmds := mset s.adm.cmds s.adm.nextCid c, nextCid := s.adm.nextCid + 1 } }

/-- COMMAND_ACCEPTANCE: run checks 1 to 8 on a body. A command that fails completes with the failed step's status and
enters no queue (R368), and an `ACCEPT` that so completes releases the context it names (R168; DEDUCED, log 134); `QUERY_CAPS` passes to its own row without entering a queue (R412). -/
def acceptBody (s : State) (d : Delivery) (body : Bytes) : State :=
  let h0 := parseHdr body
  let h := match d.redirect with
    | some (k, q) => { h0 with part := k, queue := q }
    | none => h0
  let hub := acceptHub s h
  let payload := body.drop 64
  let cid := s.adm.nextCid
  match firstFailure s d.conn hub h body.length with
  | some (st, det) =>
    let c := newCmd s d hub h payload false
    let s := finish (putCmd s c) cid st det s.time.frame 0 0
    if body.length < 64 then s else releaseNamed s c
  | none =>
    if h.opcode = opCAPS then
      putCmd s { newCmd s d hub h payload false with target := s.time.frame, origTarget := s.time.frame }
    else
      let s := putCmd s (newCmd s d hub h payload true)
      if h.opcode = opPART then s else takeT0 s h.part hub (ceilDiv (64 + payload.length) 4096)

end Sys2Proof.Machine
end

