-- ==== Sys2Proof/Machine/Packet.lean ====
section
/-!
DEFINITION. Swinus packets as bytes (R4, R413, Tables 11-1 to 11-19), the link keys that protect them (R421, R422, R567), and the
device's own keys and certificates (R545–R547). The primitives are symbolic (DESIGN CHOICE, log 5).
-/

namespace Sys2Proof.Machine

/-! ## Type headers, little-endian (R4) -/

/-- The fields of the base header (Table 11-2). -/
structure BaseHdr where
  sframe : Nat
  psn : Nat
  dcid : Nat
  keyph : Nat
  ord : Bool
  tc : Nat
  tgen : Nat
  ptype : Nat
  deriving DecidableEq, Repr

def baseBytes (b : BaseHdr) : Bytes :=
  leBytes 16 (packFields [(96, 32, b.sframe), (64, 32, b.psn), (32, 32, b.dcid), (17, 1, b.keyph), (16, 1, b2n b.ord),
    (13, 3, b.tc), (8, 4, b.tgen), (0, 8, b.ptype)])

/-- Table 11-5. -/
def dataBytes (d : DataHdr) : Bytes :=
  leBytes 40 (packFields [(256, 64, d.addr), (224, 24, d.rgen), (200, 24, d.region), (168, 32, d.answers), (136, 32, d.chainh),
    (104, 32, d.offset), (100, 1, b2n d.av), (93, 7, d.part), (92, 1, b2n d.last), (89, 3, d.kind), (64, 25, d.mlen),
    (48, 16, d.pindex), (32, 16, d.pcount), (0, 32, d.msn)])

/-- Table 11-8. -/
def ackBytes (a : AckHdr) : Bytes :=
  leBytes 48 (packFields [(336, 16, a.delay), (320, 16, a.ce), (288, 32, a.floor), (32, 256, a.bitmap), (0, 32, a.newest)])

/-- Table 11-9. -/
def nakBytes (n : NakHdr) : Bytes :=
  leBytes 16 (packFields [(80, 8, n.reason), (64, 16, n.pindex), (32, 32, n.msn), (0, 32, n.npsn)])

/-- Table 11-13. -/
def flushBytes (fmsn ftag : Nat) : Bytes := leBytes 8 (packFields [(32, 32, ftag), (0, 32, fmsn)])

/-- Table 11-14: `LIVE`, `RESP`, `LABEL` or `REASON`, and `PSEQ` or `ECHO`. -/
def pathBytes (live resp label word : Nat) : Bytes :=
  leBytes 8 (packFields [(32, 32, word), (24, 8, label), (16, 1, resp), (0, 16, live)])

/-- Table 11-16. -/
def hsBytes (h : HsHdr) (naddr kxlen : Nat) : Bytes :=
  leBytes 16 (packFields [(88, 16, h.evmask), (72, 16, kxlen), (64, 8, naddr), (56, 8, h.status), (51, 1, b2n h.mgmt),
    (50, 1, b2n h.ordreq), (48, 2, h.mps), (32, 16, h.gens), (0, 32, h.scid)])

/-- Table 11-19. -/
def timeBytes (obint osub seq corr : Nat) : Bytes :=
  leBytes 24 (packFields [(128, 64, corr), (96, 32, seq), (64, 32, osub), (0, 64, obint)])

/-- The type header of a packet of a connection (Table 11-3): its fields in the order the senders list them, and those of its
message. -/
def typeBytes (ptype : Nat) (msg : Option MsgHdr) (fields : List Nat) : Bytes :=
  let f := fun (i : Nat) => fields.getD i 0
  if ptype = 0x01 then
    match msg with
    | some m => dataBytes ⟨m.addr, m.rgen, m.region, m.answers, m.chainh, f 2, m.av, m.part, f 3 == 1, m.kind, m.mlen, f 1, m.pcount, f 0⟩
    | none => []
  else if ptype = 0x02 then ackBytes ⟨f 4, f 3, f 2, f 1, f 0⟩
  else if ptype = 0x03 then nakBytes ⟨f 3, f 2, f 1, f 0⟩
  else if ptype = 0x04 ∨ ptype = 0x05 then flushBytes (f 0) (f 1)
  else if ptype = 0x06 ∨ ptype = 0x07 ∨ ptype = 0x08 then pathBytes (f 0) (f 1) (f 2) (f 3)
  else if ptype = 0x12 then hsBytes ⟨0, 0, false, false, 0, 0, f 0⟩ 0 0
  else if ptype = 0x18 ∨ ptype = 0x19 ∨ ptype = 0x1A then timeBytes (f 0) (f 1) (f 2) (f 3)
  else []

/-! ## Ethernet, IPv6 and UDP, in network order (R4, R413) -/

/-- A number in n bytes, highest first. -/
def beBytes (n x : Nat) : Bytes := (leBytes n x).reverse

/-- Sum of the 16-bit words of a byte string, an odd last byte padded with zero. -/
def wordSum : Bytes → Nat
  | a :: b :: r => 256 * a.toNat + b.toNat + wordSum r
  | [a] => 256 * a.toNat
  | [] => 0

/-- The UDP checksum of the pseudo-header and the datagram (RFC 768, RFC 8200): a sum of 0 is sent as 0xFFFF. -/
def checksum (bs : Bytes) : Nat :=
  let c := 65535 - (let s := wordSum bs; if s = 0 then 0 else (s - 1) % 65535 + 1)
  if c = 0 then 65535 else c

/-- One bit of the frame check sequence. -/
def crcBit (c : Nat) : Nat := if c % 2 = 1 then Nat.xor (c / 2) 0xEDB88320 else c / 2

/-- The Ethernet frame check sequence (IEEE 802.3). -/
def crc32 (bs : Bytes) : Nat :=
  Nat.xor (bs.foldl (fun c b => (List.range 8).foldl (fun c _ => crcBit c) (Nat.xor c b.toNat)) 0xFFFFFFFF) 0xFFFFFFFF

/-- Board-link address of the member at position b: fe80::1:b (R416). -/
def boardAddr (b : Nat) : Nat := 0xFE80 * 2 ^ 112 + 2 ^ 16 + b

/-- IPv6 address of a port: on a board link the member's; elsewhere the board's choice. -/
def portAddr (s : State) (p : Nat) : Nat :=
  if 16 ≤ p ∧ p < 20 then boardAddr s.hw.pos else Config.portAddr p % 2 ^ 128

/-- Source MAC address: fused for the management port (R677). -/
def portMac (s : State) (p : Nat) : Bytes := if p = 20 then leBytes 6 s.hw.mac else fitTo 6 (Config.portMac p)

/-- A whole untagged frame (Table 11-1) around the Swinus bytes of a packet. -/
def ethFrame (s : State) (p dst dscp ecn flow label sport dport : Nat) (body : Bytes) : Bytes :=
  let src := beBytes 16 (portAddr s p)
  let peer := beBytes 16 dst
  let len := 8 + body.length
  let udp := beBytes 2 sport ++ beBytes 2 dport ++ beBytes 2 len
  let sum := checksum (src ++ peer ++ beBytes 4 len ++ beBytes 4 17 ++ udp ++ zeros 2 ++ body)
  let ip := beBytes 4 (packFields [(28, 4, 6), (22, 6, dscp), (20, 2, ecn), (8, 12, flow), (0, 8, label)]) ++ beBytes 2 len ++
    beBytes 1 17 ++ beBytes 1 Config.hopLimit ++ src ++ peer
  let frame := fitTo 6 (Config.nextHopMac p dst) ++ portMac s p ++ beBytes 2 0x86DD ++ ip ++ udp ++ beBytes 2 sum ++ body
  frame ++ leBytes 4 (crc32 frame)

/-! ## Link keys (R421, R422, R567) -/

/-- RFC 5869 over SHA-384; every output here fits one block. -/
def hkdfExpand (prk info : Bytes) (n : Nat) : Bytes := (fitTo 48 (Config.hmacSha384 prk (info ++ [0x01#8]))).take n

/-- A label's ASCII bytes. -/
def ascii (t : String) : Bytes := t.toList.map (fun c => BitVec.ofNat 8 c.toNat)

/-- Key and salt of the secret S_k: 32 and 4 bytes. -/
def keyOf (secret : Bytes) : Bytes := hkdfExpand secret (ascii "key") 36

/-- A direction's keys at its start: S_0 and key number 0. -/
def LinkDir.start (prk label th : Bytes) : LinkDir :=
  let s0 := hkdfExpand prk (label ++ th) 48
  ⟨0, s0, [(0, keyOf s0)]⟩

/-- Derive the next key number; S_k is deleted with it. -/
def LinkDir.next (d : LinkDir) : LinkDir :=
  let s1 := hkdfExpand d.secret (ascii "next") 48
  ⟨d.num + 1, s1, mset d.keys (d.num + 1) (keyOf s1)⟩

/-- Hold the keys from number `low` to number `high` (R421). A direction moves at most two numbers at a time. -/
def LinkDir.hold (d : LinkDir) (low high : Nat) : LinkDir :=
  let d := if d.num < high then d.next else d
  let d := if d.num < high then d.next else d
  { d with keys := mfilter d.keys (fun k _ => decide (low ≤ k)) }

/-- The keys of a new connection: initiator to responder, and back. -/
def linkKeys (nonces z th : Bytes) : LinkDir × LinkDir :=
  let prk := fitTo 48 (Config.hmacSha384 nonces z)
  (LinkDir.start prk (ascii "swinus i2r") th, LinkDir.start prk (ascii "swinus r2i") th)

/-- R422: a packet's payload under its key, with the tag: the nonce is the salt and the widened number, the additional data the
two headers. -/
def sealPayload (d : LinkDir) (keyno count : Nat) (headers payload : Bytes) : Bytes :=
  let k := mgetD d.keys keyno []
  fitTo (payload.length + 16) (Config.aesGcm (k.take 32) (k.drop 32 ++ leBytes 8 count) headers payload)

/-! ## The key-exchange block (Table 14-4, R566) -/

/-- From `KXVER` to the end of `CHAIN`. -/
def kxHead (kxver suite : Nat) (nonce epk chain : Bytes) : Bytes :=
  leBytes 1 kxver ++ leBytes 1 suite ++ leBytes 2 chain.length ++ nonce ++ epk ++ zeros 3 ++ chain

/-- SHA-384. -/
def sha384 (bs : Bytes) : Bytes := fitTo 48 (Config.sha384 bs)

/-- A handshake packet from its base header to the end of `CHAIN`. -/
def hsToChain (b : BaseHdr) (h : HsHdr) (addrs : List Nat) (kxver suite : Nat) (nonce epk chain : Bytes) : Bytes :=
  baseBytes b ++ hsBytes h addrs.length (232 + chain.length) ++ addrs.flatMap (beBytes 16) ++ kxHead kxver suite nonce epk chain

/-- The same of a packet received. -/
def rxToChain (ptype : Nat) (p : RxBase) (h : HsHdr) (addrs : List Nat) (kx : Kx) : Bytes :=
  hsToChain ⟨p.sframe, p.psn, p.dcid, p.keyph, p.ord, p.tc, p.tgen, ptype⟩ h addrs kx.kxver kx.suite kx.nonce kx.epk kx.chain

/-! ## The device's keys (R545–R547, R554) -/

/-- The identity key pair, from the fused secret (R545). -/
def identityPair (secret : Bytes) : KeyPair :=
  let k := Config.p384Private (Config.dice secret (ascii "identity"))
  ⟨k, fitTo 97 (Config.p384Public k)⟩

/-- The alias key pair: one layer for each measurement of indices 1–4 (R546). -/
def aliasPair (secret : Bytes) (measured : List Bytes) : KeyPair :=
  let k := Config.p384Private (Config.dice (measured.foldl Config.dice secret) (ascii "alias"))
  ⟨k, fitTo 97 (Config.p384Public k)⟩

/-- K_jid (Table 14-3). -/
def jidKey (secret : Bytes) : Bytes := Config.dice secret (ascii "jid")

/-- `NODE_ID` (R547). -/
def nodeIdOf (secret : Bytes) : Nat := leNat ((sha384 (identityPair secret).pub).take 8)

/-- The alias chain, leaf first: the alias certificate, signed by the identity key, and the chain of the boot flash. -/
def aliasChain (s : State) : Bytes := s.crypto.aliasCert ++ s.hw.idChain

/-- A signature under a pair's private key, with a drawn nonce: r and s of 48 bytes. -/
def signWith (k : Option KeyPair) (digest draw : Bytes) : Bytes :=
  fitTo 96 (Config.ecdsaSign ((k.map (fun x => x.priv)).getD []) digest draw)

/-! ## Parked images (R563) -/

/-- The nonce of a park, from the hub and its counter. -/
def parkNonce (hub ctr : Nat) : Nat := packFields [(0, 1, hub), (1, 64, ctr)]

/-- The additional data of a page: handle, page, `VERSION`, `FMT_VER` and `CODED_BYTES` (field widths DEDUCED, log 154). -/
def parkAad (h p version fmtVer bytes : Nat) : Bytes :=
  leBytes 4 h ++ leBytes 4 p ++ leBytes 4 version ++ leBytes 1 fmtVer ++ leBytes 4 bytes

/-- K_p of a session key: the last 256 bits of its draw (Table 14-3). -/
def parkKey (key : Nat) : Bytes := slice (Config.drawBytes key 128) 96 32

/-- Ciphertext and 128-bit tag of a page under a session key. -/
def parkSealed (key nonce : Nat) (aad coded : Bytes) : Bytes :=
  fitTo (coded.length + 16) (Config.aesGcm (parkKey key) (leBytes 12 nonce) aad coded)

/-- An image as the hub parks it. -/
def parkImage (key nonce h p version fmtVer part : Nat) (coded : Bytes) : T2Image :=
  let aad := parkAad h p version fmtVer coded.length
  { coded := coded, key := key, nonce := nonce, aad := aad, tag := (parkSealed key nonce aad coded).drop coded.length,
    version := version, fmtVer := fmtVer, bytes := coded.length, part := part, block := 0, lost := false, staged := true }

/-- The image's tag holds for page p of stream h under a session key (R564). -/
def parkTagOk (key h p : Nat) (m : T2Image) : Bool :=
  m.key == key && m.aad == parkAad h p m.version m.fmtVer m.bytes

end Sys2Proof.Machine
end

