-- ==== Sys2Proof/Machine/Views.lean ====
section
/-!
DEFINITION. What a command's view shows it (R25, R77): the streams it names, the pages of its attended range with the
slice and form of each, and the loss of pages (R591, R595–R597).
-/

namespace Sys2Proof.Machine

/-! ## Board groups (R529, R536) -/

/-- R529: the shard of a (context, layer). -/
def shardOf (ctx layer : Nat) : Nat :=
  let m := 2 ^ 32
  let h := Nat.xor (Nat.xor (ctx % m * 0x9E3779B1 % m) (ctx / m * 0x85EBCA77 % m)) (layer * 0xC2B2AE3D % m)
  let h := Nat.xor h (h / 2 ^ 15)
  h * 0x2C1B3C6D % m / 2 ^ 16

/-- Fields of a shard entry (Table 13-11); an entry not listed is unassigned. -/
def shardEntry (m : CompMap) (i : Nat) : Nat := mgetD m.shards i (packFields [(0, 16, 0xFFFF), (16, 16, 0xFFFF)])
def shHome (e : Nat) : Nat := bits e 15 0
def shMirror (e : Nat) : Nat := bits e 31 16
def shGroup (e : Nat) : Bool := bit e 39

/-- This node's member index in a map. -/
def selfIndex (s : State) (m : CompMap) : Option Nat := m.members.findIdx? (fun x => x.nodeId == s.crypto.nodeId)

/-- Is the home member of a shard this node, or, for a striped shard, a member of this node's board group (DEDUCED, log 10). -/
def homeHere (s : State) (m : CompMap) (e : Nat) : Bool :=
  match selfIndex s m, m.members[shHome e]? with
  | some i, some hm =>
    shHome e == i || (shGroup e && hm.group != 0xFFFF && ((m.members[i]?).map (fun x => x.group) == some hm.group))
  | _, _ => false

/-- Members of the board group a (context, layer) is striped over, and this node's position in it; (1, 0) when it is not
striped (R536). -/
def stripeOf (s : State) (ctx layer : Nat) : Nat × Nat :=
  match s.maps.cur with
  | none => (1, 0)
  | some m =>
    let e := shardEntry m (shardOf ctx layer)
    match m.members[shHome e]? with
    | some hm => if shGroup e && homeHere s m e then (hm.gsize + 1, s.hw.pos) else (1, 0)
    | none => (1, 0)

/-- Does this node hold page p of a stream of a (context, layer) (R536). -/
def holdsPage (s : State) (ctx layer p : Nat) : Bool :=
  let g := stripeOf s ctx layer
  g.1 ≤ 1 || p % g.1 == g.2

/-- The lead position (R658), and whether this node leads its group. -/
def leadPos (s : State) : Nat := b2n s.hw.leadSel
def isLead (s : State) : Bool := s.hw.pos == leadPos s

/-! ## Lost pages (R591, R597) -/

/-- The cause for which page p of stream h is lost, if it is: its home fenced, or an entry of the lost-page table. -/
def lostCause (s : State) (h p : Nat) : Option Nat :=
  let o := owner s h p
  let i := homeSlice s o p
  let n := s.time.frame
  if fencedAt s (.slice i) n then some 0x01
  else if fencedAt s (.stack (stackOf i)) n then some 0x02
  else mget (hubAt s (hubOfHandle o)).lostPages (t0Key o p)

/-- A lost page's summary is readable when the loss is not of its home nor of the summary itself (R597). -/
def summaryReadable (cause : Nat) : Bool := cause == 0x03 || cause == 0x04 || cause == 0x05 || cause == 0x06

/-! ## Pages in a view -/

/-- A page as a view shows it: index, the stream it resolves to, home slice, entry and its index, loss. -/
structure PageView where
  page : Nat
  own : Nat
  slice : Nat
  idx : Nat
  ent : PageEnt
  lost : Option Nat
  deriving DecidableEq, Repr

def PageView.sealed (p : PageView) : Bool := p.ent.form == 2
def PageView.parked (p : PageView) : Bool := p.ent.form == 3
def PageView.opened (p : PageView) : Bool := p.ent.form == 1

/-- Page p of stream h in view v. -/
def pageView (v : State) (h p : Nat) : Option PageView :=
  (pageEnt v h p).map (fun e => ⟨p, owner v h p, e.1, e.2.1, e.2.2, lostCause v h p⟩)

/-- Does the page wait in T0 as a dirty page (R323). -/
def dirtyPage (s : State) (h p : Nat) : Bool :=
  match t0At s (owner s h p) p with
  | some t => t.dirty
  | none => false

/-- Bounds [LO, HI) of each query row, or tree node, in a stream of visible length V and window W (R127, R159). -/
def rowBounds (h : Hdr) (payload : Bytes) (len win : Nat) : List (Nat × Nat) :=
  if h.isVerify then
    let par := ((payload.take h.rows).map (fun b => b.toNat))
    (treeMask par).map (fun m =>
      (if win = 0 then h.low else max h.low (h.basePos + m.2 + 1 - win), min h.basePos len))
  else
    (List.range h.rows).map (fun j =>
      let hi := if h.limit = 0xFFFFFFFF then len else min (h.limit + j) len
      (if win = 0 then h.low else max h.low (hi - win), hi))

/-- Positions of page p in a row's bounds. -/
def rowHits (b : Nat × Nat) (p : Nat) : Nat := min b.2 (64 * (p + 1)) - max b.1 (64 * p)

/-- The pages that hold a position of some row. -/
def touchedPages (rb : List (Nat × Nat)) : List Nat :=
  let live := rb.filter (fun b => decide (b.1 < b.2))
  match live with
  | [] => []
  | b :: _ =>
    let lo := live.foldl (fun m x => min m x.1) b.1
    let hi := live.foldl (fun m x => max m x.2) b.2
    ((List.range (ceilDiv hi 64 - lo / 64)).map (fun j => lo / 64 + j)).filter (fun p => live.any (fun x => decide (0 < rowHits x p)))

/-- The attended pages of stream x (handle h) that this node holds, ascending. A page that a ring stream has freed is not
there to attend (DEDUCED, log 11). -/
def attendedPages (v : State) (h : Nat) (x : Stream) (rb : List (Nat × Nat)) : List PageView :=
  ((touchedPages rb).filter (fun p => holdsPage v x.ctx x.layer p)).filterMap (fun p => pageView v h p)

/-- Length of page p's rows in a visible length: full when 64. -/
def fullPage (len p : Nat) : Bool := decide (64 * (p + 1) ≤ len)

/-! ## Streams a command names -/

/-- The named streams that exist in the command's partition: KV head, handle, entry. -/
def namedStreams (v : State) (h : Hdr) : List (Nat × Nat × Stream) :=
  h.heads.filterMap (fun k =>
    match lookupStream v h.part h.ctx h.layer k with
    | some x => (streamAt v x).map (fun e => (k, x, e))
    | none => none)

/-- Every named stream exists and is neither retained nor closed (Table 13-12). -/
def allPresent (v : State) (h : Hdr) : Bool :=
  (namedStreams v h).length == h.heads.length && (namedStreams v h).all (fun e => e.2.2.state == 0)

/-- Every named stream exists. -/
def allExist (v : State) (h : Hdr) : Bool := (namedStreams v h).length == h.heads.length

/-- Digest of a stream's identity in the lost-identity table (R358, R565): the leftmost 64 bits of an HMAC under K_jid. -/
def identKey (s : State) (part ctx layer kvh : Nat) : Nat :=
  leNat ((Config.hmacSha384 (jidKey s.hw.secret) (leBytes 1 part ++ leBytes 6 ctx ++ leBytes 1 layer ++ leBytes 1 kvh)).take 8)

/-- Some missing named stream is in the lost-identity table (R359). -/
def missingLost (v : State) (h : Hdr) : Bool :=
  h.heads.any (fun k => (lookupStream v h.part h.ctx h.layer k).isNone &&
    (v.hub0.lostIds.contains (identKey v h.part h.ctx h.layer k) || v.hub1.lostIds.contains (identKey v h.part h.ctx h.layer k)))

/-! ## Lost-range bodies (R596, Table 15-8) -/

/-- Placement width that homes page p of stream o (R343). -/
def placeWidth (s : State) (o p : Nat) : Nat :=
  match streamAt s o with
  | none => 1
  | some x => match migOf s o with
    | some m => if p < m.doneTo then m.awidth else x.width
    | none => x.width

/-- Join a page to the entries: (cause, kvh, slice, stride, first, count). -/
def addRange (acc : List (Nat × Nat × Nat × Nat × Nat × Nat)) (e : Nat × Nat × Nat × Nat × Nat) :
    List (Nat × Nat × Nat × Nat × Nat × Nat) :=
  match acc with
  | [] => [(e.1, e.2.1, e.2.2.1, e.2.2.2.1, e.2.2.2.2, 1)]
  | a :: r =>
    if a.1 = e.1 && a.2.1 = e.2.1 && a.2.2.1 = e.2.2.1 && a.2.2.2.1 = e.2.2.2.1 &&
        e.2.2.2.2 = a.2.2.2.2.1 + a.2.2.2.2.2 * a.2.2.2.1 then
      (a.1, a.2.1, a.2.2.1, a.2.2.2.1, a.2.2.2.2.1, a.2.2.2.2.2 + 1) :: r
    else a :: addRange r e

/-- The body of a `PAGE_LOST` with `RANGES`: pages are (kvh, stream, page, cause), ascending. -/
def lostBody (s : State) (pages : List (Nat × Nat × Nat × Nat)) : Bytes × Nat :=
  let es := pages.map (fun e =>
    let o := owner s e.2.1 e.2.2.1
    (e.2.2.2, e.1, (if e.2.2.2 = 0 then 0x7FFF else homeSlice s o e.2.2.1), placeWidth s o e.2.2.1, e.2.2.1))
  let rs := es.foldl addRange []
  let key := fun (r : Nat × Nat × Nat × Nat × Nat × Nat) => r.2.1 * 2 ^ 18 + r.2.2.2.2.1
  let sorted := sortBy key rs
  (sorted.flatMap (fun r => leBytes 16 (packFields
    [(122, 6, r.1), (116, 6, r.2.1), (100, 15, r.2.2.1), (81, 19, r.2.2.2.2.2), (66, 15, r.2.2.2.1), (48, 18, r.2.2.2.2.1)])),
   sorted.length)

/-! ## Rows written into a page held raw in its slice (R88, R330) -/

/-- The pages that n positions from pos touch: page, first row, rows. -/
def pageParts (fuel pos n : Nat) : List (Nat × Nat × Nat) :=
  match fuel with
  | 0 => []
  | f + 1 =>
    if n = 0 then []
    else
      let k := min n (64 - pos % 64)
      (pos / 64, pos % 64, k) :: pageParts f (pos + k) (n - k)

/-- Byte spans of the raw page that rows a to a + k − 1 occupy, with the scale block on the page's first rows. -/
def rowSpans (fmt dcode a k : Nat) : List (Nat × Nat) :=
  let parts := partDims dcode
  let spans := (List.range parts.length).map (fun j =>
    let w := rowBytes fmt (parts.getD j 0)
    (partOffset fmt dcode j + a * w, k * w))
  if a = 0 && trailerBytes fmt dcode ≠ 0 then spans ++ [(64 * posBytes fmt dcode, trailerBytes fmt dcode)] else spans

/-- Bytes of sector c that spans cover. -/
def sectorCover (spans : List (Nat × Nat)) (c : Nat) : Nat :=
  (spans.map (fun e => min (e.1 + e.2) (512 * (c + 1)) - max e.1 (512 * c))).sum

/-- Sectors that spans touch, with whether they are covered whole. -/
def sectorsOf (spans : List (Nat × Nat)) : List (Nat × Bool) :=
  let top := spans.foldl (fun m e => max m (e.1 + e.2)) 0
  ((List.range (ceilDiv top 512)).map (fun c => (c, sectorCover spans c))).filterMap (fun e =>
    if e.2 = 0 then none else some (e.1, e.2 == 512))

/-- Ordinary bytes of a write of spans: 512 for a whole sector, 1,024 for a read-modify-write (R330, R267). -/
def spanCost (spans : List (Nat × Nat)) : Nat :=
  ((sectorsOf spans).map (fun e => if e.2 then 512 else 1024)).sum

/-! ## Errors that reads find (R264, R579) -/

/-- Report an error to Fife: its unit and its cause of Table 15-1. It is handled within its frame (R579). -/
def report (s : State) (u : RasUnit) (cause data : Nat) : State :=
  { s with ras := { s.ras with reports := s.ras.reports ++ [(u, cause, data)] } }

/-- Why a page cannot be read: the loss cause of Table 15-7, and the chunk. -/
abbrev Bad := Nat × Nat

/-- Report what a read of a page of slice i has met (Table 15-1): a codec fault of the slice, or a row group's sector. -/
def reportBad (s : State) (i : Nat) (b : Bad) (page : Nat) : State :=
  if b.1 = 0x04 then report s (.slice i) 0x04 page else report s (.rowGroup i (b.2 / 3)) 0x03 0

/-- Sectors of an object's first n bytes read through the check path (R259, R263), `lay` laying over sector j the writes that
still wait; the chunk of the first that fails. -/
def readSectors (x : Slice) (i key chunk : Nat) (o : ObjId) (js : List Nat) : Except Nat (List (Nat × Bytes)) :=
  js.foldr (fun j acc =>
    match acc with
    | .error c => .error c
    | .ok l =>
      let c := chunk + j / 8
      let mine := x.ordq.filter (fun w => w.chunk == c && w.sector == j % 8)
      let lay := fun (b : Bytes) => mine.foldl (fun b w => overwrite b w.offset w.data) b
      match readSector x i key chunk o j with
      | some y => .ok ((j, lay y.plain) :: l)
      | none => if mine.any (fun w => w.fresh) then .ok ((j, lay (zeros 512)) :: l) else .error c) (.ok [])

/-- The first n bytes of an object of which only some sectors are read, the rest zeros. -/
def spread (n : Nat) (l : List (Nat × Bytes)) : Bytes :=
  ((List.range (ceilDiv n 512)).flatMap (fun j => match mget l j with
    | some b => fitTo 512 b
    | none => zeros 512)).take n

/-- The raw bytes of an open page whose first k rows lie in its slice (R84, R269). -/
def openRaw (s : State) (x : Stream) (e : PageEnt) (i k : Nat) : Except Nat Bytes :=
  match readSectors (sliceAt s i) i (partKey s x.part) e.chunk ⟨kRows, e.version, x.fmtVer, x.fmt, x.dcode⟩
      ((sectorsOf (rowSpans x.fmt x.dcode 0 k)).map (fun c => c.1)) with
  | .error c => .error c
  | .ok l => .ok (spread (rawSize x.fmt x.dcode) l)

/-- The first k rows of an open page, with its scale block: from T0, or raw in its slice; else the chunk that cannot be read. -/
def openRows (s : State) (x : Stream) (own p : Nat) (e : PageEnt) (i k : Nat) : Except Nat (List Bytes × Bytes) :=
  match t0At s own p with
  | some t => .ok (t.rows.take k, t.trailer)
  | none =>
    if e.openT0 then .ok ([], [])
    else match openRaw s x e i k with
      | .error c => .error c
      | .ok raw => .ok ((pageRows x.fmt x.dcode raw).take k, pageTrailer x.fmt x.dcode raw)

/-! ## Compute capacity (Table 4-3) -/

def capacityOf (fmt : Nat) : Nat := if symWidth fmt = 16 then 24576 else if symWidth fmt = 4 then 98304 else 49152

/-- Chunk-times for a number of multiply-adds; in solstice mode at 7/8 of the capacity (R287). -/
def computeChunks (sol : Bool) (madds capacity : Nat) : Nat :=
  if sol then ceilDiv (8 * madds) (7 * capacity) else ceilDiv madds capacity

/-- k_c of R145 and R163 for `rows` rows per stream. -/
def computeNeed (sol : Bool) (x : Stream) (rows : Nat) : Nat :=
  computeChunks sol (64 * rows * (x.dk + x.dv)) (capacityOf x.fmt)

/-- Summary read size Z (R197). -/
def summaryZ (dcode : Nat) : Nat := ceilDiv (summarySize dcode) 64 * 64

/-- Identity of a summary chunk's sectors; no format applies to it (R261; DEDUCED, log 138). -/
def sumObj : ObjId := ⟨kSummary, 0, 0, 0, 0⟩

/-- A summary record of a page: its sectors read and checked, then the record (R562). -/
def getSummary (s : State) (i : Nat) (x : Stream) (page : Nat) (e : PageEnt) : Option Bytes :=
  let off := e.sumOff * 16
  let n := summarySize x.dcode
  let js := (List.range (ceilDiv (off % 512 + n) 512)).map (fun j => off / 512 + j)
  match readSectors (sliceAt s i) i (partKey s x.part) e.sumChunk sumObj js with
  | .error _ => none
  | .ok l =>
    let bs := slice (spread 4096 l) off n
    let hd := leAt bs 0 28
    if bits hd 127 80 == x.ctx && bits hd 79 72 == x.layer && bits hd 71 66 == x.kvh && bits hd 65 48 == page &&
        bits hd 47 16 == e.version then some bs else none

end Sys2Proof.Machine
end

