-- ==== Sys2Proof/Machine/Checks.lean ====
section
/-!
DEFINITION. Steps 10 to 12 of Table 10-4 and the needs of each opcode (R111, R126, R142, R145, R158–R171, R182–R188, R191,
R197, R204, R222, R251, R320, R326, R327, R331–R334, R341, R351–R355, R374, R386, R390, R597, R627).
-/

namespace Sys2Proof.Machine

/-- What the pass makes of a candidate before it plans: it completes, it is deferred (with pages that gain flush
priority, R327), it ends on a sector that cannot be read (R599), or it goes to planning with its needs. -/
inductive Verdict where
  | done (o : Outcome0)
  | unread (slice : Nat) (b : Bad) (page : Nat) (o : Outcome0)
  | defer (flush : List (Nat × Nat))
  | go (nd : Need)
  deriving DecidableEq, Repr

/-- Complete with a status and a detail in the pass for frame n. -/
def stop (n st det : Nat) : Verdict := .done ⟨st, det, n, 0, 0, [], false⟩

/-- A failure of step 10. -/
def bad10 (n : Nat) : Verdict := stop n stMALFORMED (stepDetail 10 0)

/-- A `PAGE_LOST` with ranges (R596), the pages (kvh, stream, page, cause) ascending. -/
def lostStop (v : State) (n : Nat) (pages : List (Nat × Nat × Nat × Nat)) : Verdict :=
  let b := lostBody v pages
  let f := pages.headD (0, 0, 0, 0)
  .done ⟨stPAGELOST, lossDetail true f.1 f.2.2.2 f.2.2.1, n, b.2, pages.length, b.1, false⟩

/-- Add to a need by slice. -/
def addTo (m : SMap Nat) (i k : Nat) : SMap Nat := if k = 0 then m else mupd m i 0 (fun x => x + k)

/-- A PARK or RESTORE granted in this pass, whose row has yet to run, names the page of a stream. -/
def grantedMove (s : State) (own p : Nat) : Bool :=
  s.adm.cmds.any (fun e => e.2.st == .granted && (e.2.hdr.opcode == opPARK || e.2.hdr.opcode == opRESTORE) &&
    e.2.snaps.any (fun x => owner s x.handle p == own &&
      ((streamAt s x.handle).any (fun y => y.isState) || (decide (e.2.hdr.pageLo ≤ p) && decide (p < e.2.hdr.pageHi)))))

/-- A pending change of form of a page (R341): a job of the page, a change due or granted, or a copy in flight. -/
def pageBusy (s : State) (own p : Nat) : Bool :=
  grantedMove s own p ||
  s.adm.jobs.any (fun j => j.2.handle == own && j.2.page == p && j.2.kind != .rowTest && j.2.kind != .zero) ||
  s.adm.effs.any (fun e => match e.eff with
    | .sealedForm h q _ _ _ _ => h == own && q == p
    | .openInSlice h q _ => h == own && q == p
    | .parked h q => h == own && q == p
    | .restored h q _ _ _ => h == own && q == p
    | _ => false) ||
  (match migOf s own with
   | some m => m.copies.any (fun c => c.1 == p && !c.2)
   | none => false)

/-- A pending change of a state's form (R341): a committing step, a write of the whole, or what a page can have. -/
def stateBusy (s : State) (h : Nat) : Bool :=
  s.adm.effs.any (fun e => match e.eff with
    | .stateStep g _ _ => g == h
    | .stateSet g _ _ => g == h
    | .dropTo g _ _ => g == h
    | .parked g _ => g == h
    | .restored g _ _ _ _ => g == h
    | _ => false) ||
  s.adm.cmds.any (fun e => e.2.st == .granted && e.2.snaps.any (fun x => x.handle == h) &&
    (e.2.hdr.opcode == opPARK || e.2.hdr.opcode == opRESTORE || e.2.hdr.opcode == opDROP || e.2.hdr.opcode == opPUSH ||
      (e.2.hdr.opcode == opSTEP && e.2.hdr.commit))) ||
  (match migOf s h with
   | some m => m.copies.any (fun c => !c.2)
   | none => false)

/-! ## The attending commands (R126, R160, R191) -/

/-- A stream of an attending command with its row bounds and attended pages. -/
structure AttStream where
  kvh : Nat
  h : Nat
  x : Stream
  rb : List (Nat × Nat)
  pages : List PageView
  deriving DecidableEq, Repr

def attStreams (v : State) (c : Cmd) : List AttStream :=
  (namedStreams v c.hdr).map (fun e =>
    let rb := rowBounds c.hdr c.payload e.2.2.length e.2.2.win
    ⟨e.1, e.2.1, e.2.2, rb, attendedPages v e.2.1 e.2.2 rb⟩)

/-- The score program a command uses, as its view has it. -/
def progOf (v : State) (h : Hdr) : Option ProgImage :=
  if h.prog = 0 then none else (mgetD (partAt v h.part).progs h.prog ProgSlot.empty).cur

/-- The image a command's program is, among those of a program cache: a slot's retiring and its current image are two (R304, R306). -/
def imageKey (v : State) (h : Hdr) : Nat :=
  (h.part * 256 + h.prog) * 2 + (mgetD (partAt v h.part).progs h.prog ProgSlot.empty).gen % 2

/-- The blocks a request context's part needs (R167). -/
def poolBlocks (t : Nat) (xs : List Stream) : Nat :=
  ceilDiv (256 + (xs.map (fun x => t * posBytes x.fmt x.dcode + trailerBytes x.fmt x.dcode)).sum) 4096

/-- Payload bytes of an attending command (R124, R158). -/
def attPayload (h : Hdr) (x : Stream) : Nat :=
  let q := (h.nkvh + 1) * x.group * h.rows * x.dk * 2
  if h.isVerify then 64 + q + (h.nkvh + 1) * (h.rows * posBytes x.fmt x.dcode + trailerBytes x.fmt x.dcode) else q

/-- The rules of step 10 for ATTEND, VERIFY and SELECT. -/
def attendRulesOk (v : State) (c : Cmd) : Bool :=
  let h := c.hdr
  let ss := namedStreams v h
  match ss with
  | [] => false
  | e :: _ =>
    let x := e.2.2
    ss.length == h.nkvh + 1 &&
    ss.all (fun e => e.2.2.state == 0 && !e.2.2.isState && e.2.2.group == x.group && e.2.2.dcode == x.dcode &&
      e.2.2.fmt == x.fmt && e.2.2.layout == x.layout) &&
    (x.layout == 0 || (h.kvh == 0 && h.nkvh == 0)) &&
    (h.prog == 0 || (progOf v h).isSome) && c.payload.length == attPayload h x &&
    (if h.isVerify then
      treeOk (c.payload.take 64) h.rows && decide ((h.kvh + h.nkvh + 1) * x.group ≤ 1024) &&
      decide (x.group * h.rows * (4 * x.dv + 16) ≤ 196608) && decide (poolBlocks h.rows (ss.map (fun e => e.2.2)) ≤ 256)
     else decide (x.group * h.rows ≤ 64)) &&
    (!h.isSelect || (match progOf v h with
      | some g => progMaskOnly g.insts
      | none => true))

/-- Step 11 for the pages a near-bank command reads: the lowest page its view holds dirty gives `DIRTY_OPERAND`, or its flush (R326,
R327). Pages are (kvh, owner, page). -/
def dirtyCheck (v : State) (n : Nat) (h : Hdr) (pages : List (Nat × Nat × Nat)) : Option Verdict :=
  let ds := pages.filter (fun e => dirtyPage v e.2.1 e.2.2)
  match ds with
  | [] => none
  | e :: _ =>
    if h.flushFirst then some (.defer (ds.map (fun e => (owner v e.2.1 e.2.2, e.2.2))))
    else some (stop n stDIRTY (packFields [(24, 6, e.1), (0, 18, e.2.2)]))

/-- Step 12 (R204, R205, R597). -/
def missCheck (v : State) (n : Nat) (h : Hdr) (ss : List AttStream) : Option Verdict :=
  let fatal := ss.flatMap (fun a => a.pages.filterMap (fun p => match p.lost with
    | some cs => if summaryReadable cs && h.miss == 1 && !p.opened then none else some (a.kvh, a.h, p.page, cs)
    | none => none))
  let parked := ss.flatMap (fun a => a.pages.filterMap (fun p =>
    if p.parked && p.lost.isNone then some (a.kvh, p.page) else none))
  if !fatal.isEmpty then some (lostStop v n fatal)
  else match parked with
    | [] => none
    | e :: _ =>
      if h.miss = 0 then some (stop n stPAGELOST (packFields [(31, 1, 1), (24, 6, e.1), (0, 18, e.2)]))
      else if h.miss = 2 then some (.defer [])
      else none

/-- A page that is omitted without being ranked: parked, or lost with a readable summary, under omit-and-bound. -/
def PageView.missing (p : PageView) : Bool := p.parked || p.lost.isSome

/-! ### Selection's page sets (R192, R197, R215) -/

/-- The page belongs to E_s: sealed or parked in the view. -/
def PageView.eligible (p : PageView) : Bool := p.sealed || p.parked

/-- N: pages 0 to N − 1 that the stream resolves to in sealed form. -/
def sealedCount (v : State) (h : Nat) (x : Stream) : Nat :=
  sealedFrom (x.pages + 1) v h (max x.sealed x.firstPage) x.pages

def mandatory (h : Hdr) (n p : Nat) : Bool := decide (p < h.sink) || decide (n ≤ p + h.recent)

/-- Is a stream's own index complete in the view (R215). -/
def indexReady (v : State) (own : Nat) : Bool :=
  match mget (hubAt v (hubOfHandle own)).index (idxOfHandle own) with
  | some r => r.complete || r.offAt != 0
  | none => false

/-- A page whose summary the Oboe unit chooses. -/
def prefiltered (v : State) (h : Hdr) (p : PageView) : Bool := h.prefilter && indexReady v p.own

/-- The streams an Oboe search of stream h runs for: itself and its ancestors that eligible pages of the range
resolve to (DEDUCED, log 132). -/
def searched (v : State) (h : Hdr) (a : AttStream) : List Nat :=
  ((a.pages.filter (fun p => p.eligible && prefiltered v h p)).map (fun p => p.own)).eraseDups

/-- Slots of the search window of frame n at the Oboe step fixed for it (R222, Table 6-8); in cascade mode those of this
member (R226). -/
def windowSlots (s : State) (n : Nat) : Nat :=
  let cyc := (bintOf s.time n).1 / 16
  let step := if s.time.bint / 16 < cyc && s.time.decided == cyc then s.oboe.stepNext else s.oboe.step
  let n := [1280, 960, 640, 320].getD step 320
  if s.oboe.casc then (n + s.hw.gsize - s.hw.pos) / (s.hw.gsize + 1) else n

/-! ### Needs -/

/-- Chunks by slice of the pages one stream of ATTEND or VERIFY attends (R111, R145, R163). -/
def attendPages (sol : Bool) (a : AttStream) (rows : Nat) (m : SMap Nat) : SMap Nat :=
  let kc := computeNeed sol a.x rows
  a.pages.foldl (fun m p =>
    if p.missing then m
    else if p.sealed then addTo m p.slice (max kc a.x.chunksMax)
    else if p.ent.openT0 then m
    else addTo m p.slice (max kc a.x.r)) m

/-- Chunks by slice of ATTEND or VERIFY: the summaries of omitted pages of all its streams round up together (R197, R204). -/
def attendChunks (sol : Bool) (h : Hdr) (ss : List AttStream) : SMap Nat :=
  let scans := ss.foldl (fun m a =>
    a.pages.foldl (fun m p => if p.missing then addTo m p.slice (summaryZ a.x.dcode) else m) m) ([] : SMap Nat)
  scans.foldl (fun m e => addTo m e.1 (ceilDiv e.2 4096))
    (ss.foldl (fun m a => attendPages sol a (a.x.group * h.rows) m) [])

/-- Per slice of one stream of SELECT: summary bytes scanned and chunk-times of attended pages (R197). -/
def selectLoad (v : State) (sol : Bool) (h : Hdr) (a : AttStream) (rows : Nat) : SMap (Nat × Nat) :=
  let kc := computeNeed sol a.x rows
  let nseal := sealedCount v a.h a.x
  let es := a.pages.filter (fun p => p.eligible)
  let slices := (es.map (fun p => p.slice)).eraseDups
  let m := slices.foldl (fun m i =>
    let e := es.filter (fun p => p.slice == i)
    let man := e.filter (fun p => mandatory h nseal p.page && !p.missing)
    let rest := e.filter (fun p => !(mandatory h nseal p.page && !p.missing))
    let pre := rest.filter (fun p => prefiltered v h p)
    let full := rest.filter (fun p => !prefiltered v h p)
    let nscan := full.length + min h.candSlice pre.length
    let natt := max man.length (min h.topj e.length)
    mset m i (nscan * summaryZ a.x.dcode, natt * max kc a.x.chunksMax)) []
  a.pages.foldl (fun m p =>
    if p.opened && !p.ent.openT0 then mupd m p.slice (0, 0) (fun e => (e.1, e.2 + max kc a.x.r)) else m) m

/-- Chunks by slice of a SELECT: the scanned bytes of all its streams round up together (R197). -/
def selectChunks (v : State) (sol : Bool) (h : Hdr) (ss : List AttStream) : SMap Nat :=
  let loads := ss.map (fun a => selectLoad v sol h a (a.x.group * h.rows))
  let all := loads.foldl (fun m l => l.foldl (fun m e => mupd m e.1 (0, 0) (fun x => (x.1 + e.2.1, x.2 + e.2.2))) m)
    ([] : SMap (Nat × Nat))
  all.map (fun e => (e.1, ceilDiv e.2.1 4096 + e.2.2))

/-- Carry bytes by slice: one stream's rows for each stream with pages on the slice (R142). -/
def carryNeed (h : Hdr) (ss : List AttStream) : SMap Nat :=
  ss.foldl (fun m a =>
    ((a.pages.filter (fun p => !(p.opened && p.ent.openT0))).map (fun p => p.slice)).eraseDups.foldl
      (fun m i => addTo m i (a.x.group * h.rows * (4 * a.x.dv + 16))) m) []

/-- Depth sum of a tree, plus one per node (R163). -/
def treeWork (h : Hdr) (payload : Bytes) : Nat :=
  ((treeMask ((payload.take h.rows).map (fun b => b.toNat))).map (fun m => m.2 + 1)).sum

/-- Merge-core cycles of one stream: attend part and fold part (R390). -/
def mergeNeed (s : State) (c : Cmd) (a : AttStream) : Nat × Nat :=
  let h := c.hdr
  let rs := a.x.group * h.rows
  let opens := a.pages.filter (fun p => p.opened && !p.missing)
  let t0 := (opens.filter (fun p => p.ent.openT0)).length
  let att := t0 * ceilDiv (64 * rs * (a.x.dk + a.x.dv)) 32
  let att := if h.isVerify then att + ceilDiv (a.x.group * treeWork h c.payload * (a.x.dk + a.x.dv)) 32 else att
  let slices := ((a.pages.filter (fun p => !p.missing && !(p.opened && p.ent.openT0))).map (fun p => p.slice)).eraseDups.length
  let st := stripeOf s a.x.ctx a.x.layer
  let peers := if 1 < st.1 && isLead s then st.1 - 1 else 0
  let nparts := slices + opens.length + (if h.isVerify then 1 else 0) + peers
  (att, rs * nparts * (ceilDiv a.x.dv 32 + 1))

/-- Bytes of one record (R146). -/
def recordSize (h : Hdr) (dv : Nat) : Nat := 20 + (if h.outBf16 then 2 else 4) * dv

/-- Packets of a message on a connection (R490). -/
def packetsFor (s : State) (conn bytes : Nat) : Nat :=
  match mget s.conns conn with
  | some x => ceilDiv bytes x.mps
  | none => 0

/-- The needs of ATTEND, VERIFY and SELECT. -/
def attendNeed (s v : State) (c : Cmd) (ss : List AttStream) : Need :=
  let h := c.hdr
  let sol := (partAt v h.part).solstice
  let chunks := if h.isSelect then selectChunks v sol h ss
    else attendChunks sol h ss
  let ms := ss.map (fun a => (a.x.home, mergeNeed s c a))
  let sumOf := fun (hub : Nat) (f : Nat × Nat → Nat) => ((ms.filter (fun e => e.1 == hub)).map (fun e => f e.2)).sum
  let recs := (ss.map (fun a => a.x.group * h.rows * recordSize h a.x.dv)).sum
  { Need.zero h.part with
    chunks := chunks
    carry := carryNeed h ss
    image := if h.prog = 0 then none else some (imageKey v h)
    att0 := sumOf 0 (fun e => e.1)
    att1 := sumOf 1 (fun e => e.1)
    fold0 := sumOf 0 (fun e => e.2)
    fold1 := sumOf 1 (fun e => e.2)
    search := (ss.map (fun a => h.probes * (searched v h a).length)).sum
    conn := c.conn
    packets := if c.noreply then 0 else packetsFor s c.conn (32 + recs) }

/-! ### The request-context pool (R164–R167) -/

/-- Blocks used in a region of a hub's pool. -/
def regionUsed (s : State) (hub r : Nat) : Nat :=
  ((hubAt s hub).ctxs.map (fun e => if e.2.region0 = r then e.2.blocks0 else 0)).sum +
  ((hubAt s (1 - hub)).ctxs.map (fun e => if e.2.slot1.isSome && e.2.region1 == r then e.2.blocks1 else 0)).sum

/-- A region that can take a context of so many blocks. -/
def regionFor (s : State) (hub blocks : Nat) : Option Nat :=
  (List.range (hubAt s hub).vsize).find? (fun r =>
    !(hubAt s hub).poolBad.contains r && decide (regionUsed s hub r + blocks ≤ 256))

/-- Slots of a hub in use, with those that hold the second part of the other hub's contexts. -/
def slotsUsed (s : State) (hub : Nat) : List Nat :=
  (hubAt s hub).ctxs.map (fun e => e.1) ++ (hubAt s (1 - hub)).ctxs.filterMap (fun e => e.2.slot1)

def slotFor (s : State) (hub : Nat) : Option Nat :=
  let used := slotsUsed s hub
  (List.range 4096).find? (fun i => !used.contains i)

/-- Where the parts of a VERIFY's context go: (hub, region, slot, blocks) for each part. -/
def poolPlace (s : State) (h : Hdr) (ss : List (Nat × Nat × Stream)) : Option (List (Nat × Nat × Nat × Nat)) :=
  let hubs := (ss.map (fun e => e.2.2.home)).eraseDups
  (hubs.map (fun hub =>
    let b := poolBlocks h.rows ((ss.filter (fun e => e.2.2.home == hub)).map (fun e => e.2.2))
    if !(hubAt s hub).ven || decide (quotaLeft s h.part hub < b) then none
    else match regionFor s hub b, slotFor s hub with
      | some r, some sl => some (hub, r, sl, b)
      | _, _ => none)).foldr (fun a acc => match a, acc with
        | some a, some l => some (a :: l)
        | _, _ => none) (some [])

/-- A full page in open form (R156). -/
def fullOpen (v : State) (h : Nat) (x : Stream) : Bool :=
  (List.range (x.length / 64 - x.firstPage)).any (fun j =>
    match pageEnt v h (x.firstPage + j) with
    | some e => e.2.2.form == 1
    | none => false)

def checkAttend (s v : State) (n : Nat) (c : Cmd) : Verdict :=
  if !attendRulesOk v c then bad10 n
  else
    let h := c.hdr
    let ss := attStreams v c
    match dirtyCheck v n h (ss.flatMap (fun a => a.pages.map (fun p => (a.kvh, a.h, p.page)))) with
    | some r => r
    | none =>
      match missCheck v n h ss with
      | some r => r
      | none =>
        let nd := attendNeed s v c ss
        if h.prefilter && decide (windowSlots s n < nd.search) then stop n stNOBUDGET 0
        else if h.prefilter && !s.oboe.en then .defer []
        else if h.sealWait && ss.any (fun a => fullOpen v a.h a.x) then .defer []
        else if h.isVerify && (poolPlace s h (namedStreams v h)).isNone then .defer []
        else .go nd

/-! ## Writers (R374, R386, R172) -/

/-- Rows to write to one stream: KV head, handle, entry, first position, rows, scale block. -/
structure WriteRows where
  kvh : Nat
  h : Nat
  x : Stream
  pos : Nat
  rows : List Bytes
  trailer : Bytes
  deriving DecidableEq, Repr

/-- Split an APPEND payload by stream (R385). -/
def appendRows (ss : List (Nat × Nat × Stream)) (pos npos : Nat) (payload : Bytes) : List WriteRows :=
  (ss.foldl (fun (acc : List WriteRows × Bytes) e =>
    let t := trailerBytes e.2.2.fmt e.2.2.dcode
    let r := posBytes e.2.2.fmt e.2.2.dcode
    let body := acc.2.drop t
    (acc.1 ++ [⟨e.1, e.2.1, e.2.2, pos, chunksOf npos r (body.take (npos * r)), acc.2.take t⟩], body.drop (npos * r)))
    ([], payload)).1

/-- The payload length of R385. -/
def appendLen (ss : List (Nat × Nat × Stream)) (npos : Nat) : Nat :=
  (ss.map (fun e => trailerBytes e.2.2.fmt e.2.2.dcode + npos * posBytes e.2.2.fmt e.2.2.dcode)).sum

/-- Pages in open form of a stream in a view (R77, R91). -/
def openCount (s : State) (h : Nat) (x : Stream) (top : Nat) : Nat :=
  ((List.range (top - x.firstPage)).filter (fun j =>
    match pageEnt s h (x.firstPage + j) with
    | some e => e.2.2.form == 1
    | none => false)).length

/-- What one stream's rows need: pages it opens, in-slice cost by slice, pages it fills in T0. -/
def writeParts (s : State) (w : WriteRows) : List (Nat × Nat × Nat) :=
  (pageParts 4097 w.pos w.rows.length).filter (fun e => holdsPage s w.x.ctx w.x.layer e.1)

/-- Lies page p of stream h in T0, or will it open there. -/
def inT0 (s : State) (h : Nat) (x : Stream) (p : Nat) : Bool :=
  match pageEnt s h p with
  | some e => e.2.2.openT0
  | none => opensInT0 s x

/-- Once the pages that open are open: ordinary bytes by slice of rows written into slices, and tiles by hub of pages filled in T0 (R88, R251). -/
def rowsNeed (s : State) (nd : Need) (w : WriteRows) : Need :=
  (writeParts s w).foldl (fun nd e =>
    let nd := if inT0 s w.h w.x e.1 then nd
      else { nd with ord := addTo nd.ord (homeSlice s w.h e.1) (spanCost (rowSpans w.x.fmt w.x.dcode e.2.1 e.2.2)) }
    if e.2.1 + e.2.2 = 64 && inT0 s w.h w.x e.1 then
      if w.x.home = 1 then { nd with tiles1 := nd.tiles1 + blockCount w.x.dcode }
      else { nd with tiles0 := nd.tiles0 + blockCount w.x.dcode }
    else nd) nd

/-- Open every page the rows need, in order; none when a reservation fails (R86, R87). -/
def openAll (s : State) (ws : List WriteRows) : Option State :=
  (ws.flatMap (fun w => (writeParts s w).filterMap (fun e => if e.2.1 = 0 then some (w, e.1) else none))).foldl
    (fun o e => match o with
      | none => none
      | some s => openPage s e.1.h e.1.x (homeSlice s e.1.h e.2) e.2 (opensInT0 s e.1.x)) (some s)

/-- Homes of the pages the rows touch that are fenced (R599). -/
def fencedHomes (v : State) (ws : List WriteRows) : List (Nat × Nat × Nat × Nat) :=
  ws.flatMap (fun w => (writeParts v w).filterMap (fun e => (lostCause v w.h e.1).map (fun cs => (w.kvh, w.h, e.1, cs))))

/-- Scales differ from those already stored for the page (R85). -/
def scalesClash (s v : State) (w : WriteRows) : Bool :=
  w.pos % 64 != 0 && w.trailer != [] &&
  (match pageEnt v w.h (w.pos / 64) with
   | some e => (match openRows s w.x w.h (w.pos / 64) e.2.2 e.1 0 with
      | .ok r => r.2 != w.trailer
      | .error _ => false)
   | none => false)

/-- The scale block of the page the rows go to cannot be read: slice, KV head, page and chunk. -/
def scalesUnread (s v : State) (w : WriteRows) : Option (Nat × Nat × Nat × Nat) :=
  if w.pos % 64 = 0 || w.trailer = [] then none
  else match pageEnt v w.h (w.pos / 64) with
    | none => none
    | some e => match openRows s w.x w.h (w.pos / 64) e.2.2 e.1 0 with
      | .ok _ => none
      | .error c => some (e.1, w.kvh, w.pos / 64, c)

/-- The writers' common part once their rules hold: fenced homes, a third open page (R91), a page being copied (R344),
reservations that fail (R87), and the needs. -/
def checkRows (s v : State) (n : Nat) (ws : List WriteRows) (nd : Need) : Verdict :=
  let lost := fencedHomes v ws
  if !lost.isEmpty then lostStop v n lost
  else match ws.findSome? (scalesUnread s v) with
  | some (i, k, p, c) => .unread i (0x03, c) p ⟨stINTEGRITY, lossDetail false k 0x03 p, n, 0, 0, [], false⟩
  | none =>
  if ws.any (fun w => decide (2 < openCount v w.h w.x (w.pos / 64 + 1) +
      ((writeParts s w).filter (fun e => e.2.1 == 0)).length)) then .defer []
  else if ws.any (fun w => (migOf s w.h).isSome && w.pos % 64 != 0 && pageBusy s w.h (w.pos / 64)) then .defer []
  else match openAll s ws with
    | none => stop n stNOBUDGET 0
    | some t => .go (ws.foldl (rowsNeed t) nd)

/-- The streams of a writer have the form R386 asks for. -/
def writerStreamsOk (v : State) (h : Hdr) : Bool :=
  let ss := namedStreams v h
  ss.length == h.nkvh + 1 && ss.all (fun e => e.2.2.state == 0 && !e.2.2.isState &&
    (e.2.2.layout == 0 || (h.kvh == 0 && h.nkvh == 0)))

/-- A writer's position is the length of every stream it names (R76, R386). -/
def atLength (v : State) (h : Hdr) : Bool := (namedStreams v h).all (fun e => e.2.2.length == h.pos)

/-- The checks of an APPEND that do not rest on `LENGTH`. -/
def appendForm (v : State) (c : Cmd) : Bool :=
  writerStreamsOk v c.hdr && c.payload.length == appendLen (namedStreams v c.hdr) c.hdr.npos

def checkAppend (s v : State) (n : Nat) (c : Cmd) : Verdict :=
  let ws := appendRows (namedStreams v c.hdr) c.hdr.pos c.hdr.npos c.payload
  if !appendForm v c || !atLength v c.hdr || ws.any (scalesClash s v) then bad10 n
  else checkRows s v n ws (Need.zero c.hdr.part)

/-- The accepted path is a chain from depth 0 (R170). -/
def pathOk (x : ReqCtx) (path : List Nat) : Bool :=
  (path.foldl (fun (acc : Bool × Nat) k =>
    (acc.1 && decide (k < x.parents.length) && x.parents.getD k 0 == acc.2, k)) (true, 0xFF)).1

/-- The rows of an accepted path, by stream (R172). -/
def acceptRows (v : State) (x : ReqCtx) (path : List Nat) : List WriteRows :=
  (List.range (x.nkvh + 1)).filterMap (fun j =>
    match lookupStream v x.part x.ctx x.layer (x.h0 + j) with
    | none => none
    | some h => (streamAt v h).map (fun st =>
      let rs := x.rows.getD j ([], [])
      ⟨x.h0 + j, h, st, x.basePos, path.map (fun k => rs.1.getD k []), rs.2⟩))

/-- The checks of an ACCEPT against the context it names. -/
def acceptForm (x : ReqCtx) (c : Cmd) : Bool :=
  allZero (c.payload.drop c.hdr.acount) && x.ctx == c.hdr.ctx && x.layer == c.hdr.layer && x.h0 == c.hdr.kvh &&
    pathOk x ((c.payload.take c.hdr.acount).map (fun b => b.toNat))

def checkAccept (s v : State) (n : Nat) (c : Cmd) : Verdict :=
  match findCtx s c with
  | .error d => stop n stCTXLOST d
  | .ok (_, _, x) =>
    let a := c.hdr.acount
    let path := (c.payload.take a).map (fun b => b.toNat)
    if !acceptForm x c then bad10 n
    else if x.expiry < n then stop n stCTXLOST 3
    else if x.under then .defer []
    else
      let ws := acceptRows v x path
      if ws.length != x.nkvh + 1 || ws.any (fun w => w.x.state != 0) then bad10 n
      else if a = 0 then .go (Need.zero c.hdr.part)
      else if ws.any (fun w => w.x.length != x.basePos || scalesClash s v w) then bad10 n
      else checkRows s v n ws (Need.zero c.hdr.part)

/-! ### WRITE and PUSH_LAYER (R319–R322, R539–R542) -/

/-- The pages of a WRITE: page, scale block, rows. -/
def writePages (fuel : Nat) (x : Stream) (pos n : Nat) (payload : Bytes) : List (Nat × Bytes × List Bytes) :=
  match fuel with
  | 0 => []
  | f + 1 =>
    if n = 0 then []
    else
      let k := min n 64
      let t := trailerBytes x.fmt x.dcode
      let r := posBytes x.fmt x.dcode
      let body := payload.drop t
      (pos / 64, payload.take t, chunksOf k r (body.take (k * r))) :: writePages f x (pos + k) (n - k) (body.drop (k * r))

def writeLen (x : Stream) (npos : Nat) : Nat :=
  ceilDiv npos 64 * trailerBytes x.fmt x.dcode + npos * posBytes x.fmt x.dcode

/-- An entry of a PUSH_LAYER payload: its header's fields and image. -/
def pushEntries (fuel : Nat) (payload : Bytes) : List (Nat × Nat × Nat × Bytes) :=
  match fuel with
  | 0 => []
  | f + 1 =>
    if payload.length < 16 then []
    else
      let hd := leAt payload 0 16
      let n := bits hd 95 64
      (bits hd 17 0, bits hd 35 33, bits hd 46 40, slice payload 16 n) :: pushEntries f (payload.drop (16 + n))

/-- Total bytes of the entries of a payload. -/
def pushBytes (es : List (Nat × Nat × Nat × Bytes)) : Nat := (es.map (fun e => 16 + e.2.2.2.length)).sum

/-- Decode one entry of a stream: its page, scale block and rows; `last` allows the raw forms (R540). -/
def pushPage (pfv : Nat) (x : Stream) (last : Bool) (lastRows : Nat) (e : Nat × Nat × Nat × Bytes) : Option (Bytes × List Bytes) :=
  let kind := (byteAt e.2.2.2 0).toNat
  let okForm := (e.2.1 == 1 && (kind == 1 || kind == 2 || kind == 3) && (!last || lastRows == 64)) ||
    (last && (e.2.1 == 2 || e.2.1 == 3 || e.2.1 == 4) && kind == 3 && e.2.2.1 == lastRows)
  if !okForm then none
  else match decodeImage x.fmt x.dcode pfv e.2.2.2 with
    | none => none
    | some raw => some (pageTrailer x.fmt x.dcode raw, (pageRows x.fmt x.dcode raw).take (if last then lastRows else 64))

/-- Decode the entries of all streams of a PUSH_LAYER: (stream index, page, scale block, rows). -/
def pushPages (pfv : Nat) (ss : List (Nat × Nat × Stream)) (h : Hdr) (es : List (Nat × Nat × Nat × Bytes)) :
    Option (List (Nat × Nat × Bytes × List Bytes)) :=
  ((List.range ss.length).flatMap (fun j => (List.range h.npage).map (fun q => (j, q)))).foldr (fun (e : Nat × Nat) acc =>
    match acc, ss[e.1]?, es[e.1 * h.npage + e.2]? with
    | some l, some st, some en =>
      let p := h.pos / 64 + e.2
      if en.1 != p then none
      else match pushPage pfv st.2.2 (e.2 + 1 == h.npage) h.lastRows en with
        | some r => some ((e.1, p, r.1, r.2) :: l)
        | none => none
    | _, _, _ => none) (some [])

/-- One page placed in T0 as a dirty page or as an open page (R321): stream, page, scale block, rows. -/
structure DirtyPage where
  kvh : Nat
  h : Nat
  x : Stream
  p : Nat
  trailer : Bytes
  rows : List Bytes
  deriving DecidableEq, Repr

/-- Place the pages of a WRITE: chunks on the home slice, T0 space for each; none when an opening reservation fails
(R87), with the quota's lack told apart as `some none` (R318). -/
def placeDirty (s : State) (d : DirtyPage) : Option (Option State) :=
  let i := homeSlice s d.h d.p
  let full := d.rows.length == 64
  if full then
    if quotaLeft s d.x.part d.x.home < d.x.r then some none
    else
      match reservePage (sliceAt s i) d.h d.x.part d.p d.x.r (summarySize d.x.dcode) true with
      | none => none
      | some (e, ent, sl) =>
        let s := { s with slices := mset s.slices i (linkEnt s i sl d.h e ent) }
        let s := updT0 s d.h d.p (fun _ => some ⟨d.rows, d.trailer, true, none, 0⟩)
        some (some (nearFullCheck (takeT0 s d.x.part d.x.home d.x.r) i))
  else if opensInT0 s d.x then
    match openPage s d.h d.x i d.p true with
    | none => none
    | some s => some (some (updT0 s d.h d.p (fun _ => some ⟨d.rows, d.trailer, false, none, 0⟩)))
  else if quotaLeft s d.x.part d.x.home < d.x.r then some none
  else
    match openPage s d.h d.x i d.p false with
    | none => none
    | some s =>
      let s := updT0 s d.h d.p (fun _ => some ⟨d.rows, d.trailer, true, none, 0⟩)
      some (some (takeT0 s d.x.part d.x.home d.x.r))

/-- Place all pages of a command, in order. -/
def placeAll (s : State) (ds : List DirtyPage) : Option (Option State) :=
  ds.foldl (fun o d => match o with
    | some (some s) => placeDirty s d
    | x => x) (some (some s))

/-- The pages a WRITE or PUSH_LAYER places, when its rules but for `LENGTH` hold. -/
def dirtyForm (v : State) (c : Cmd) : Option (List DirtyPage) :=
  let h := c.hdr
  let ss := namedStreams v h
  if !writerStreamsOk v h || h.pos % 64 != 0 then none
  else if h.opcode = opWRITE then
    match ss with
    | [e] =>
      if c.payload.length != writeLen e.2.2 h.npos then none
      else some ((writePages 4097 e.2.2 h.pos h.npos c.payload).map (fun q => ⟨e.1, e.2.1, e.2.2, q.1, q.2.1, q.2.2⟩))
    | _ => none
  else
    let es := pushEntries (ss.length * h.npage) c.payload
    if es.length != ss.length * h.npage || pushBytes es != c.payload.length ||
        decide (16777216 < h.pos + 64 * (h.npage - 1) + h.lastRows) then none
    else match pushPages (ownPfv v) ss h es with
      | none => none
      | some ps => some (ps.filterMap (fun q => (ss[q.1]?).map (fun e => ⟨e.1, e.2.1, e.2.2, q.2.1, q.2.2.1, q.2.2.2⟩)))

/-- The pages a WRITE or PUSH_LAYER places, when its rules hold. -/
def dirtyPages (v : State) (c : Cmd) : Option (List DirtyPage) := if atLength v c.hdr then dirtyForm v c else none

/-- The pages of those this node holds (R536). -/
def heldDirty (v : State) (ds : List DirtyPage) : List DirtyPage := ds.filter (fun d => holdsPage v d.x.ctx d.x.layer d.p)

/-- PUSH_LAYER of a state (R542): its one entry's half, when its rules but for `LENGTH` hold. -/
def pushForm (v : State) (c : Cmd) : Option (Nat × Stream × Bytes) :=
  match namedStreams v c.hdr with
  | [e] =>
    let es := pushEntries 1 c.payload
    match es with
    | [en] =>
      if e.2.2.isState && e.2.2.state == 0 && c.hdr.npage == 1 && c.hdr.lastRows == 64 &&
          en.2.1 == 5 && pushBytes es == c.payload.length && en.2.2.2.length == 4096 * e.2.2.stateChunks then
        some (e.2.1, e.2.2, en.2.2.2)
      else none
    | _ => none
  | _ => none

/-- PUSH_LAYER of a state, when its rules hold. -/
def pushState (v : State) (c : Cmd) : Option (Nat × Stream × Bytes) :=
  match pushForm v c with
  | some r => if r.2.1.length = 0 then some r else none
  | none => none

/-- Does a command push a state? -/
def pushesState (v : State) (c : Cmd) : Bool := c.hdr.opcode == opPUSH && (namedStreams v c.hdr).any (fun e => e.2.2.isState)

/-- Tiles that write-back still wants on a hub: full dirty pages that wait for coding (R324). -/
def writeBackTiles (s : State) (hub : Nat) : Nat :=
  (s.adm.jobs.map (fun e =>
    if e.2.kind == .code && e.2.source == 1 && hubOfHandle e.2.handle == hub then
      (streamAt s e.2.handle).elim 0 (fun x => blockCount x.dcode)
    else 0)).sum

/-- Tiles by hub as a need of unreserved tiles (R252, R325). -/
def freeTiles (s : State) (need0 need1 : Nat) : List (Nat × Nat × Nat) :=
  (if need0 = 0 then [] else [(0, need0, writeBackTiles s 0)]) ++ (if need1 = 0 then [] else [(1, need1, writeBackTiles s 1)])

/-- Tiles the low-rank images of a PUSH_LAYER take on a hub, for the pages this node holds (R252). -/
def lowRankTiles (v : State) (c : Cmd) (hub : Nat) : Nat :=
  let ss := namedStreams v c.hdr
  let es := pushEntries (ss.length * c.hdr.npage) c.payload
  if c.hdr.opcode != opPUSH then 0
  else (es.zipIdx.map (fun e =>
    match ss[e.2 / c.hdr.npage]? with
    | some t => if t.2.2.home == hub && (byteAt e.1.2.2.2 0).toNat == 2 && holdsPage v t.2.2.ctx t.2.2.layer e.1.1 then
        blockCount t.2.2.dcode else 0
    | none => 0)).sum

def checkWrite (s v : State) (n : Nat) (c : Cmd) : Verdict :=
  if pushesState v c then
    match pushState v c with
    | none => bad10 n
    | some (h, x, _) =>
      match lostCause v h 0 with
      | some cs => lostStop v n [(c.hdr.kvh, h, 0, cs)]
      | none => .go { Need.zero c.hdr.part with seqs := [(homeSlice v h 0, x.stateChunks)] }
  else
    match dirtyPages v c with
    | none => bad10 n
    | some ds =>
      let held := heldDirty v ds
      let lost := held.filterMap (fun d => (lostCause v d.h d.p).map (fun cs => (d.kvh, d.h, d.p, cs)))
      if !lost.isEmpty then lostStop v n lost
      else match placeAll s held with
        | none => stop n stNOBUDGET 0
        | some none => .defer []
        | some (some _) => .go (Need.zero c.hdr.part)

/-! ## STATE_STEP (R181–R188) -/

/-- P of R185. -/
def stepP (sol : Bool) (h : Hdr) (x : Stream) : Nat :=
  max x.stateChunks (computeChunks sol (h.tok * (3 + h.stepMode) * x.dk * x.dv) 24576)

/-- K of R185. -/
def stepK (sol : Bool) (h : Hdr) (x : Stream) : Nat := stepP sol h x + (if h.commit then x.stateChunks else 0)

/-- The pad bytes of every entry are 0 (R182). -/
def stepPadOk (dk dv : Nat) (payload : Bytes) : Bool :=
  let e := stepInBytes dk dv
  (List.range (payload.length / e)).all (fun j => allZero (slice payload (j * e + e - 4) 4))

/-- The checks of a STATE_STEP that do not rest on `LENGTH` (R181, R182). -/
def stepForm (v : State) (c : Cmd) : Bool :=
  let h := c.hdr
  let ss := namedStreams v h
  match ss with
  | [] => false
  | e :: _ =>
    let x := e.2.2
    ss.length == h.nkvh + 1 &&
      ss.all (fun e => e.2.2.state == 0 && e.2.2.isState && e.2.2.dcode == x.dcode && e.2.2.fmt == x.fmt) &&
      c.payload.length == (h.nkvh + 1) * h.tok * stepInBytes x.dk x.dv && stepPadOk x.dk x.dv c.payload &&
      decide (stepK (partAt v h.part).solstice h x ≤ 512)

/-- A state whose blocks are parked. -/
def parkedState (v : State) (h : Nat) : Bool := (entsIn (sliceAt v (homeSlice v h 0)) h).any (fun e => e.2.form == 3)

/-- A command that needs a parked page outside the miss policies, or a parked state, ends with `PAGE_LOST` (R113). -/
def parkedStop (n kvh p : Nat) : Verdict := stop n stPAGELOST (packFields [(31, 1, 1), (24, 6, kvh), (0, 18, p)])

/-- A PARK or RESTORE of a state is under way, and its form is to change (R341). -/
def stateMoving (s : State) (h : Nat) : Bool :=
  grantedMove s h 0 || s.adm.effs.any (fun e => match e.eff with
    | .parked g _ => g == h
    | .restored g _ _ _ _ => g == h
    | _ => false)

def checkStep (s v : State) (n : Nat) (c : Cmd) : Verdict :=
  let h := c.hdr
  let ss := namedStreams v h
  match ss with
  | [] => bad10 n
  | e :: _ =>
    let x := e.2.2
    let sol := (partAt v h.part).solstice
    if !stepForm v c || ss.any (fun e => e.2.2.length != h.stepPos) then bad10 n
    else
      let lost := ss.filterMap (fun e => (lostCause v e.2.1 0).map (fun cs => (e.1, e.2.1, 0, cs)))
      if !lost.isEmpty then lostStop v n lost
      else match ss.find? (fun e => parkedState v e.2.1) with
      | some e => parkedStop n e.1 0
      | none =>
        if ss.any (fun e => stateMoving s e.2.1) then .defer []
        else
        .go { Need.zero h.part with
          seqs := ss.map (fun e => (homeSlice v e.2.1 0, stepK sol h x))
          conn := c.conn
          packets := if c.noreply then 0 else packetsFor v c.conn (32 + (h.nkvh + 1) * h.tok * (8 + 4 * x.dv))
          outAt := stepP sol h x }

/-! ## Movement (R333–R336, R342–R355) -/

/-- The one stream a command names, when it exists and is open. -/
def oneStream (v : State) (h : Hdr) : Option (Nat × Stream) :=
  match namedStreams v h with
  | [e] => if e.2.2.state = 0 then some (e.2.1, e.2.2) else none
  | _ => none

/-- The blocks of a state as pages of a view. -/
def blockViews (v : State) (hd : Nat) : List PageView :=
  (entsIn (sliceAt v (homeSlice v hd 0)) hd).map (fun e => ⟨e.2.page, hd, homeSlice v hd 0, e.1, e.2, lostCause v hd 0⟩)

/-- Chunks that a page's or a state block's current form occupies. -/
def formChunks (x : Stream) (e : PageEnt) : Nat := if x.isState then (e.nchunk + 1) / 2 else e.nchunk + 1

/-- A state moves whole (Table 5-14): its page range is empty, as READ's, or covers its blocks (DEDUCED, log 156). -/
def stateRange (v : State) (h : Hdr) (hd : Nat) : Bool :=
  h.pageLo == 0 && (h.pageHi == 0 || h.pageHi == (blockViews v hd).length)

/-- The sequences that move pages: one for each page, one for a state. -/
def moveSeqs (x : Stream) (mv : List PageView) : List (Nat × Nat) :=
  if x.isState then (mv.head?.map (fun p => (p.slice, (mv.map (fun p => formChunks x p.ent)).sum))).toList
  else mv.map (fun p => (p.slice, formChunks x p.ent))

/-- Pages of a page range that this node holds; the blocks of a state. -/
def rangePages (v : State) (h : Hdr) (hd : Nat) (x : Stream) : List PageView :=
  if x.isState then blockViews v hd
  else (List.range (h.pageHi - h.pageLo)).filterMap (fun j =>
    if holdsPage v x.ctx x.layer (h.pageLo + j) then pageView v hd (h.pageLo + j) else none)

/-- Chunks holding rows 0 to k − 1 of a raw page. -/
def rowChunks (fmt dcode k : Nat) : Nat := ((sectorsOf (rowSpans fmt dcode 0 k)).map (fun c => c.1 / 8)).eraseDups.length

/-- Bytes of a page's entry in a READ's body (Table 9-6): a sealed page's image is as long as its summary says. -/
def readBytes (v : State) (x : Stream) (p : PageView) : Nat :=
  if p.parked then 16
  else if p.sealed then 32 + ((getSummary v p.slice x p.page p.ent).elim (rawSize x.fmt x.dcode) sumCodedBytes)
  else 32 + rawSize x.fmt x.dcode

/-- READ (R333, R334): of a page open in its slice every sector of the chunks its rows lie in; an image in another format version
takes compressor tiles (R651; DEDUCED, log 37). -/
def checkRead (s v : State) (n : Nat) (c : Cmd) : Verdict :=
  let h := c.hdr
  match oneStream v h with
  | none => bad10 n
  | some (hd, x) =>
    let stOk := if x.isState then h.pageHi == 0 && h.pageLo == 0 else decide (h.pageLo < h.pageHi) && decide (h.pageHi ≤ x.pages)
    if !stOk then bad10 n
    else
      let ps := if x.isState then [] else rangePages v h hd x
      let lost := if x.isState then (match lostCause v hd 0 with
          | some cs => [(h.kvh, hd, 0, cs)]
          | none => [])
        else ps.filterMap (fun p => if p.lost.isSome && !(p.parked && p.lost == some 5) then
          some (h.kvh, hd, p.page, p.lost.getD 0) else none)
      if !lost.isEmpty then lostStop v n lost
      else
        let reads := if x.isState then
            (if (entsIn (sliceAt v (homeSlice v hd 0)) hd).all (fun e => e.2.form == 1) then []
             else [(homeSlice v hd 0, 4096 * x.stateChunks)])
          else ps.foldl (fun m p =>
            if p.sealed then addTo m p.slice (4096 * (p.ent.nchunk + 1))
            else if p.opened && !p.ent.openT0 && (t0At s p.own p.page).isNone then
              addTo m p.slice (4096 * rowChunks x.fmt x.dcode (min 64 (x.length - 64 * p.page)))
            else m) []
        let recode := if x.isState || floorPfv s = x.fmtVer then 0
          else blockCount x.dcode * (ps.filter (fun p => p.sealed && !p.parked)).length
        let nd := { Need.zero h.part with
          reads := reads
          lr := freeTiles s (if x.home = 1 then 0 else recode) (if x.home = 1 then recode else 0) }
        if 16777216 < (if x.isState then 16 + 4096 * x.stateChunks else (ps.map (readBytes v x)).sum) then bad10 n
        else if !reads.isEmpty && (planReads s 64 reads n 1).isNone then stop n stNOBUDGET 0
        else .go nd

/-- Usable bytes of a hub's T2 that hold no parked data or staged program (Table 9-13), by granules of 16 KiB. -/
def t2Free (s : State) (hub : Nat) : Nat :=
  (hubAt s hub).t2usable * 10 ^ 9 - 16384 * ((ftlAt s hub).images.map (fun e => ceilDiv e.2.bytes 16384)).sum

/-- The sealed pages a PARK moves, in its view: pages already parked are skipped (R351). -/
def parkPages (v : State) (h : Hdr) : Option (Stream × List PageView) :=
  (oneStream v h).map (fun e => (e.2, (rangePages v h e.1 e.2).filter (fun p => p.sealed)))

/-- Staging bytes and T2 granules that granted PARKs of a hub whose rows have not run have reserved (R352). -/
def parkReserved (s : State) (hub : Nat) : Nat × Nat :=
  let ps := s.adm.cmds.flatMap (fun e =>
    if e.2.st == .granted && e.2.hdr.opcode == opPARK then
      match parkPages (viewAt s ((e.2.plan.map (fun p => p.start)).getD 0)) e.2.hdr with
      | some (x, qs) => if x.home = hub then qs.map (fun q => formChunks x q.ent) else []
      | none => []
    else [])
  (4096 * ps.sum, (ps.map (fun k => ceilDiv k 4)).sum)

def checkPark (s v : State) (n : Nat) (c : Cmd) : Verdict :=
  let h := c.hdr
  match oneStream v h with
  | none => bad10 n
  | some (hd, x) =>
    if (if x.isState then !stateRange v h hd
        else decide (h.pageHi ≤ h.pageLo) || decide (x.pages < h.pageHi) || decide (h.pageLo < x.forkPages)) then bad10 n
    else
      let ps := rangePages v h hd x
      let isDirty := fun p => dirtyPage v p.own p.page
      if ps.any (fun p => p.opened && !isDirty p) || (!x.isState && decide (ps.length < (((List.range (h.pageHi - h.pageLo)).filter
          (fun j => holdsPage v x.ctx x.layer (h.pageLo + j))).length))) then bad10 n
      else match dirtyCheck v n h (ps.map (fun p => (h.kvh, hd, p.page))) with
        | some r => r
        | none =>
          let lost := ps.filterMap (fun p => if p.sealed then p.lost.map (fun cs => (h.kvh, hd, p.page, cs)) else none)
          let mv := ps.filter (fun p => p.sealed)
          let bytes := (mv.map (fun p => 4096 * formChunks x p.ent)).sum
          let ftl := ftlAt s x.home
          let gran := (mv.map (fun p => ceilDiv (formChunks x p.ent) 4)).sum
          if !lost.isEmpty then lostStop v n lost
          else if 8 * 1048576 < bytes then bad10 n
          else if t2Free s x.home < 16384 * ((parkReserved s x.home).2 + gran) then stop n stNOBUDGET 0
          else if 8 * 1048576 < ftl.parkStage + (parkReserved s x.home).1 + bytes || mv.any (fun p => pageBusy s p.own p.page) || (x.isState && stateBusy s hd) then .defer []
          else .go { Need.zero h.part with
            seqs := moveSeqs x mv
            nand := ceilDiv bytes 65536 }

/-- The parked pages of a RESTORE's range. -/
def restorePages (v : State) (h : Hdr) : List (Nat × PageView) :=
  match oneStream v h with
  | none => []
  | some (hd, x) => ((rangePages v h hd x).filter (fun p => p.parked)).map (fun p => (hd, p))

def checkRestore (s v : State) (n : Nat) (c : Cmd) : Verdict :=
  let h := c.hdr
  match oneStream v h with
  | none => bad10 n
  | some (hd, x) =>
    if (if x.isState then !stateRange v h hd else decide (h.pageHi ≤ h.pageLo) || decide (x.pages < h.pageHi)) then bad10 n
    else
      let ps := (restorePages v h).map (fun e => e.2)
      let home := ps.filterMap (fun p => match p.lost with
        | some cs => if cs = 5 then none else some (h.kvh, p.own, p.page, cs)
        | none => none)
      let mv := ps.filter (fun p => p.lost.isNone)
      if !home.isEmpty then lostStop v n home
      else if mv.any (fun p => pageBusy s p.own p.page) || (x.isState && stateBusy s hd) then .defer []
      else
        let room := (mv.map (fun p => p.slice)).eraseDups.all (fun i =>
          decide (((mv.filter (fun p => p.slice == i)).map (fun p => p.ent.nchunk + 1)).sum ≤ freeChunks (sliceAt s i)))
        if !room then stop n stNOBUDGET 0
        else .go { Need.zero h.part with
          seqs := moveSeqs x mv
          nand := ceilDiv ((mv.map (fun p => 4096 * formChunks x p.ent)).sum) 65536 }

def checkMigrate (s v : State) (n : Nat) (c : Cmd) : Verdict :=
  let h := c.hdr
  match oneStream v h with
  | none => bad10 n
  | some (hd, x) =>
    let len := (partList v x.part).length
    let w := if h.migWidth = 0 then (if x.window = 0 then len else min len (x.window + 1)) else h.migWidth
    let granted := ((s.adm.cmds.filter (fun e => e.2.st == .granted && e.2.hdr.opcode == opMIGRATE &&
      e.2.snaps.any (fun y => y.handle == hd))).getLast?).map (fun e => e.2.hdr.reverse)
    let ok := match granted, migOf s hd with
      | some r, _ => h.reverse && !r
      | none, none => !h.reverse && decide (h.migBase < len) && decide (w ≤ len)
      | none, some m => if h.reverse then m.state != 2 else m.state == 3 && m.abase == h.migBase && m.awidth == w
    if !ok then bad10 n
    else
      let dirty := (List.range (x.pages - x.forkPages)).map (fun j => (h.kvh, hd, x.forkPages + j))
      match dirtyCheck v n h (if x.isState then [] else dirty) with
      | some r => r
      | none => .go (Need.zero h.part)

/-! ## The rotor (R102, R103) -/

/-- The width a hint resolves to (R103). -/
def openWidth (len window hint : Nat) : Nat :=
  if hint ≠ 0 then hint else if window = 0 then len else min len (window + 1)

/-- The rotor of a partition, and the rotor after an open that takes its base from it (R102). -/
def nextRotor (len rotor expect width : Nat) : Nat := (rotor + max 1 (min expect width)) % max 1 len

/-- The base an open takes from the rotor, or from its hint (R102). -/
def openBase (s : State) (h : Hdr) : Nat := if h.baseExplicit then h.hintBase else (partAt s h.part).rotor

/-- Set a partition's rotor. -/
def setRotor (s : State) (k r : Nat) : State := updPart s k (fun p => { p with rotor := r })

/-- The rotor after an open has taken its base (R102). -/
def rotorAfter (s : State) (h : Hdr) : Nat :=
  let n := (partList s h.part).length
  if h.baseExplicit then (partAt s h.part).rotor
  else nextRotor n (partAt s h.part).rotor h.expect (if h.recurrent then 1 else openWidth n h.dWindow h.hintWidth)

/-- Opens accepted before command cid that still wait for their frame take their bases first, so that bases go in
acceptance order (R102, R366; DEDUCED, log 127): the base is kept with the command. -/
def takeBases (s : State) (cid k : Nat) : State :=
  forAll s s.adm.cmds (fun s e =>
    let c := e.2
    if e.1 < cid && c.hdr.opcode == opOPEN && c.hdr.part == k && c.result.isNone && c.aux.isEmpty &&
        (c.st == .queued || c.st == .granted) then
      setRotor (updCmd s e.1 (fun c => { c with aux := [openBase s c.hdr] })) k (rotorAfter s c.hdr)
    else s)

/-- The bases that the states a FORK copies take from the rotor, after the opens accepted before it (Table 5-14). -/
def childBases (s : State) (k n : Nat) : List Nat :=
  let len := (partList s k).length
  (List.range n).map (fun j => ((partAt s k).rotor + j) % max 1 len)

/-- A FORK's sequences on the slices its states' copies go to (R189, Table 5-14), for bases taken after the opens accepted before. -/
def withKids (s v : State) (cid : Nat) (c : Cmd) (nd : Need) : Need :=
  let xs := ((namedStreams v c.hdr).filter (fun e => e.2.2.isState)).map (fun e => e.2.2)
  if c.hdr.opcode != opFORK || xs.isEmpty then nd
  else
    let t := takeBases s cid c.hdr.part
    { nd with seqs := nd.seqs ++ (xs.zip (childBases t c.hdr.part xs.length)).map (fun e =>
        (placeOf (partList s c.hdr.part) e.2 1 0, e.1.stateChunks)) }

/-! ## Structure (R81, R112–R120, Table 5-14) -/

/-- Sectors holding rows 0 to k − 1 of a raw page. -/
def rowSectors (fmt dcode k : Nat) : Nat := (sectorsOf (rowSpans fmt dcode 0 k)).length

/-- What a partial-page copy costs on the source and destination slices, in ordinary bytes (R113, R118). -/
def copyNeed (s v : State) (nd : Need) (hd : Nat) (x : Stream) (p k dst : Nat) (toT0 : Bool) : Need :=
  match pageView v hd p with
  | none => nd
  | some q =>
    let src := if q.sealed then 4096 * (q.ent.nchunk + 1)
      else if (t0At s q.own p).isSome || q.ent.openT0 then 0
      else 512 * rowSectors x.fmt x.dcode k
    let nd := { nd with ord := addTo nd.ord q.slice src }
    if toT0 then nd else { nd with ord := addTo nd.ord dst (spanCost (rowSpans x.fmt x.dcode 0 k)) }

/-- What copies of the first k rows of page p cost for each stream, in order: a copy goes to T0 while the quota has room. -/
def copiesNeed (s v : State) (k p rows : Nat) (ss : List (Nat × Nat × Stream)) : Need :=
  (ss.foldl (fun (acc : State × Need) e =>
    let t0 := opensInT0 acc.1 e.2.2
    let s := if t0 then takeT0 acc.1 e.2.2.part e.2.2.home e.2.2.r else acc.1
    (s, copyNeed s v acc.2 e.2.1 e.2.2 p rows (homeSlice v e.2.1 p) t0)) (s, Need.zero k)).2

/-- Free handle indices of a hub's stream table, creates under way counted. -/
def freeIndex (s : State) (hub : Nat) : Option Nat :=
  let pend := s.adm.effs.filterMap (fun e => match e.eff with
    | .create h _ => if hubOfHandle h = hub then some (idxOfHandle h) else none
    | _ => none)
  let m := (hubAt s hub).streams
  (List.range (m.length + pend.length + 1)).find? (fun i => decide (i < 2 ^ 20) && !mhas m i && !pend.contains i)

/-- An identity exists in the view, or is being created by a change due or a command granted in this pass (R115, R81). -/
def identTaken (s v : State) (part ctx layer kvh : Nat) : Bool :=
  (lookupStream v part ctx layer kvh).isSome ||
  s.adm.cmds.any (fun e => e.2.st == .granted && e.2.hdr.part == part && e.2.hdr.layer == layer &&
    ((e.2.hdr.opcode == opOPEN && e.2.hdr.ctx == ctx && e.2.hdr.kvh == kvh) ||
     (e.2.hdr.opcode == opFORK && e.2.hdr.childCtx == ctx && e.2.hdr.heads.contains kvh))) ||
  s.adm.effs.any (fun e => match e.eff with
    | .create _ x => x.part == part && x.ctx == ctx && x.layer == layer && x.kvh == kvh
    | _ => false)

def checkFork (s v : State) (n : Nat) (c : Cmd) : Verdict :=
  let h := c.hdr
  let ss := namedStreams v h
  if ss.length != h.nkvh + 1 || ss.any (fun e => e.2.2.state != 0 || decide (e.2.2.length < h.forkP) ||
      (e.2.2.isState && e.2.2.length != h.forkP) || identTaken s v h.part h.childCtx h.layer e.1) then bad10 n
  else if ss.any (fun e => !e.2.2.isState && (decide (8 ≤ e.2.2.depth) || decide (65535 ≤ e.2.2.children))) then
    stop n stNOBUDGET 0
  else
    let p := h.forkP / 64
    let part := ss.filter (fun e => !e.2.2.isState && h.forkP % 64 != 0 && holdsPage v e.2.2.ctx e.2.2.layer p)
    match dirtyCheck v n h (part.map (fun e => (e.1, e.2.1, p))) with
    | some r => r
    | none =>
      let lost := part.filterMap (fun e => (lostCause v e.2.1 p).map (fun cs => (e.1, e.2.1, p, cs)))
      let lostSt := (ss.filter (fun e => e.2.2.isState)).filterMap (fun e => (lostCause v e.2.1 0).map (fun cs => (e.1, e.2.1, 0, cs)))
      let parked := part.filter (fun e => match pageView v e.2.1 p with
        | some q => q.parked
        | none => false)
      let states := ss.filter (fun e => e.2.2.isState)
      if !(lost ++ lostSt).isEmpty then lostStop v n (lost ++ lostSt)
      else match parked.map (fun e => (e.1, p)) ++ (states.filter (fun e => parkedState v e.2.1)).map (fun e => (e.1, 0)) with
        | e :: _ => parkedStop n e.1 e.2
        | [] =>
          if states.any (fun e => stateMoving s e.2.1) then .defer []
          else
            let nd := copiesNeed s v h.part p (h.forkP % 64) part
            .go { nd with seqs := states.map (fun e => (homeSlice v e.2.1 0, e.2.2.stateChunks)) }

/-- Some child of stream h resolves to a page from q upward (R119). -/
def childUses (v : State) (h q : Nat) : Bool :=
  (allStreams v).any (fun e => 0 < e.2.depth && e.2.parent == h && decide (q / 64 < e.2.forkPages))

def checkDrop (s v : State) (n : Nat) (c : Cmd) : Verdict :=
  let h := c.hdr
  let q := h.dropQ
  let ss := namedStreams v h
  if ss.length != h.nkvh + 1 || ss.any (fun e => e.2.2.state != 0 || decide (e.2.2.length < q) ||
      (e.2.2.isState && q != 0 && q != e.2.2.length) || (q != e.2.2.length && childUses v e.2.1 q)) then bad10 n
  else
    let p := q / 64
    let part := ss.filter (fun e => !e.2.2.isState && q % 64 != 0 && q != e.2.2.length && holdsPage v e.2.2.ctx e.2.2.layer p)
    let lost := part.filterMap (fun e => (lostCause v e.2.1 p).map (fun cs => (e.1, e.2.1, p, cs)))
    if !lost.isEmpty then lostStop v n lost
    else match part.find? (fun e => match pageView v e.2.1 p with
        | some w => w.parked
        | none => false) with
      | some e => parkedStop n e.1 p
      | none =>
        match ss.find? (fun e => e.2.2.isState && q == 0 && parkedState v e.2.1) with
        | some e => parkedStop n e.1 0
        | none =>
        .go (copiesNeed s v h.part p (q % 64) part)

def checkClose (v : State) (n : Nat) (c : Cmd) : Verdict :=
  let ss := namedStreams v c.hdr
  if ss.length != c.hdr.nkvh + 1 || ss.any (fun e => e.2.2.state != 0) then bad10 n else .go (Need.zero c.hdr.part)

def checkOpen (s v : State) (n : Nat) (c : Cmd) : Verdict :=
  let h := c.hdr
  let len := (partList v h.part).length
  if identTaken s v h.part h.ctx h.layer h.kvh || decide (len < h.hintWidth) ||
      decide (len ≤ h.hintBase) || len == 0 then bad10 n
  else .go (Need.zero h.part)

/-! ## Index, programs, pools of the hub (R232–R237, R300–R306) -/

/-- Pages an index or grow inserts: those sealed that resolve to the stream itself. -/
def indexPages (v : State) (hd : Nat) (x : Stream) : List PageView :=
  (List.range (x.pages - max x.forkPages x.firstPage)).filterMap (fun j =>
    match pageView v hd (max x.forkPages x.firstPage + j) with
    | some p => if p.eligible && p.own == hd && holdsPage v x.ctx x.layer p.page && p.lost.isNone then some p else none
    | none => none)

def indexOf (s : State) (hd : Nat) : Option IndexRec := mget (hubAt s (hubOfHandle hd)).index (idxOfHandle hd)

/-- Entries that name a page. -/
def hasEntry (s : State) (h p : Nat) : Bool := (oboeEnts s).any (fun e => e.stream == h && e.page == p)

/-- Pages of a stream that its index still lacks (R234). -/
def lackingPages (s v : State) (h : Nat) (x : Stream) : List PageView :=
  (indexPages v h x).filter (fun p => !hasEntry s h p.page && !s.oboe.updates.any (isInsertOf h p.page))

/-- INDEX_UPDATEs of a partition granted in this pass that have yet to act: the streams they name, and the tags and entries
they are to take (R236). -/
def grantedIndex (s : State) (k : Nat) : List Nat × Nat × Nat :=
  let cs := (s.adm.cmds.filter (fun e => e.2.st == .granted && e.2.hdr.opcode == opINDEX && e.2.hdr.part == k &&
    e.2.hdr.indexOp != 1)).map (fun e => e.2)
  let of := fun (c : Cmd) => (c.snaps.head?.map (fun x => x.handle)).getD 0
  let old := fun (c : Cmd) => match indexOf s (of c) with
    | some r => r.reserve
    | none => 0
  (cs.map of, (cs.filter (fun c => c.hdr.indexOp == 0)).length, (cs.map (fun c => c.hdr.reserve - old c)).sum)

/-- Tags that no index record of this node holds. -/
def tagsFree (s : State) : Nat := 16384 - s.oboe.tags.length

/-- Oboe tags of this node: the board position in bits [15:14] (R208). -/
def freeTag (s : State) : Option Nat :=
  let base := s.hw.pos * 16384
  (List.range 16384).findSome? (fun i => if s.oboe.tags.contains (base + i) then none else some (base + i))

def checkIndex (s v : State) (n : Nat) (c : Cmd) : Verdict :=
  let h := c.hdr
  match oneStream v h with
  | none => bad10 n
  | some (hd, x) =>
    let rec0 := indexOf v hd
    let g := grantedIndex s h.part
    let bad := x.isState || (h.indexOp == 0 && (rec0.isSome || g.1.contains hd)) || (h.indexOp != 0 && rec0.isNone) ||
      (h.indexOp == 2 && (match rec0 with
        | some r => decide (h.reserve < r.reserve)
        | none => true))
    if bad then bad10 n
    else
      let ps := if h.indexOp = 0 then indexPages v hd x else lackingPages s v hd x
      match dirtyCheck v n h ((List.range (x.pages - x.forkPages)).map (fun j => (h.kvh, hd, x.forkPages + j))) with
      | some r => if h.indexOp = 1 then .go (Need.zero h.part) else r
      | none =>
        let k := partAt s h.part
        let old := match rec0 with
          | some r => r.reserve
          | none => 0
        let full := decide (k.idxMax < k.idxReserved + g.2.2 + (h.reserve - old))
        if h.indexOp = 1 then .go (Need.zero h.part)
        else if h.indexOp = 0 && decide (quotaLeft s h.part x.home < 1 + g.2.1) then .defer []
        else if full || decide (h.reserve < ps.length) || (h.indexOp == 0 && decide (tagsFree s ≤ g.2.1)) then stop n stNOBUDGET 0
        else
          let need := h.indexOp == 0 || (match rec0 with
            | some r => !r.complete
            | none => false)
          .go { Need.zero h.part with
            ord := if need then ps.foldl (fun m p => addTo m p.slice (summaryZ x.dcode)) [] else [] }

/-- Dies that hold a slice of a partition. -/
def partStacks (s : State) (k : Nat) : List Nat := ((partList s k).map stackOf).eraseDups

/-- PROG_LOADs granted in this pass, whose rows have yet to run: partition, slot, whether they load an image. -/
def grantedLoads (s : State) : List (Nat × Nat × Bool) :=
  (s.adm.cmds.filter (fun e => e.2.st == .granted && e.2.hdr.opcode == opPROG)).map (fun e =>
    (e.2.hdr.part, e.2.hdr.progSlot, !e.2.hdr.progClear))

/-- Images a die's store holds, those of granted loads counted (R302). -/
def imagesHeld (s : State) (st : Nat) : Nat :=
  (stackAt s st).progUsed + ((grantedLoads s).filter (fun e => e.2.2 && (partStacks s e.1).contains st)).length

def checkProg (s : State) (n : Nat) (c : Cmd) : Verdict :=
  let h := c.hdr
  let img := progParse h.ninst c.payload
  if !h.progClear && !progOk img.insts then bad10 n
  else
    let slot := mgetD (partAt s h.part).progs h.progSlot ProgSlot.empty
    let pend := s.adm.effs.any (fun e => match e.eff with
      | .setProg k sl _ => k == h.part && sl == h.progSlot
      | _ => false) || (grantedLoads s).any (fun e => e.1 == h.part && e.2.1 == h.progSlot)
    if pend || (match slot.retiring with
        | some r => decide (n < r.2)
        | none => false) then .defer []
    else if !h.progClear && (partStacks s h.part).any (fun st => decide (512 ≤ imagesHeld s st)) then
      stop n stNOBUDGET 0
    else .go (Need.zero h.part)

/-! ## Steps 9 to 12 together -/

/-- R627: what autumn refuses. -/
def autumnRefuses (h : Hdr) : Bool :=
  [opOPEN, opFORK, opWRITE, opPUSH, opRESTORE].contains h.opcode || (h.opcode == opMIGRATE && !h.reverse) ||
  (h.opcode == opINDEX && h.indexOp != 1)

/-- The composition maps as frame n sees them (DEDUCED, log 35): a pending map is current from its equinox on, and the first map
from the frame it is adopted at (R532, R636). -/
def mapsAt (s : State) (n : Nat) : Maps :=
  match s.maps.cur, s.maps.pend with
  | some m, some p =>
    if p.equinox ≤ n then { s.maps with cur := some p, pend := none, old := some m, oldEnd := p.equinox + p.grace } else s.maps
  | none, some p => { s.maps with cur := some p, pend := none }
  | _, none => s.maps

/-- The epoch in force. -/
def epochOf (m : Option CompMap) : Nat :=
  match m with
  | some m => m.epoch
  | none => 0

/-- A map epoch the command may use: the map it uses and whether it is the old one (Table 13-12, R534). -/
def epochMap (x : Maps) (n epoch : Nat) : Option (Option CompMap × Bool) :=
  let named := fun (o : Option CompMap) => o.any (fun m => m.epoch == epoch)
  if epoch = epochOf x.cur then some (x.cur, false)
  else if named x.pend then some (x.pend, false)
  else if named x.old && decide (n < x.oldEnd) then some (x.old, true)
  else none

/-- A `MOVED` outcome (R535). -/
def movedStop (n : Nat) (m : CompMap) (e : Nat) : Verdict :=
  .done ⟨stMOVED, packFields [(25, 1, b2n (shGroup e)), (24, 1, b2n (shMirror e != 0xFFFF)),
    (12, 12, if shMirror e = 0xFFFF then 0 else shMirror e), (0, 12, shHome e)], n, m.epoch, 0, [], false⟩

/-- EPOCH_CHECK: step 9 (R533, R534); none when it passes. -/
def epochCheck (s v : State) (n : Nat) (h : Hdr) : Option Verdict :=
  let x := mapsAt s n
  match epochMap x n h.epoch with
  | none => some (stop n stSTALE (epochOf x.cur))
  | some (m, old) =>
    if !namesStreams h.opcode || allPresent v h then none
    else
      let use := if old then x.cur else m
      match use with
      | none => none
      | some m =>
        let e := shardEntry m (shardOf h.ctx h.layer)
        if old then some (movedStop n m e)
        else if shHome e != 0xFFFF && !homeHere s m e then some (movedStop n m e)
        else none

/-- A writer: a command R374 orders. -/
def isWriter (h : Hdr) : Bool :=
  h.opcode == opAPPEND || h.opcode == opWRITE || h.opcode == opPUSH || (h.opcode == opACCEPT && h.acount != 0)

/-- The streams a command touches, for R374 and R188. -/
def touched (s v : State) (c : Cmd) : List Nat :=
  if c.hdr.opcode = opACCEPT then
    match findCtx s c with
    | .ok (_, _, x) => (List.range (x.nkvh + 1)).filterMap (fun j => lookupStream v x.part x.ctx x.layer (x.h0 + j))
    | .error _ => []
  else (namedStreams v c.hdr).map (fun e => e.2.1)

/-- Held behind an earlier-admitted command whose completion frame has not passed (R374, R188). -/
def heldBehind (s v : State) (n : Nat) (c : Cmd) : Bool :=
  let mine := touched s v c
  let clash := fun (d : Cmd) => match d.plan with
    | some p => decide (n ≤ p.cframe) && d.snaps.any (fun x => mine.contains x.handle)
    | none => false
  if isWriter c.hdr then s.adm.cmds.any (fun e => isWriter e.2.hdr && clash e.2)
  else if c.hdr.opcode = opSTEP then s.adm.cmds.any (fun e => e.2.hdr.opcode == opSTEP && e.2.hdr.commit && clash e.2)
  else false

/-- The outcome of a held command (R374, R188): it fails step 10 at once by a check that does not rest on `LENGTH`, else it
is deferred. -/
def heldVerdict (s v : State) (n : Nat) (c : Cmd) : Verdict :=
  let op := c.hdr.opcode
  let ok :=
    if op = opAPPEND then appendForm v c
    else if op = opSTEP then stepForm v c
    else if op = opACCEPT then
      match findCtx s c with
      | .ok (_, _, x) => acceptForm x c
      | .error _ => true
    else if pushesState v c then (pushForm v c).isSome else (dirtyForm v c).isSome
  if ok then .defer [] else bad10 n

/-- Step 10 onwards, by opcode. -/
def checkOpcode (s v : State) (n : Nat) (c : Cmd) : Verdict :=
  let op := c.hdr.opcode
  if op = opATTEND ∨ op = opVERIFY ∨ op = opSELECT then checkAttend s v n c
  else if op = opACCEPT then checkAccept s v n c
  else if op = opAPPEND then checkAppend s v n c
  else if op = opWRITE ∨ op = opPUSH then checkWrite s v n c
  else if op = opSTEP then checkStep s v n c
  else if op = opINDEX then checkIndex s v n c
  else if op = opPARK then checkPark s v n c
  else if op = opRESTORE then checkRestore s v n c
  else if op = opFORK then checkFork s v n c
  else if op = opDROP then checkDrop s v n c
  else if op = opCLOSE then checkClose v n c
  else if op = opMIGRATE then checkMigrate s v n c
  else if op = opREAD then checkRead s v n c
  else if op = opOPEN then checkOpen s v n c
  else if op = opPROG then checkProg s n c
  else if op = opFLUSH then
    if c.hdr.all || allPresent v c.hdr then .go (Need.zero c.hdr.part) else bad10 n
  else .go (Need.zero c.hdr.part)

/-- Steps 9 to 12 of a candidate in the pass for frame n; v is the view at n. -/
def verdict (s v : State) (n : Nat) (c : Cmd) : Verdict :=
  let h := c.hdr
  if h.opcode = opPART then .go (Need.zero 0)
  else match epochCheck s v n h with
    | some r => r
    | none =>
      if s.life.state = 2 && autumnRefuses h then stop n stFENCED (fencedDetail 0x06 2)
      else if namesStreams h.opcode && h.opcode != opOPEN && !allExist v h && missingLost v h && !(h.opcode == opFLUSH && h.all) then
        stop n stPAGELOST 0
      else if heldBehind s v n c then heldVerdict s v n c
      else checkOpcode s v n c

end Sys2Proof.Machine
end

