-- ==== Sys2Proof/Machine/Admission.lean ====
section
/-!
DEFINITION. The admission pass (R54–R63, R341, R373–R377, R409–R411, R509, R518–R521, R538): calendars, candidates, planning
and reserving in order, deferral; and the request contexts an admission creates (R164–R168).
-/

namespace Sys2Proof.Machine

/-! ## Partition states and calendars (R509, R516–R521) -/

/-- State of partition k with the changes of a list applied (Table 13-4); a reset of cause 2 ends in a destroy. -/
def partStateBy (st k : Nat) (effs : List DueEff) : Nat :=
  effs.foldl (fun st e => match e.eff with
    | .partState j x => if j = k then x else st
    | .resetPart j c => if j = k then (if c = 2 then 5 else 4) else st
    | _ => st) st

/-- State of partition k in frame n: changes placed by then applied; one just created or restarted counts as quiesced until
it is active (Table 13-6). -/
def partStateAt (s : State) (k n : Nat) : Nat :=
  let p := partAt s k
  partStateBy (if p.state = 1 ∧ n < p.actFrom then 3 else p.state) k (s.adm.effs.filter (fun e => decide (e.frame ≤ n)))

/-- State of partition k as the `PART_CTL`s so far leave it. -/
def partStateLast (s : State) (k : Nat) : Nat := partStateBy (partAt s k).state k s.adm.effs

def groupAt (s : State) (g : Nat) : TsGroup := mgetD s.maps.groups g ⟨0, none, []⟩

/-- Members of group g with their weights in frame f, ascending: a pending change counts from its switch frame, and a
destroyed member keeps its frames until then (R520, R526). Kinds of change: 0 leaves, 1 weight, 2 joins. -/
def groupMembers (s : State) (g f : Nat) : List (Nat × Nat) :=
  let x := groupAt s g
  let ms := (s.parts.filter (fun e => e.2.state != 0 && e.2.tsgEn && e.2.tsg == g)).map (fun e => (e.1, e.2.tsWeight))
  let ms := sortBy (fun e => e.1) (ms ++ (x.ghosts.filter (fun e => decide (f < e.2.2))).map (fun e => (e.1, e.2.1)))
  match x.pending with
  | none => ms
  | some (fr, k, w, kind) =>
    if fr ≤ f then
      if kind = 0 then ms.filter (fun e => e.1 != k) else ms.map (fun e => if e.1 = k then (k, w) else e)
    else if kind = 2 then ms.filter (fun e => e.1 != k) else ms

/-- Origin S of the calendar in force in frame f (R517). -/
def groupOrigin (s : State) (g f : Nat) : Nat :=
  match (groupAt s g).pending with
  | some p => if p.1 ≤ f then p.1 else (groupAt s g).origin
  | none => (groupAt s g).origin

/-- R518's walk. -/
def calendarWalk (ms : List (Nat × Nat)) (x : Nat) : Option Nat :=
  match ms with
  | [] => none
  | m :: r => if x < m.2 then some m.1 else calendarWalk r (x - m.2)

def calendarOwner (s : State) (g f : Nat) : Option Nat :=
  let ms := groupMembers s g f
  let c := (ms.map (fun e => e.2)).sum
  if c = 0 then none else calendarWalk ms ((f - groupOrigin s g f) % c)

/-- Does frame f belong to partition k (R518); a partition of no group owns every frame. -/
def ownsFrame (s : State) (k f : Nat) : Bool :=
  let p := partAt s k
  !p.tsgEn || calendarOwner s p.tsg f == some k

/-- R509: the partition is resident in frame f. -/
def residentAt (s : State) (k f : Nat) : Bool := partStateAt s k f == 1 && ownsFrame s k f

/-! ## Request contexts (R164–R168) -/

/-- Split the provisional rows of a VERIFY payload by stream (R158). -/
def provRows (ss : List (Nat × Nat × Stream)) (t : Nat) (payload : Bytes) : List (List Bytes × Bytes) :=
  (ss.foldl (fun (acc : List (List Bytes × Bytes) × Bytes) e =>
    let r := posBytes e.2.2.fmt e.2.2.dcode
    let sc := trailerBytes e.2.2.fmt e.2.2.dcode
    (acc.1 ++ [(chunksOf t r (acc.2.take (t * r)), slice acc.2 (t * r) sc)], acc.2.drop (t * r + sc))) ([], payload)).1

/-- The query rows of an attending payload lie after the parent array of a VERIFY. -/
def queryBase (h : Hdr) : Nat := if h.isVerify then 64 else 0

def ctxHandleOf (hub gen slot : Nat) : Nat := packFields [(31, 1, hub), (12, 19, gen), (0, 12, slot)]

/-- Create the context of an admitted VERIFY (R164, R167): its T0 space is taken on each hub, its handle kept with the
command. It expires by the `HOLD` of its first part's hub (DEDUCED, log 129). -/
def createCtx (s : State) (cid cframe : Nat) (ss : List (Nat × Nat × Stream)) : State :=
  match cmdAt s cid with
  | none => s
  | some c =>
    let h := c.hdr
    match poolPlace s h ss, ss with
    | some places, e :: _ =>
      let home := e.2.2.home
      match places.find? (fun p => p.1 == home) with
      | none => s
      | some p0 =>
        let p1 := places.find? (fun p => p.1 != home)
        let gen := (mgetD (hubAt s home).gens p0.2.2.1 0 + 1) % 2 ^ 19
        let base := 64 + (h.nkvh + 1) * e.2.2.group * h.rows * e.2.2.dk * 2
        let x : ReqCtx :=
          { gen := gen, part := h.part, ctx := h.ctx, layer := h.layer, h0 := h.kvh, nkvh := h.nkvh,
            basePos := h.basePos, parents := (c.payload.take h.rows).map (fun b => b.toNat),
            rows := provRows ss h.rows (c.payload.drop base), blocks0 := p0.2.2.2,
            blocks1 := (p1.map (fun p => p.2.2.2)).getD 0, region0 := p0.2.1,
            region1 := (p1.map (fun p => p.2.1)).getD 0, slot1 := p1.map (fun p => p.2.2.1),
            expiry := cframe + (hubAt s home).vhold, lost := none, under := false }
        let s := updHub s home (fun y =>
          { y with
            ctxs := mset y.ctxs p0.2.2.1 x
            gens := mset y.gens p0.2.2.1 gen
            lostCtx := mdel y.lostCtx p0.2.2.1 })
        let s := takeT0 s h.part home p0.2.2.2
        let s := match p1 with
          | some p => takeT0 s h.part (1 - home) p.2.2.2
          | none => s
        updCmd s cid (fun c => { c with handle := ctxHandleOf home gen p0.2.2.1 })
    | _, _ => s

/-- Complete a command in a pass; an ACCEPT so completed releases the context it names (R168). -/
def completeIn (s : State) (cid : Nat) (c : Cmd) (o : Outcome0) : State :=
  releaseNamed (finishWith s cid o 0 true) c

/-! ## Node jobs (R61) -/

/-- Owner number of a job's sequences. -/
def jobOwner (j : Nat) : Nat := 2 ^ 40 + j

/-- Partition that node work for no partition is planned under (R543). -/
def noPart : Nat := 128

/-- The seal job of a page of an indexed stream waits for its insert, and for the Oboe unit (R211, R230). -/
def oboeHolds (s : State) (h p : Nat) : Bool :=
  (s.oboe.updates.any (fun u => match u with
    | .insert _ _ h' p' _ _ _ bulk _ => !bulk && h' == h && p' == p
    | _ => false)) ||
  (!s.oboe.en && isA24F s && indexReady s (owner s h p))

/-- The needs of a job in admission; none for one that admission does not plan, or that waits. -/
def jobNeed (s : State) (j : Job) : Option Need :=
  let x := jobStream s j
  let owner := jobAt s (j.cid - 2 ^ 40)
  let part := if j.kind = .rerun then
      (match cmdAt s j.cid, owner.bind (jobStream s) with
       | some c, _ => c.hdr.part
       | none, some y => y.part
       | none, none => noPart)
    else (x.map (fun x => x.part)).getD noPart
  let nd := { Need.zero part with node := true }
  match j.kind, x with
  | .upload, some x =>
    let b := blockCount x.dcode
    if j.left.isNone && dirtyPage s j.handle j.page then none
    else some { nd with
      seqs := [(j.slice, j.k)]
      tiles0 := if x.home = 1 then 0 else b
      tiles1 := if x.home = 1 then b else 0 }
  | .seal, some x =>
    let off := ((jobPage s j).map (fun e => e.2.sumOff * 16)).getD 0
    if j.left.isNone && oboeHolds s j.handle j.page then none
    else some { nd with
      seqs := [(j.slice, j.k)]
      ord := [(j.slice, spanCost [(off, summarySize x.dcode)])] }
  | .writePart, some x =>
    some { nd with ord := [(j.slice, spanCost (rowSpans x.fmt x.dcode 0 j.k))] }
  | .rerun, _ => some { nd with seqs := [(j.slice, j.k)], outAt := j.source }
  | .rowTest, _ => some { nd with part := noPart, seqs := [(j.slice, 18)] }
  | _, _ => none

/-- One job in the pass for frame n. Zeroing takes what its slice has left in the partition's frames (R525), each chunk-time charged its energy (R51); a job that
does not fit is tried again in the next pass. -/
def admitJob (s : State) (n : Nat) (e : Nat × Job) : State :=
  let j := e.2
  if j.granted.isSome || n < j.target then s
  else if j.kind = .zero then
    if j.k = 0 then s
    else
      let coef := s.adm.sampled.2.2
      let room := energyRoom s - (resAt s n).energy
      let a := if ownsFrame s j.handle n then min j.k (chunksLeft s j.slice n) else 0
      let a := if coef = 0 then a else min a (room / coef)
      let s := if a = 0 then s else updRes (addChunks s n j.slice a) n (fun r =>
        { r with energy := r.energy + a * coef, pEnergy := mupd r.pEnergy j.handle 0 (fun x => x + a * coef) })
      updJob s e.1 (fun j => { j with k := j.k - a, granted := if j.k ≤ a then some n else none })
  else
    match jobNeed s j with
    | none => s
    | some nd =>
      match planNeed s (fun _ => true) (jobOwner e.1) nd n with
      | none => s
      | some p =>
        if withinCaps s [] 2 nd p && otherFits s (windowSlots s p.start) nd p then
          updJob (reserve s nd p) e.1 (fun j =>
            { j with granted := some p.cframe, target := if j.kind = .rerun then p.out else j.target })
        else s

/-! ## Commands in the pass -/

/-- A fence that holds the command back (R377). -/
def heldByFence (s : State) (cid : Nat) (c : Cmd) : Bool :=
  s.adm.cmds.any (fun e => e.2.hdr.opcode == opFENCE && decide (e.1 < cid) && e.2.result.isNone &&
    fenceCovers e.1 e.2 cid c)

/-- A `PART_CTL` of the pass for frame n stops partition k from that frame on (R513, R522, R526): the partition's commands
stay where they are. -/
def stopsPart (s : State) (n k : Nat) : Bool :=
  s.adm.cmds.any (fun e =>
    e.2.hdr.opcode == opPART && e.2.hdr.part == k && e.2.result.isNone && decide (e.2.target ≤ n) &&
    (e.2.st == .queued || e.2.st == .granted) &&
    ((e.2.hdr.pcOp == 0x03 && partStateLast s k == 1) || e.2.hdr.pcOp == 0x02 ||
      (e.2.hdr.pcOp == 0x05 && [1, 2, 3].contains (partStateLast s k))))

/-- Is the command a candidate of the pass for frame n (R56, R377, R409, R526, R354); a create waits for a DRBG that can
draw its keys (R552). -/
def candidate (s : State) (n cid : Nat) (c : Cmd) : Bool :=
  decide (c.target ≤ n) && c.result.isNone &&
  !(c.hdr.opcode == opPART && c.hdr.pcOp == 0x01 && !s.crypto.drbgOk) &&
  (match c.st with
   | .queued => c.hdr.opcode != opRESTORE && c.hdr.opcode != opCAPS
   | .fetching k => k == 0
   | _ => false) &&
  (c.hdr.opcode == opPART || (!heldByFence s cid c && residentAt s c.hdr.part n && !stopsPart s n c.hdr.part))

/-- The plan as the command keeps it. -/
def planOf (nd : Need) (p : PlanOut) : Plan where
  start := p.start
  service := p.service
  cframe := p.cframe
  outFrame := p.out
  chunks := p.chunks.foldl (fun m e => mupd m e.2.1 [] (fun y => mupd y e.1 0 (fun k => k + e.2.2))) []
  seqs := nd.seqs
  ords := nd.ord.map (fun e => e.1) ++ nd.reads.map (fun e => e.1)

/-- Commands whose needs a span does not hold: they are granted as they stand and no board member defers them. -/
def plannedOp (op : Nat) : Bool := !([opPART, opPOST, opARM, opFENCE, opFLUSH].contains op)

/-- What a board peer says of a command on a striped stream (R538): none defers, and the latest service frame. -/
def peersSay (s : State) (peers : List PeerOutcome) (c : Cmd) (service : Nat) : Option Nat :=
  let h := c.hdr
  if namesStreams h.opcode && 1 < (stripeOf s h.ctx h.layer).1 then
    let mine := peers.filter (fun p => p.ctx == h.ctx && p.tag == h.tag)
    if mine.any (fun p => p.defers) then none else some (mine.foldl (fun m p => max m p.service) service)
  else some service

/-- Grant a planned command: reserve it, keep its plan and streams, and make the allocations its admission makes (R59,
R86, R166, R322). -/
def grant (s v : State) (cid : Nat) (c : Cmd) (nd : Need) (p : PlanOut) : State :=
  let ss := namedStreams v c.hdr
  let snaps : List StreamSnap :=
    if c.hdr.opcode = opACCEPT then (touched s v c).map (fun h => ⟨0, h, 0, none⟩)
    else ss.map (fun e => ⟨e.1, e.2.1, e.2.2.length, some e.2.2⟩)
  let s := countAdmitted (reserve s nd p)
  let s := updCmd s cid (fun c => { c with st := .granted, plan := some (planOf nd p), snaps := snaps })
  let op := c.hdr.opcode
  let kids := (ss.filter (fun e => e.2.2.isState)).length
  if op = opFORK && kids != 0 then
    let t := takeBases s cid c.hdr.part
    let bs := childBases t c.hdr.part kids
    setRotor (updCmd t cid (fun c => { c with aux := bs })) c.hdr.part
      (((partAt t c.hdr.part).rotor + kids) % max 1 (partList t c.hdr.part).length)
  else if op = opVERIFY then createCtx s cid p.cframe ss
  else if op = opAPPEND then (openAll s (appendRows ss c.hdr.pos c.hdr.npos c.payload)).getD s
  else if op = opACCEPT then
    match findCtx s c with
    | .ok (_, _, x) => (openAll s (acceptRows v x ((c.payload.take c.hdr.acount).map (fun b => b.toNat)))).getD s
    | .error _ => s
  else if op = opWRITE ∨ op = opPUSH then
    match dirtyPages v c with
    | some ds => forAll (((placeAll s (heldDirty v ds)).getD none).getD s) (heldDirty v ds) (fun s d =>
        updT0 s d.h d.p (fun o => o.map (fun t => if t.dirty then { t with since := p.cframe } else t)))
    | none => s
  else s

/-- Give the pages of a FLUSH_FIRST flush priority, in the order they gain it (R324, R327). -/
def givePriority (s : State) (pages : List (Nat × Nat)) : State :=
  forAll s pages (fun s e =>
    let top := ((hubAt s (hubOfHandle e.1)).t0.map (fun x => x.2.prio.getD 0)).foldl max 0
    updT0 s e.1 e.2 (fun o => o.map (fun t => if t.dirty && t.prio.isNone then { t with prio := some (top + 1) } else t)))

/-- One candidate in one of the two passes. `v` is the view at n, `share` the partitions with pending commands. A command
deferred more often than a lowered `DEFER_MAX` allows ends at once (R55). A plan moved to the group's latest service frame
(R538) must fit there in every class, carry, merge time and gate included, or the command is deferred (DEDUCED, log 123). -/
def tryCommand (s v : State) (peers : List PeerOutcome) (share : List Nat) (n pass cid : Nat) : State :=
  match cmdAt s cid with
  | none => s
  | some c =>
    if !candidate s n cid c then s
    else if c.hdr.opcode != opPART && decide ((partAt s c.hdr.part).deferMax < c.deferrals) then
      completeIn s cid c ⟨stNOBUDGET, 0, n, 0, 0, [], false⟩
    else
      match verdict s v n c with
      | .done o => completeIn s cid c o
      | .unread i b p o => completeIn (reportBad s i b p) cid c o
      | .defer pages => givePriority s pages
      | .go nd0 =>
        let nd := withKids s v cid c nd0
        if !plannedOp c.hdr.opcode then
          updCmd (countAdmitted s) cid (fun c => { c with
            st := .granted, plan := if c.hdr.opcode = opFLUSH then some ⟨n, n, n, n, [], [], []⟩ else none,
            aux := if c.hdr.opcode = opFENCE then c.aux else [n] })
        else
          let owns := fun f => ownsFrame s c.hdr.part f
          if !emptyCovers s owns nd.chunks n then completeIn s cid c ⟨stNOBUDGET, 0, n, 0, 0, [], false⟩
          else match planNeed s owns cid nd n with
            | none => s
            | some p =>
              match peersSay s peers c p.service with
              | none => s
              | some sv =>
                let p := { p with service := sv, cframe := max p.cframe sv, out := max p.out (if nd.outAt = 0 then sv else 0) }
                if withinCaps s share pass nd p && otherFits s (windowSlots s p.start) nd p then grant s v cid c nd p else s

/-- COMMAND_DEFERRAL (R62, R63, R55): a candidate left over. -/
def deferCommand (s : State) (n cid : Nat) : State :=
  match cmdAt s cid with
  | none => s
  | some c =>
    if !candidate s n cid c then s
    else
      let p := partAt s c.hdr.part
      let d := c.deferrals + 1
      let s := meter (updCmd (countDeferred s) cid (fun c => { c with deferrals := d, target := n + 1 })) c.hdr.part 13 1
      if p.deferMax < d then completeIn s cid { c with deferrals := d } ⟨stNOBUDGET, 0, n, 0, 0, [], false⟩
      else if d = 1 ∧ p.deferNote then interim s cid stDEFERRED ((n + 1) % 2 ^ 32) n [] 0 0
      else s

/-- The pass's candidates after the node's jobs: deferred commands by original target and acceptance, then the others in
acceptance order (R61). -/
def candidates (s : State) (n : Nat) : List Nat :=
  let cs := s.adm.cmds.filter (fun e => candidate s n e.1 e.2)
  let old := sortBy (fun e => e.2.origTarget) (cs.filter (fun e => decide (0 < e.2.deferrals)))
  (old ++ cs.filter (fun e => e.2.deferrals == 0)).map (fun e => e.1)

/-- Does a sequence of an owner wait for its re-run (R315)? -/
def rerunDue (s : State) (o : Nat) : Bool := s.adm.jobs.any (fun e => e.2.kind == .rerun && e.2.cid == o && !e.2.acted)

/-- A job whose row has still to run in the current frame: a sequence that ends in it, or a page to be coded. -/
def jobOwed (s : State) (n : Nat) (j : Job) : Bool :=
  !rerunDue s (jobOwner n) && match j.kind, j.granted with
  | .seal, some f => !j.acted && decide (f ≤ s.time.frame)
  | .writePart, some f => !j.acted && decide (f ≤ s.time.frame)
  | .upload, some f => decide (f ≤ s.time.frame)
  | .rerun, some f => !j.acted && decide (f ≤ s.time.frame)
  | .code, _ => j.source != 1 && decide (j.target ≤ s.time.frame)
  | _, _ => false

/-- Has the row run of every command granted so far, and of every job that falls into the current frame (DESIGN CHOICE, log 1). -/
def passReady (s : State) : Bool :=
  !s.adm.stopped && decide (s.adm.closed < s.time.frame + 1) && s.adm.cmds.all (fun e => e.2.st != .granted) &&
  s.adm.jobs.all (fun e => !jobOwed s e.1 e.2)

/-- KV head of a stream handle. -/
def kvhOf (s : State) (h : Nat) : Nat := (streamAt s h).map (fun x => x.kvh) |>.getD 0

/-- Place of a dirty page in the write-back order (R324): flush priority, then command, KV head and page. -/
def wbKey (s : State) (j : Job) : Nat :=
  let prio := match t0At s j.handle j.page with
    | some t => t.prio.getD (2 ^ 40)
    | none => 2 ^ 40
  ((prio * 2 ^ 64 + j.cid) * 64 + kvhOf s j.handle) * 2 ^ 18 + j.page

/-- A job that writes a dirty page back. -/
def writesBack (s : State) (j : Job) : Bool :=
  j.kind == .writePart || (j.kind == .seal && j.left.isNone && dirtyPage s j.handle j.page)

/-- The node's jobs in the order of a pass (R61): as they arose, a hub's write-backs among themselves in R324's order. -/
def jobOrder (s : State) : List (Nat × Job) :=
  let queue := fun (hub : Nat) =>
    sortBy (fun e => wbKey s e.2) (s.adm.jobs.filter (fun e => writesBack s e.2 && hubOfHandle e.2.handle == hub))
  (s.adm.jobs.foldl (fun (acc : List (Nat × Job) × List (Nat × Job) × List (Nat × Job)) e =>
    if !writesBack s e.2 then (acc.1 ++ [e], acc.2)
    else if hubOfHandle e.2.handle = 0 then (acc.1 ++ acc.2.1.take 1, acc.2.1.drop 1, acc.2.2)
    else (acc.1 ++ acc.2.2.take 1, acc.2.1, acc.2.2.drop 1)) ([], queue 0, queue 1)).1

/-- A PUSH_LAYER becomes eligible only when every image is decoded (R541): its low-rank images take the compressor tiles that
R325 leaves free from the current frame on, and its target moves behind the last of them. That is no deferral, and tiles no
admission reserves are charged no energy (DEDUCED, log 147). -/
def decodeImages (s v : State) (n cid : Nat) : State :=
  match cmdAt s cid with
  | none => s
  | some c =>
    let nd := { Need.zero c.hdr.part with lr := freeTiles s (lowRankTiles v c 0) (lowRankTiles v c 1) }
    if c.hdr.opcode != opPUSH || !c.aux.isEmpty || nd.lr.isEmpty then s
    else match verdict s v n c with
      | .go _ =>
        match planLrs s nd s.time.frame with
        | none => updCmd s cid (fun c => { c with target := n + 1 })
        | some l =>
          let at' := max n (l.foldl (fun m e => max m (e.1 + 1)) 0)
          let s := forAll s l (fun s e => updRes s e.1 (fun r =>
            if e.2.1 = 1 then { r with tiles1 := r.tiles1 + e.2.2 } else { r with tiles0 := r.tiles0 + e.2.2 }))
          let s := meter s c.hdr.part 3 (l.map (fun e => e.2.2)).sum
          updCmd s cid (fun c => { c with aux := [at'], target := at', origTarget := max c.origTarget at' })
      | _ => s

/-- The node's jobs and the candidates of the pass for frame n. A partition has pending commands, in the sum of R54, when one
of its commands is a candidate of this pass (DEDUCED, log 120). -/
def passWork (peers : List PeerOutcome) (n : Nat) (s : State) : State :=
  let v := viewAt s n
  let s := forAll s (jobOrder s) (fun s e => admitJob s n e)
  let s := forAll s (candidates s n) (fun s cid => decodeImages s v n cid)
  let cs := candidates s n
  let share := ((s.adm.cmds.filter (fun e => cs.contains e.1)).map (fun e => e.2.hdr.part)).eraseDups
  let s := forAll s cs (fun s cid => tryCommand s v peers share n 1 cid)
  let s := forAll s cs (fun s cid => tryCommand s v peers share n 2 cid)
  forAll s cs (fun s cid => deferCommand s n cid)

/-- The admission pass for the frame after the current one. When that frame is an equinox with a new length, spans are
planned with its layout (R32). -/
def admissionPass (peers : List PeerOutcome) (s : State) : State :=
  if !passReady s then s
  else
    let n := s.time.frame + 1
    let t := s.time
    let s := passWork peers n (if lenAt s n = t.len then s else { s with time := layoutTime t (lenAt s n) })
    { s with time := t, adm := { s.adm with closed := n, sampled := (s.adm.energyBase, s.adm.energyCap, s.adm.energyCoef) } }

/-- ADMISSION_PASS (R61). -/
def execAdmissionPass (peers : List PeerOutcome) (s : State) : Host.Outcome State Fault Refusal :=
  .next (admissionPass peers s)

/-! ## Running an admitted command's row -/

/-- The command of a row when it may act: granted, of the row's opcode, and no earlier-accepted granted command has yet
to act (DEDUCED, log 13). -/
def actable (s : State) (cid op : Nat) : Option Cmd :=
  match cmdAt s cid with
  | none => none
  | some c =>
    if c.st = .granted && c.hdr.opcode == op && c.result.isNone &&
        s.adm.cmds.all (fun e => e.2.st != .granted || decide (cid ≤ e.1)) then some c else none

/-- Mark a granted command as having acted. -/
def acted (s : State) (cid : Nat) : State := updCmd s cid (fun c => { c with st := .acted })

/-- A plan's frames, for a command granted with none. -/
def Cmd.planD (c : Cmd) : Plan := c.plan.getD ⟨c.aux.headD c.target, c.aux.headD c.target, c.aux.headD c.target, 0, [], [], []⟩

end Sys2Proof.Machine
end

