-- ==== Sys2Proof/Machine/Bank.lean ====
section
/-!
DEFINITION. Sectors of a bank slice: addresses, metadata, encryption and tags (R259–R267, R555–R562), the objects written
in them, and the ordinary writes that wait for the reserve windows (R330, R331, R387).
-/

namespace Sys2Proof.Machine

/-! ## Sectors written (R266) -/

/-- An access to a sector of a chunk activates the chunk's row once on every core die (R339; DESIGN CHOICE, log 125). -/
def activate (x : Slice) (chunk : Nat) : Slice := { x with acts := mupd x.acts (chunk / 3) 0 (fun n => n + 1) }

/-- Write one sector: formed from its data, its own address and its metadata (R266). -/
def putSector (x : Slice) (i key chunk sector info : Nat) (data : Bytes) : Slice :=
  activate { x with sectors := mset x.sectors (8 * chunk + sector) (formSector i key chunk sector info data) } chunk

/-- Write an object whole over its chunks (R266): every sector of them, zeros behind its bytes (R243), the last that holds data
marked. -/
def putObject (x : Slice) (i key chunk : Nat) (o : ObjId) (data : Bytes) : Slice :=
  let n := ceilDiv data.length 512
  (List.range (8 * ceilDiv data.length 4096)).foldl (fun x j =>
    putSector x i key (chunk + j / 8) (j % 8)
      (metaWord o.kind (j % 256) o.fmtVer o.fmt o.dcode (j + 1 == n) o.version) (slice data (512 * j) 512)) x

/-- The first n bytes of an object; else the chunk in which a sector fails its checks (R264). -/
def getObject (x : Slice) (i key chunk : Nat) (o : ObjId) (n : Nat) : Except Nat Bytes :=
  match readSectors { x with ordq := [] } i key chunk o (List.range (ceilDiv n 512)) with
  | .error c => .error c
  | .ok l => .ok (spread n l)

/-! ## Objects of a page -/

/-- Identity of a page's stored form. -/
def pageObj (x : Stream) (e : PageEnt) (codedBytes : Nat) : ObjId :=
  { kind := if e.form = 1 then kRows else if codedBytes < rawSize x.fmt x.dcode then kCoded else kRaw,
    version := e.version, fmtVer := x.fmtVer, fmt := x.fmt, dcode := x.dcode }

/-- Identity of a state's block (R180). -/
def stateObj (x : Stream) (e : PageEnt) : ObjId := ⟨kState, e.version, x.fmtVer, 0, 0⟩

/-- Kinds of the sectors that hold the first n bytes of a page's stored form. -/
def pageKinds (x : Slice) (e : PageEnt) (n : Nat) : List Nat :=
  (List.range (ceilDiv n 512)).filterMap (fun j => (mget x.sectors (8 * e.chunk + j)).map sectorKind)

/-- The expander (R246): the raw page of a stored form of n bytes whose sectors are of these kinds; none on a format fault, a
`KIND` that disagrees with `CODED_BYTES` among them. -/
def expand (x : Stream) (n : Nat) (kinds : List Nat) (bs : Bytes) : Option Bytes :=
  let raw := !decide (n < rawSize x.fmt x.dcode)
  if kinds.any (fun k => k != (if raw then kRaw else kCoded)) then none else decodePage x.fmt x.dcode n raw (bs.take n)

/-! ## Ordinary writes -/

/-- Cut a run of bytes at object offset `off` into writes of single sectors: (sector of the object, offset in it, bytes). -/
def fragments (fuel off : Nat) (data : Bytes) : List (Nat × Nat × Bytes) :=
  match fuel with
  | 0 => []
  | f + 1 =>
    if data.isEmpty then []
    else
      let k := min data.length (512 - off % 512)
      (off / 512, off % 512, data.take k) :: fragments f (off + k) (data.drop k)

/-- Queue ordinary writes of runs (offset, bytes) of an object at a chunk of slice i. `last` is the last sector that holds data
of the object when they have run, `held` the sectors that hold some of it already. -/
def queueWrites (s : State) (i cid done chunk part : Nat) (o : ObjId) (last : Nat) (held : List Nat) (runs : List (Nat × Bytes)) :
    State :=
  let frs := runs.flatMap (fun r => fragments 4096 r.1 r.2)
  updSlice s i (fun x => { x with ordq := x.ordq ++ frs.map (fun f =>
    { cid := cid, done := done, chunk := chunk + f.1 / 8,
      sector := f.1 % 8, offset := f.2.1, data := f.2.2,
      info := metaWord o.kind (f.1 % 256) o.fmtVer o.fmt o.dcode (f.1 == last) o.version, part := part,
      fresh := !held.contains f.1 }) })

/-- Queue a write of a summary chunk's bytes (R88, R109); the record in the chunk's last used place ends its data. -/
def queueSummary (s : State) (i cid done chunk part : Nat) (off : Nat) (data : Bytes) : State :=
  let y := (mget (sliceAt s i).sums chunk).getD ⟨part, 1, [], []⟩
  queueWrites s i cid done chunk part sumObj (((y.used.foldl max 0 + 1) * y.recSize - 1) / 512) y.written [(off, data)]

/-- The runs of bytes that rows a … take in a raw page (R84), with the scale block on the first rows. -/
def rowRuns (fmt dcode a : Nat) (rows : List Bytes) (trailer : Bytes) : List (Nat × Bytes) :=
  let parts := partDims dcode
  let widths := parts.map (rowBytes fmt)
  let runs := (List.range parts.length).map (fun j =>
    let w := widths.getD j 0
    (partOffset fmt dcode j + a * w, rows.flatMap (fun r => slice r ((widths.take j).sum) w)))
  if a = 0 && !trailer.isEmpty then runs ++ [(64 * posBytes fmt dcode, trailer)] else runs

/-- Queue the rows a … of a page open in its slice (R387), with the scale block on the first. -/
def queueRows (s : State) (i cid done part : Nat) (e : PageEnt) (fmtVer fmt dcode a : Nat) (rows : List Bytes) (trailer : Bytes) :
    State :=
  let ends := (rowSpans fmt dcode 0 (a + rows.length)).map (fun c => c.1 + c.2)
  queueWrites s i cid done e.chunk part ⟨kRows, e.version, fmtVer, fmt, dcode⟩ ((ends.foldl max 1 - 1) / 512)
    (if a = 0 then [] else (sectorsOf (rowSpans fmt dcode 0 a)).map (fun c => c.1)) (rowRuns fmt dcode a rows trailer)

/-- What identity a queued write's sector has. -/
def ordObj (w : OrdWrite) : ObjId := ⟨bits w.info 63 56, bits w.info 31 0, bits w.info 47 40, bits w.info 39 36, bits w.info 35 33⟩

/-- Does the sector a queued write goes to hold data of its object already? A summary chunk's does once it has been written as
one. -/
def ordHolds (x : Slice) (w : OrdWrite) : Bool :=
  if bits w.info 63 56 = kSummary then ((mget x.sums w.chunk).map (fun y => y.written.contains w.sector)).getD false else !w.fresh

/-- The plaintext a queued write is merged into (R267): what the sector holds, read and checked; zeros when it holds nothing
of the object yet; else the cause of Table 15-1. -/
def ordBase (s : State) (i : Nat) (w : OrdWrite) (f : DramFault) : Except Nat (Bytes × Bool) :=
  if w.data.length = 512 && bits w.info 63 56 != kSummary then .ok (zeros 512, false)
  else match checkSector (sliceAt s i) i (partKey s w.part) w.chunk w.sector (bits w.info 55 48) (ordObj w) f with
    | .ok y => .ok (fitTo 512 y.1.plain, y.2)
    | .error e => if ordHolds (sliceAt s i) w then .error e else .ok (zeros 512, false)

/-- The version a queued write gives its sector: a summary's is the value read plus one, 1 for the first (R559). -/
def ordVersion (x : Slice) (w : OrdWrite) : Nat :=
  if bits w.info 63 56 = kSummary then
    match mget x.sectors (8 * w.chunk + w.sector) with
    | some y => (sectorVersion y + 1) % 2 ^ 32
    | none => 1
  else bits w.info 31 0

/-- Run one ordinary write: a read-modify-write of its sector, or the whole sector. The read half's cause when it fails: nothing
is written (R267). Answers whether the read corrected symbols. -/
def runWrite (s : State) (i : Nat) (w : OrdWrite) (f : DramFault) : Except Nat (State × Bool) :=
  match ordBase s i w f with
  | .error e => .error e
  | .ok (base, fixed) =>
    .ok (updSlice s i (fun x =>
      putSector { x with sums := mmod x.sums w.chunk (fun y =>
          { y with written := if y.written.contains w.sector then y.written else y.written ++ [w.sector] }) }
        i (partKey s w.part) w.chunk w.sector (putField w.info 0 32 (ordVersion x w)) (overwrite base w.offset w.data)), fixed)

/-- A page that is lost enters the lost-page table of its stream's home hub (R591), and `EV_PAGE_LOST` names its stream
(Table 15-20). -/
def enterLost (s : State) (h p cause : Nat) : State :=
  let s1 := updHub s (hubOfHandle h) (fun x => { x with lostPages := mset x.lostPages (t0Key h p) cause })
  match mhas (hubAt s (hubOfHandle h)).lostPages (t0Key h p), streamAt s h with
  | false, some x => raise s1 0x0401 (some x.part) h (packFields [(0, 19, 1), (24, 6, cause)])
  | _, _ => s1

/-- A command that a failing sector of slice i stops completes with `INTEGRITY` (R599), and Fife hears of it (R264). -/
def finishIntegrity (s : State) (cid i kvh : Nat) (b : Bad) (page : Nat) : State :=
  finishWith (reportBad s i b page) cid ⟨stINTEGRITY, lossDetail false kvh b.1 page, endFrame s cid, 0, 0, [], false⟩ 0 true

/-- The page a pool chunk of a slice belongs to: stream and page. -/
def chunkOwner (s : State) (i chunk : Nat) : Option (Nat × Nat) :=
  (sliceAt s i).dir.findSome? (fun d =>
    (entsIn (sliceAt s i) d.2.stream).findSome? (fun e =>
      if (decide (e.2.chunk ≤ chunk) && decide (chunk ≤ e.2.chunk + e.2.nchunk) && e.2.form != 3) then some (d.2.stream, e.2.page) else none))

end Sys2Proof.Machine
end

