-- ==== Sys2Proof/Machine/CmdWrite.lean ====
section
/-!
DEFINITION. The writers: APPEND, ACCEPT, WRITE, PUSH_LAYER and FLUSH (R75, R76, R85–R92, R169–R175, R319–R329, R385–R387,
R539–R542).
-/

namespace Sys2Proof.Machine

/-- Write one stream's rows: into T0, or queued for the reserve windows of the home slice, with the job of every page they
fill (R92). Answers the number of pages filled. -/
def writeRows (s : State) (cid cf : Nat) (w : WriteRows) : State × Nat :=
  (writeParts s w).foldl (fun acc e =>
    let p := e.1
    match pageEnt acc.1 w.h p with
    | none => acc
    | some (i, _, ent) =>
      let rows := (w.rows.drop (64 * p + e.2.1 - w.pos)).take e.2.2
      let s := updT0 acc.1 w.h p (fun o => o.map (fun t =>
        { t with rows := t.rows.take e.2.1 ++ rows, trailer := if e.2.1 = 0 then w.trailer else t.trailer }))
      let s := if ent.openT0 then s
        else
          queueRows s i cid cf w.x.part ent w.x.fmtVer w.x.fmt w.x.dcode e.2.1 rows w.trailer
      if e.2.1 + e.2.2 = 64 then
        (addJob s { kind := if ent.openT0 then .code else .upload, handle := w.h, page := p, slice := i, cid := cid,
                    target := cf + 1, granted := none, coded := [], summary := [], k := w.x.r, source := 0 }, acc.2 + 1)
      else (s, acc.2)) (s, 0)

/-- Write the rows of every stream of a command, which its LENGTH shows from the frame after (R77). -/
def writeAll (s : State) (cid cf : Nat) (ws : List WriteRows) : State × Nat :=
  let r := ws.foldl (fun acc w => let r := writeRows acc.1 cid cf w; (r.1, acc.2 + r.2)) (s, 0)
  (forAll r.1 ws (fun s w => addEff s (cf + 1) cid (.addLength w.h w.rows.length)), r.2)

/-- APPEND (R385–R387). -/
def append (cid : Nat) (s : State) : State :=
  match actable s cid opAPPEND with
  | none => s
  | some c =>
    let cf := c.planD.cframe
    let ws := appendRows (namedStreams (viewAt s c.planD.start) c.hdr) c.hdr.pos c.hdr.npos c.payload
    let r := writeAll (acted s cid) cid cf ws
    finish r.1 cid stOK 0 cf c.hdr.npos r.2

def execAppend (cid : Nat) (s : State) : Host.Outcome State Fault Refusal := .next (append cid s)

/-- ACCEPT (R169–R174): with its context gone since admission nothing is committed and the pages it opened are free; else it commits the rows of the path, or releases the context; the context goes either way (R168). -/
def accept (cid : Nat) (s : State) : State :=
  match actable s cid opACCEPT with
  | none => s
  | some c =>
    let cf := c.planD.cframe
    match findCtx s c with
    | .error d => finish (undoPages (acted s cid) c (s.time.frame + 1)) cid stCTXLOST d cf 0 0
    | .ok (hub, slot, x) =>
      let a := c.hdr.acount
      if a = 0 then finish (releaseCtx (acted s cid) hub slot none) cid stOK 0 cf 0 0
      else
        let ws := acceptRows (viewAt s c.planD.start) x ((c.payload.take a).map (fun b => b.toNat))
        let r := writeAll (acted s cid) cid cf ws
        finish (releaseCtx r.1 hub slot none) cid stOK 0 cf a r.2

def execAccept (cid : Nat) (s : State) : Host.Outcome State Fault Refusal := .next (accept cid s)

/-! ## States written whole (R179, R180, R542) -/

/-- State chunks of block k of a state of s chunks. -/
def blockChunks (s k : Nat) : Nat := min 8 (s - 8 * k)

/-- Write one half of a state from its bytes, every block under a new version of its slice (R121). -/
def writeHalf (s : State) (h : Nat) (x : Stream) (half : Nat) (data : Bytes) : State × List Nat :=
  let i := homeSlice s h 0
  (entsIn (sliceAt s i) h).foldl (fun acc e =>
    let b := blockChunks x.stateChunks e.2.page
    let c := e.2.chunk + half * b
    let v := nextVersion 64 (sliceAt acc.1 i) c b
    let s := { acc.1 with slices := mset acc.1.slices i v.2 }
    (updSlice s i (fun y => putObject y i (partKey s x.part) c ⟨kState, v.1, x.fmtVer, 0, 0⟩
      (slice data (8 * 4096 * e.2.page) (4096 * b))), acc.2 ++ [v.1])) (s, [])

/-- The half of a state that is current, as bytes: zeros in open form; the chunk in which a sector fails (R180). -/
def readHalf (s : State) (h : Nat) (x : Stream) (half : Nat) : Except Nat Bytes :=
  let i := homeSlice s h 0
  (entsIn (sliceAt s i) h).foldl (fun acc e =>
    match acc with
    | .error c => .error c
    | .ok bs =>
      let b := blockChunks x.stateChunks e.2.page
      if e.2.form = 1 then .ok (bs ++ zeros (4096 * b))
      else match getObject (sliceAt s i) i (partKey s x.part) (e.2.chunk + half * b) (stateObj x e.2) (4096 * b) with
        | .error c => .error c
        | .ok d => .ok (bs ++ d)) (.ok [])

/-! ## WRITE, PUSH_LAYER and FLUSH -/

/-- The write-back jobs of pages placed dirty (R324): full pages to be coded, partial ones written raw. -/
def dirtyJobs (s : State) (cid cf : Nat) (ds : List DirtyPage) : State :=
  forAll s ds (fun s d =>
    match t0At s d.h d.p with
    | some t =>
      if t.dirty then
        addJob s { kind := if d.rows.length = 64 then .code else .writePart, handle := d.h, page := d.p,
                   slice := homeSlice s d.h d.p, cid := cid, target := cf + 1, granted := none, coded := [], summary := [],
                   k := d.rows.length, source := 1 }
      else s
    | none => s)

/-- The effect WRITE and PUSH_LAYER share (R321, R541): the placed pages become visible and dirty. -/
def writeDirty (s : State) (cid : Nat) (c : Cmd) (positions : Nat) : State :=
  let cf := c.planD.cframe
  match dirtyPages (viewAt s c.planD.start) c with
  | none => s
  | some ds =>
    let s := dirtyJobs (acted s cid) cid cf (heldDirty s ds)
    let ss := namedStreams (viewAt s c.planD.start) c.hdr
    let s := forAll s ss (fun s e => addEff s (cf + 1) cid (.addLength e.2.1 positions))
    finish s cid stOK 0 cf positions ((heldDirty s ds).filter (fun d => d.rows.length == 64)).length

/-- WRITE (R319–R323). -/
def write (cid : Nat) (s : State) : State :=
  match actable s cid opWRITE with
  | none => s
  | some c => writeDirty s cid c c.hdr.npos

def execWrite (cid : Nat) (s : State) : Host.Outcome State Fault Refusal := .next (write cid s)

/-- PUSH_LAYER (R539–R542). -/
def pushLayer (cid : Nat) (s : State) : State :=
  match actable s cid opPUSH with
  | none => s
  | some c =>
    match pushState (viewAt s c.planD.start) c with
    | some (h, x, data) =>
      let r := writeHalf (acted s cid) h x 0 data
      let s := addEff r.1 (c.planD.cframe + 1) cid (.stateSet h c.hdr.pos r.2)
      finish s cid stOK 0 c.planD.cframe c.hdr.pos 0
    | none => writeDirty s cid c (64 * (c.hdr.npage - 1) + c.hdr.lastRows)

def execPushLayer (cid : Nat) (s : State) : Host.Outcome State Fault Refusal := .next (pushLayer cid s)

/-- The dirty pages a FLUSH of the pass for frame n covers (R328): owner stream and page. -/
def flushPages (s v : State) (n : Nat) (h : Hdr) : List (Nat × Nat) :=
  if h.all then
    (allStreams s).flatMap (fun e =>
      if e.2.part = h.part then
        ((hubAt s (hubOfHandle e.1)).t0.filter (fun t => t.1 / 2 ^ 18 == e.1 && t.2.dirty && decide (t.2.since < n))).map (fun t => (e.1, t.1 % 2 ^ 18))
      else [])
  else
    (namedStreams v h).flatMap (fun e =>
      ((List.range (h.pageHi - h.pageLo)).map (fun j => (owner v e.2.1 (h.pageLo + j), h.pageLo + j))).filter
        (fun q => decide (q.2 < e.2.2.pages) && dirtyPage s q.1 q.2))

/-- FLUSH (R328, R329): its pages gain flush priority; with none dirty it completes in the pass. -/
def flush (cid : Nat) (s : State) : State :=
  match actable s cid opFLUSH with
  | none => s
  | some c =>
    let ps := (flushPages s (viewAt s c.planD.start) c.planD.start c.hdr).eraseDups
    if ps.isEmpty then finish (acted s cid) cid stOK 0 c.planD.start 0 0
    else updCmd (givePriority s ps) cid (fun c => { c with st := .waiting, aux := ps.map (fun e => t0Key e.1 e.2) })

def execFlush (cid : Nat) (s : State) : Host.Outcome State Fault Refusal := .next (flush cid s)

/-- Complete the FLUSHes whose last page's written-back form has taken effect at the start of frame f (R329). -/
def flushesDone (s : State) (f : Nat) : State :=
  forAll s s.adm.cmds (fun s e =>
    if e.2.hdr.opcode = opFLUSH && e.2.st = .waiting && e.2.result.isNone &&
        e.2.aux.all (fun k => !dirtyPage s (k / 2 ^ 18) (k % 2 ^ 18)) then
      finish s e.1 stOK 0 (f - 1) e.2.aux.length 0
    else s)

end Sys2Proof.Machine
end

