-- ==== Sys2Proof/Machine/Jobs.lean ====
section
/-!
DEFINITION. The node's jobs: coding, upload and seal of filled pages, write-back of dirty pages, and re-runs of long
sequences (R92–R99, R210, R211, R250–R252, R315, R324, R325).
-/

namespace Sys2Proof.Machine

/-- A page's raw form coded, with its summary under version 0 (R96, R242–R244). -/
def codePage (x : Stream) (p : Nat) (raw : Bytes) : Bytes × Bytes :=
  let coded := encodePage x.fmt x.dcode raw
  (coded, summaryOf x.fmt x.dcode ⟨x.ctx, x.layer, x.kvh, p⟩ 0 coded.length raw)

/-- A summary record with its page's version (Table 3-7). -/
def sumWithVersion (sum : Bytes) (v : Nat) : Bytes := overwrite sum 2 (leBytes 4 v)

/-- A page of the stream that is coded now takes an insert: the stream's index is complete (R210). -/
def takesInsert (s : State) (h : Nat) : Bool := isA24F s && (indexOf s h).any (fun r => r.complete)

/-- The insert a seal of a page of an indexed stream makes (R210). -/
def queueInsert (s : State) (h p job ver : Nat) (dk : Nat) (sum : Bytes) : State :=
  match indexOf s h with
  | some r =>
    { s with oboe := { s.oboe with
        updates := s.oboe.updates ++ [.insert (hubOfHandle h) r.tag h p ver (sumSig dk sum) sum false job] } }
  | none => s

/-- First chunk of a page's sealed form: the chunks reserved for a page opened in T0, the second half of those reserved for
a page opened in its slice (R86, R95). -/
def sealChunk (x : Stream) (e : PageEnt) : Nat := if e.openT0 then e.chunk else e.chunk + x.r

/-- The version of a seal job's sealed form (R121), drawn when it is first needed: by the insert of an indexed stream's page
(Table 6-6; DEDUCED, log 113), else by the seal. -/
def sealDraw (s : State) (n : Nat) : State × Nat :=
  match jobAt s n with
  | none => (s, 0)
  | some j =>
    match j.ver, jobPage s j, jobStream s j with
    | some v, _, _ => (s, v)
    | none, some (i, ent), some x =>
      let v := nextVersion 64 (sliceAt s i) (sealChunk x ent) j.k
      (updJob { s with slices := mset s.slices i v.2 } n (fun j => { j with ver := some v.1 }), v.1)
    | none, _, _ => (s, 0)

/-- A coded page becomes a seal job for the next pass (R93). -/
def toSeal (s : State) (n : Nat) (j : Job) (x : Stream) (raw : Bytes) : State :=
  let r := codePage x j.page raw
  let s := updJob s n (fun j =>
    { j with
      kind := .seal, coded := r.1, summary := r.2, k := chunksFor r.1.length, target := s.time.frame + 1, granted := none })
  if j.left.isSome || !takesInsert s j.handle then s
  else
    let d := sealDraw s n
    queueInsert d.1 j.handle j.page n d.2 x.dk r.2

/-- SEAL_CODE (R92 step 1): a page filled in T0, or uploaded from its slice, is summarised and coded. -/
def sealCode (n : Nat) (s : State) : State :=
  match jobAt s n with
  | none => s
  | some j =>
    if j.kind != .code || j.source == 1 || decide (s.time.frame < j.target) then s
    else match jobStream s j with
      | none => delJob s n
      | some x =>
        if j.source = 2 then toSeal s n j x j.coded
        else match t0At s j.handle j.page with
          | some t => toSeal s n j x (rawPage x.fmt x.dcode t.rows t.trailer)
          | none => delJob s n

def execSealCode (job : Nat) (s : State) : Host.Outcome State Fault Refusal := .next (sealCode job s)

/-- Give a job back to admission: its slice is out of service (R586). -/
def abandonJob (s : State) (n : Nat) : State :=
  updJob s n (fun j => { j with granted := none, acted := false, target := s.adm.closed + 1 })

/-- SEAL_UPLOAD (R92 step 1): the rows of a page opened in its slice go up to the home hub. A sector that fails is reported
(R264), and the upload is admitted again behind the row group's test (DEDUCED, log 139). -/
def sealUpload (n : Nat) (s : State) : State :=
  match jobAt s n with
  | none => s
  | some j =>
    match j.granted, jobPage s j, jobStream s j with
    | some e, some (i, ent), some x =>
      if j.kind != .upload || rerunDue s (jobOwner n) then s
      else if sliceOut s i s.time.frame then abandonJob s n
      else match openRaw s x ent i 64 with
        | .error c => abandonJob (reportBad s i (0x03, c) j.page) n
        | .ok raw => updJob s n (fun j =>
          { j with kind := .code, source := 2, coded := raw, target := max e s.time.frame + 1, granted := none })
    | _, _, _ => s

def execSealUpload (job : Nat) (s : State) : Host.Outcome State Fault Refusal := .next (sealUpload job s)

/-- The association record of a page takes a new version (Table 6-6, R212). -/
def setAssoc (s : State) (h p v : Nat) : State :=
  let f := fun (m : SMap OboeEnt) => m.map (fun e => if e.2.stream = h ∧ e.2.page = p then (e.1, { e.2 with version := v }) else e)
  { s with oboe := { s.oboe with ents0 := f s.oboe.ents0, ents1 := f s.oboe.ents1 } }

/-- A seal job left running is over: what its page held is free once the job's completion frame has passed too (R120). -/
def endLeft (s : State) (n i cf : Nat) : State :=
  updSlice (delJob s n) i (fun y => { y with held := y.held.map (fun h =>
    if h.job = some n then { h with job := none, free := max h.free (cf + 1) } else h) })

/-- SEAL_JOB (R92 step 2, R94): the coded chunks under the slice's next version, the summary among its ordinary writes;
the sealed form takes effect in the frame after completion. -/
def sealJob (n : Nat) (s : State) : State :=
  match jobAt s n with
  | none => s
  | some j =>
    match j.granted, jobPage s j, jobStream s j with
    | some e, some (i, ent), some x =>
      if j.kind != .seal || j.acted || rerunDue s (jobOwner n) then s
      else if sliceOut s i s.time.frame then abandonJob s n
      else
        let cf := max e s.time.frame
        let c := sealChunk x ent
        let v := sealDraw s n
        let kind := if j.coded.length < rawSize x.fmt x.dcode then kCoded else kRaw
        let s := v.1
        let v := v.2
        let s := updSlice s i (fun y => putObject y i (partKey s x.part) c ⟨kind, v, x.fmtVer, x.fmt, x.dcode⟩ j.coded)
        let s := queueSummary s i (jobOwner n) cf ent.sumChunk x.part (ent.sumOff * 16) (sumWithVersion j.summary v)
        if j.left.isSome then endLeft s n i cf else
        let s := match indexOf s j.handle with
          | some r => if r.offAt = j.page + 1 then addEff s (cf + 1) (jobOwner n) (.indexFull (hubOfHandle j.handle) r.tag) else s
          | none => s
        updJob (addEff s (cf + 1) (jobOwner n) (.sealedForm j.handle j.page v j.coded.length c j.k)) n
          (fun j => { j with acted := true })
    | _, _, _ => s

def execSealJob (job : Nat) (s : State) : Host.Outcome State Fault Refusal := .next (sealJob job s)

/-! ## Write-back (R324, R325) -/

/-- The job stands first among the full dirty pages of its hub that wait for coding. -/
def wbFirst (s : State) (n : Nat) (j : Job) : Bool :=
  s.adm.jobs.all (fun e =>
    e.1 == n || !(e.2.kind == .code && e.2.source == 1 && hubOfHandle e.2.handle == hubOfHandle j.handle &&
      decide (e.2.target ≤ s.time.frame) && decide (wbKey s e.2 < wbKey s j)))

/-- Compressor tiles of the current frame that no reservation holds, taken for one page. -/
def takeTiles (s : State) (hub k : Nat) : Option State :=
  let r := resAt s s.time.frame
  if (if hub = 1 then r.tiles1 else r.tiles0) + k ≤ tilesPerFrame s.time.len then
    some (updRes s s.time.frame (fun r =>
      if hub = 1 then { r with tiles1 := r.tiles1 + k } else { r with tiles0 := r.tiles0 + k }))
  else none

/-- WRITE_BACK_JOB (R324): a full dirty page is coded for its seal, with tiles R251 leaves, metered as the partition's work
(R543); a partial one is written raw. -/
def writeBackJob (n : Nat) (s : State) : State :=
  match jobAt s n with
  | none => s
  | some j =>
    match t0At s j.handle j.page, pageEnt s j.handle j.page, streamAt s j.handle with
    | some t, some (i, _, ent), some x =>
      if j.kind = .code && j.source == 1 && decide (j.target ≤ s.time.frame) && wbFirst s n j then
        match takeTiles s (hubOfHandle j.handle) (blockCount x.dcode) with
        | none => s
        | some s => toSeal (meter s x.part 3 (blockCount x.dcode)) n j x (rawPage x.fmt x.dcode t.rows t.trailer)
      else if j.kind = .writePart && !j.acted then
        match j.granted with
        | none => s
        | some e =>
          if sliceOut s i s.time.frame then abandonJob s n
          else
            let cf := max e s.time.frame
            let s := queueRows s i (jobOwner n) cf x.part ent x.fmtVer x.fmt x.dcode 0 (t.rows.take j.k) t.trailer
            updJob (addEff s (cf + 1) (jobOwner n) (.openInSlice j.handle j.page ent.version)) n
              (fun j => { j with acted := true })
      else s
    | _, _, _ => s

def execWriteBackJob (job : Nat) (s : State) : Host.Outcome State Fault Refusal := .next (writeBackJob job s)

/-! ## Re-runs (R189, R315) -/

/-- Move the changes of an owner to a later frame. -/
def shiftEffs (s : State) (owner f : Nat) : State :=
  { s with adm := { s.adm with effs := s.adm.effs.map (fun e => if e.cid = owner then { e with frame := f } else e) } }

/-- Messages of a command that have not begun to leave, held to a gate and marked as late: their status record's LATE flag
(Table 10-8), and their bodies' outputs of `size` bytes by `late`. -/
def shiftMsgs (s : State) (cid f : Nat) (late : Bytes → Bytes) : State :=
  { s with conns := s.conns.map (fun e =>
      (e.1, { e.2 with out := e.2.out.map (fun m =>
        if m.2.cid = some cid ∧ m.2.next = 0 then (m.1, { m.2 with notBefore := f, body := late m.2.body }) else m) })) }

/-- The completion trigger of a command whose completion frame is f now fires in the frame after (R399). -/
def shiftTrig (s : State) (cid f : Nat) : State :=
  { s with chains := { s.chains with trigs := mmod s.chains.trigs cid (fun t =>
      (t.1, t.2.1, { t.2.2.1 with cframe := f }, f + 1, t.2.2.2.2)) } }

/-- Set LATE in a status record (Table 10-8). -/
def recLate (body : Bytes) : Bytes := leBytes 32 (leAt body 0 32 ||| 2 ^ 49) ++ body.drop 32

/-- A status record with another completion frame. -/
def recFrame (cf : Nat) (body : Bytes) : Bytes := leBytes 32 (putField (leAt body 0 32) 96 32 cf) ++ body.drop 32

/-- Set LATE in the header of every output of a STATE_STEP's body, each of `size` bytes (R184, R189). -/
def outsLate (size : Nat) (body : Bytes) : Bytes :=
  body.take 32 ++ (chunksOf (ceilDiv (body.length - 32) size) size (body.drop 32)).flatMap (fun o =>
    leBytes 8 (leAt o 0 8 ||| 2 ^ 32) ++ o.drop 8)

/-- Have outputs of a command not yet left (R189): none has been handed over, or none of their message is on the wire. -/
def outputsHeld (s : State) (cid : Nat) (c : Cmd) : Bool :=
  !c.outSent || s.conns.any (fun e => e.2.out.any (fun m => m.2.cid == some cid && m.2.next == 0 && recInterim m.2.body))

/-- What an owner of a long sequence has pending waits for the re-run of the sequence (R189, R315). -/
def holdOwner (s : State) (o : Nat) : State :=
  let s := shiftMsgs (shiftTrig (shiftEffs s o heldFrame) o heldFrame) o heldFrame (fun b => b)
  updCmd s o (fun c => { c with plan := c.plan.map (fun p =>
    { p with cframe := heldFrame, outFrame := if c.outSent then p.outFrame else heldFrame }) })

/-- Once every re-run of an owner is planned: what it has pending goes with completion frame cf and output frame `out`, the latest of
all its sequences (R186, R315). Outputs of a `STATE_STEP` that had not left carry LATE (R189). -/
def releaseOwner (s : State) (o cf out : Nat) : State :=
  let s := shiftTrig (shiftEffs s o (cf + 1)) o cf
  match cmdAt s o with
  | none => updJob s (o - 2 ^ 40) (fun j => { j with granted := some cf })
  | some c =>
    let step := c.hdr.opcode == opSTEP
    let late := step && outputsHeld s o c
    let s := updCmd s o (fun c =>
      { c with
        late := c.late || late
        plan := c.plan.map (fun p => { p with cframe := cf, service := cf, outFrame := if c.outSent then p.outFrame else out })
        result := c.result.map (fun r => { r with cframe := cf, late := r.late || late }) })
    let gate := if step then max out s.time.frame + 1 else cf + 1
    let size := 8 + 4 * ((c.snaps.head?.bind (fun x => x.x)).map (fun x => x.dv)).getD 0
    shiftMsgs s o gate (fun b =>
      let b := if recInterim b then b else recFrame cf b
      if late then outsLate size (recLate b) else b)

/-- LONG_SEQUENCE_RERUN (R189, R315): a re-run is planned, and for a `STATE_STEP` its output frame has come. With the last re-run of
an owner, the frames of what it has pending are the latest of them all; until then the others keep what this one gives. The
job is done with the re-run's completion frame. -/
def longSequenceRerun (n : Nat) (s : State) : State :=
  match jobAt s n with
  | none => s
  | some j =>
    match j.granted with
    | none => s
    | some e =>
      let step := (cmdAt s j.cid).any (fun c => c.hdr.opcode == opSTEP)
      if j.kind != .rerun || decide (s.time.frame < (if step then j.target else e)) then s
      else
        let t := if s.time.frame < e then updJob s n (fun j => { j with acted := true }) else delJob s n
        if j.acted then t
        else
          let cf := max j.frames.1 (max e s.time.frame)
          let out := max j.frames.2 j.target
          if rerunDue t j.cid then
            forAll t t.adm.jobs (fun s e => if e.2.kind == .rerun && e.2.cid == j.cid && !e.2.acted then
              updJob s e.1 (fun y => { y with frames := (max y.frames.1 cf, max y.frames.2 out) }) else s)
          else releaseOwner t j.cid cf out

def execLongSequenceRerun (job : Nat) (s : State) : Host.Outcome State Fault Refusal := .next (longSequenceRerun job s)

end Sys2Proof.Machine
end

