-- ==== Sys2Proof/Machine/Tasks.lean ====
section
/-!
DEFINITION. The work of a bank unit: the tasks S, X, A and C on the pages and states of a command (R130–R141, R183,
R270–R274), the sectors they read (R246, R263, R264), and the folds they build.
-/

namespace Sys2Proof.Machine

/-! ## A command's rows (R124–R127, R158, R159) -/

/-- Query rows per stream. -/
def rowsOf (h : Hdr) (x : Stream) : Nat := x.group * h.rows

/-- Query row r of the stream of KV head k. -/
def queryRow (c : Cmd) (x : Stream) (k r : Nat) : List F32 :=
  let off := queryBase c.hdr + ((k - c.hdr.kvh) * rowsOf c.hdr x + r) * x.dk * 2
  (List.range x.dk).map (fun i => f32OfBf16 (leAt c.payload (off + 2 * i) 2))

/-- Bounds of row r of a stream (R127, R159). -/
def boundsOf (c : Cmd) (x : Stream) (visible r : Nat) : Nat × Nat :=
  (rowBounds c.hdr c.payload visible x.win).getD (r % c.hdr.rows) (0, 0)

/-- Depths of a tree's nodes, with the nodes each sees. -/
def treeOf (c : Cmd) : List (Nat × Nat) := treeMask ((c.payload.take c.hdr.rows).map (fun b => b.toNat))

/-- What a score program sees beside the score (Table 8-9). -/
def progArgs (c : Cmd) (x : Stream) (k visible r pos : Nat) : ProgArgs where
  pos := pos
  row := r % c.hdr.rows
  head := k * x.group + r / c.hdr.rows
  qpos1 := if c.hdr.isVerify then c.hdr.basePos + ((treeOf c).getD (r % c.hdr.rows) (0, 0)).2 + 1
    else if c.hdr.limit = 0xFFFFFFFF then visible else c.hdr.limit + r % c.hdr.rows
  low := (boundsOf c x visible r).1
  visible := visible
  kvh := k

/-- The final score of a key for a row, none when the program masks it (R128, R130). -/
def scoreOf (c : Cmd) (x : Stream) (k visible r pos : Nat) (key : List F32) : Option F32 :=
  scoreAfter c.prog (score (queryRow c x k r) key c.hdr.scale2) (progArgs c x k visible r pos)

/-- The positions of page p that rows of a page hold for row r: in bounds and scored. -/
def openPartial (c : Cmd) (x : Stream) (k visible r p : Nat) (rows : List Bytes) (trailer : Bytes) : Part :=
  let b := boundsOf c x visible r
  pagePartial (rows.zipIdx.filterMap (fun e =>
    let pos := 64 * p + e.2
    if b.1 ≤ pos && pos < b.2 then
      let kv := decodePos x.fmt x.dcode e.1 trailer
      (scoreOf c x k visible r pos kv.1).map (fun t => ⟨t, kv.2⟩)
    else none)) x.dv

/-- Place 3 of a `VERIFY` record: the provisional positions node i sees (R161). -/
def provPartial (c : Cmd) (x : Stream) (k visible r : Nat) (rows : List Bytes) (trailer : Bytes) : Part :=
  let tree := treeOf c
  let mask := (tree.getD (r % c.hdr.rows) (0, 0)).1
  pagePartial (rows.zipIdx.filterMap (fun e =>
    if bit mask e.2 then
      let kv := decodePos x.fmt x.dcode e.1 trailer
      (scoreOf c x k visible r (c.hdr.basePos + (tree.getD e.2 (0, 0)).2) kv.1).map (fun t => ⟨t, kv.2⟩)
    else none)) x.dv

/-! ## Page data -/

/-- Sectors a page task reads: those of its coded bytes, or those its rows in use lie in. -/
def taskSectors (x : Stream) (t : PageTask) : List Nat :=
  if t.ubounds.isSome then []
  else if t.opened then (sectorsOf (rowSpans x.fmt x.dcode 0 t.live)).map (fun e => e.1)
  else List.range (ceilDiv t.codedBytes 512)

/-- Identity the sectors of a page task must show (R263). -/
def taskObj (x : Stream) (t : PageTask) : ObjId where
  kind := if t.opened then kRows else if t.codedBytes < rawSize x.fmt x.dcode then kCoded else kRaw
  version := t.version
  fmtVer := x.fmtVer
  fmt := x.fmt
  dcode := x.dcode

/-- A sector of a page task read and checked (R259, R263, R264), or the cause of Table 15-1. -/
def readTaskSector (sl : Slice) (i key : Nat) (x : Stream) (t : PageTask) (j : Nat) (f : DramFault) : Except Nat (Sector × Bool) :=
  checkSector sl i key (t.chunk + j / 8) (j % 8) j (taskObj x t) f

/-- The sectors of a page task in object order, from where they are found; the first that is not. -/
def taskBytes (find : Nat → Option Sector) (x : Stream) (t : PageTask) : Except Nat (List (Nat × Sector)) :=
  (taskSectors x t).foldr (fun j acc =>
    match acc, find j with
    | .error e, _ => .error e
    | .ok _, none => .error j
    | .ok l, some y => .ok ((j, y) :: l)) (.ok [])

/-- The staged sectors of a page task; none while one is not staged. -/
def stagedBytes (sl : Slice) (x : Stream) (t : PageTask) : Option (List (Nat × Sector)) :=
  match taskBytes (fun j => mget sl.staging (8 * t.chunk + j)) x t with
  | .ok l => some l
  | .error _ => none

/-- The raw page a task works on, from its sectors; none when the expander finds a format fault (R246). -/
def taskRaw (x : Stream) (t : PageTask) (l : List (Nat × Sector)) : Option Bytes :=
  let bs := spread (rawSize x.fmt x.dcode) (l.map (fun e => (e.1, e.2.plain)))
  if t.opened then some bs else expand x t.codedBytes (l.map (fun e => sectorKind e.2)) bs

/-! ## Task functions -/

/-- Everything about a command a task of stream x needs. -/
structure TaskCtx where
  c : Cmd
  x : Stream
  k : Nat
  visible : Nat

/-- S: the scores of positions 16b to 16b + 15 of a page for row r. -/
def runS (tc : TaskCtx) (t : PageTask) (r b : Nat) (rt : RowTask) (raw : Bytes) : RowTask :=
  let rows := pageRows tc.x.fmt tc.x.dcode raw
  let tr := pageTrailer tc.x.fmt tc.x.dcode raw
  let bd := boundsOf tc.c tc.x tc.visible r
  let live := if t.opened then t.live else 64
  let vals := (List.range 16).map (fun j =>
    let i := 16 * b + j
    let pos := 64 * t.page + i
    if bd.1 ≤ pos && pos < bd.2 && i < live then
      scoreOf tc.c tc.x tc.k tc.visible r pos (decodePos tc.x.fmt tc.x.dcode (rows.getD i []) tr).1
    else none)
  { rt with t := rt.t.take (16 * b) ++ vals ++ rt.t.drop (16 * b + 16), sDone := rt.sDone ++ [b] }

/-- Scalars of a page partial from the live scores (R131, R133, R134), with the weight of every position that is not cut. -/
def pageScalars (ts : List (Option F32)) : Part × List (Option F32) :=
  let live := ts.filterMap (fun t => t)
  let none' := ts.map (fun _ => none)
  let q := pagePartial (live.map (fun t => ⟨t, []⟩)) 0
  if live.isEmpty || isNan q.m then (q, none')
  else
    (q, ts.map (fun t => match t with
      | none => none
      | some v =>
        let d := f32Sub v q.m
        if f32Lt d negF126 then none else some (f32Exp2 d)))

/-- X: the page's scalars, and the scalar part of the merge with the running fold (R137). An omitted page brings its
omitted partial (R195). -/
def runX (tc : TaskCtx) (t : PageTask) (r : Nat) (rt : RowTask) (f : Fold) : RowTask × Fold :=
  let q := match t.ubounds with
    | some us =>
      ({ omittedPart (us.getD r f32NegInf) (rowHits (boundsOf tc.c tc.x tc.visible r) t.page) 0 with o := [] },
       rt.t.map (fun _ => none))
    | none => pageScalars rt.t
  let rt := { rt with x := some (f.scal, q.1), w := q.2, acc := List.replicate (tc.x.dv / 32) (List.replicate 32 f32Zero) }
  if t.opened then (rt, f) else (rt, { f with scal := mergePart f.scal q.1, nScal := f.nScal + 1 })

/-- One 16-position block of a chain's accumulation (R134). -/
def accBlock (x : Stream) (rt : RowTask) (j b : Nat) (raw : Bytes) (acc : List F32) : List F32 :=
  let rows := pageRows x.fmt x.dcode raw
  let tr := pageTrailer x.fmt x.dcode raw
  (List.range 16).foldl (fun acc i =>
    match rt.w.getD (16 * b + i) none with
    | some p => axpy p (((decodePos x.fmt x.dcode (rows.getD (16 * b + i) []) tr).2.drop (32 * j)).take 32) acc
    | none => acc) acc

/-- The o of a page's partial in one chain, once its blocks are done: not-a-number for a non-finite page (R131). -/
def chainOut (q : Part) (acc : List F32) : List F32 := if isNan q.m then acc.map (fun _ => f32Nan) else acc

/-- A: one block of one chain; the last one merges the chain into the running o (R137), and a non-finite result marks the
fold. -/
def runA (tc : TaskCtx) (t : PageTask) (rt : RowTask) (j b : Nat) (raw : Bytes) (f : Fold) : RowTask × Fold :=
  let acc := if t.ubounds.isSome then rt.acc.getD j [] else accBlock tc.x rt j b raw (rt.acc.getD j [])
  let rt := { rt with acc := rt.acc.set j acc, aDone := rt.aDone.set j (b + 1) }
  if t.opened || decide (b < 3) then (rt, f)
  else
    match rt.x with
    | none => (rt, f)
    | some (fs, q) =>
      let y := chainOut q acc
      let o := (mergePart { fs with o := f.o.getD j [] } { q with o := y }).o
      let fl := if anyBad y || anyBad o then flNonfinite else 0
      (rt, { f with o := f.o.set j o, nO := f.nO.set j (f.nO.getD j 0 + 1), scal := { f.scal with flags := f.scal.flags ||| fl } })

/-! ## Running a task on a slice's work -/

/-- The fold of a row before its first page. -/
def Fold.start (dv : Nat) : Fold :=
  ⟨identityPart 0, 0, List.replicate (dv / 32) (List.replicate 32 f32Zero), List.replicate (dv / 32) 0⟩

/-- A row task before its first task. -/
def RowTask.start (dv : Nat) : RowTask := ⟨List.replicate 64 none, [], none, [], List.replicate (dv / 32) 0, []⟩

/-- Pages of the same stream that a row folds before page index g. -/
def foldedBefore (w : SliceWork) (t : PageTask) (g : Nat) : Nat :=
  ((w.pages.take g).filter (fun q => q.kvh == t.kvh && !q.opened)).length

/-- The task context of a page of a command. -/
def taskCtx (c : Cmd) (t : PageTask) : Option TaskCtx :=
  match c.snaps.find? (fun s => s.kvh == t.kvh) with
  | some s => s.x.map (fun x => ⟨c, x, t.kvh, s.visible⟩)
  | none => none

/-- Is a task of the page's row ready, and not yet committed (R270, R271)? -/
def taskReady (w : SliceWork) (t : PageTask) (rt : RowTask) (f : Fold) (k : TaskKind) : Bool :=
  match k with
  | .score _ _ b => t.ubounds.isNone && decide (b < 4) && !rt.sDone.contains b
  | .exps g _ =>
    rt.x.isNone && (t.ubounds.isSome || [0, 1, 2, 3].all (fun b => rt.sDone.contains b)) &&
      (t.opened || f.nScal == foldedBefore w t g)
  | .accum g _ j b =>
    rt.x.isSome && decide (j < rt.aDone.length) && rt.aDone.getD j 0 == (if t.ubounds.isSome then b - 3 else b) &&
      (if t.ubounds.isSome then b == 3 else decide (b < 4)) &&
      (t.opened || decide (b < 3) || f.nO.getD j 0 == foldedBefore w t g)
  | _ => false

/-- Run an S, X or A task of a page; nothing when it is not ready or its data is not staged. -/
def runTask (c : Cmd) (w : SliceWork) (data : PageTask → Option Bytes) (k : TaskKind) : SliceWork :=
  let at' : Option (Nat × Nat) := match k with
    | .score g u _ => some (g, u)
    | .exps g u => some (g, u)
    | .accum g u _ _ => some (g, u)
    | _ => none
  match at' with
  | none => w
  | some (g, u) =>
    match w.pages[g]? with
    | none => w
    | some t =>
      match taskCtx c t, t.rows[u - t.u0]? with
      | some tc, some rt =>
        let f := mgetD w.folds u (Fold.start tc.x.dv)
        if u < t.u0 || !taskReady w t rt f k then w
        else
          let put := fun (e : RowTask × Fold) =>
            { w with
              pages := w.pages.set g { t with rows := t.rows.set (u - t.u0) e.1 }
              folds := if t.opened then w.folds else mset w.folds u e.2 }
          match k, data t with
          | .score _ _ b, some raw => put (runS tc t (u - t.u0) b rt raw, f)
          | .exps _ _, _ => put (runX tc t (u - t.u0) rt f)
          | .accum _ _ j b, some raw => put (runA tc t rt j b raw f)
          | _, _ => w
      | _, _ => w

/-- Every task of a page, in an order that respects readiness. -/
def pageTasks (t : PageTask) (g dv : Nat) : List TaskKind :=
  (List.range t.rows.length).flatMap (fun r =>
    let u := t.u0 + r
    (if t.ubounds.isSome then [] else (List.range 4).map (fun b => .score g u b)) ++ [.exps g u] ++
    (if t.ubounds.isSome then (List.range (dv / 32)).map (fun j => .accum g u j 3)
     else (List.range 4).flatMap (fun b => (List.range (dv / 32)).map (fun j => .accum g u j b))))

/-- Does a row of a page take a row slot: its scores, weights or scalars lie on the row board (Table 8-1)? -/
def slotTaken (omitted : Bool) (r : RowTask) : Bool :=
  (!r.sDone.isEmpty || r.x.isSome) && !(r.x.isSome && r.aDone.all (fun k => decide ((if omitted then 1 else 4) ≤ k)))

/-- Row slots taken on a slice. -/
def slotsTaken (sl : Slice) : Nat :=
  (sl.work.map (fun e => (e.2.pages.map (fun t => (t.rows.filter (slotTaken t.ubounds.isSome)).length)).sum)).sum

/-- Would the task take a 129th row slot? -/
def boardFull (sl : Slice) (w : SliceWork) (k : TaskKind) : Bool :=
  let at' : Option (Nat × Nat) := match k with
    | .score g u _ => some (g, u)
    | .exps g u => some (g, u)
    | _ => none
  match at' with
  | none => false
  | some (g, u) =>
    match (w.pages[g]?).bind (fun t => (t.rows[u - t.u0]?).map (fun r => slotTaken t.ubounds.isSome r)) with
    | some false => decide (128 ≤ slotsTaken sl)
    | _ => false

/-- The tiles the expander lays in the tile buffer for a task: 16 rows of 32 decoded elements each (R247). -/
def tilesOf (x : Stream) (t : PageTask) (raw : Bytes) (b : Nat) (groups : List Nat) : List BufTile :=
  let tr := pageTrailer x.fmt x.dcode raw
  let rows := ((pageRows x.fmt x.dcode raw).drop (16 * b)).take 16
  let vals := rows.map (fun r => let kv := decodePos x.fmt x.dcode r tr; kv.1 ++ kv.2)
  groups.map (fun j => ⟨t.chunk, b, j, vals.map (fun v => (v.drop (32 * j)).take 32)⟩)

/-- The tiles a task reads: all of its block's keys, or its chain's values. -/
def taskTiles (x : Stream) (t : PageTask) (raw : Bytes) (k : TaskKind) : List BufTile :=
  match k with
  | .score _ _ b => tilesOf x t raw b (List.range (x.dk / 32))
  | .accum _ _ j b => tilesOf x t raw b [x.dk / 32 + j]
  | _ => []

/-- The tile buffer with tiles laid in; the oldest leave (32 in all, Table 8-1; DESIGN CHOICE, log 143). -/
def layTiles (new old : List BufTile) : List BufTile :=
  (new ++ old.filter (fun a => !new.any (fun b => b.chunk == a.chunk && b.block == a.block && b.group == a.group))).take 32

/-- Has every task of the page been committed? -/
def pageDone (t : PageTask) : Bool :=
  t.rows.all (fun r => r.x.isSome && r.aDone.all (fun k => decide ((if t.ubounds.isSome then 1 else 4) ≤ k)))

/-- Sectors of pages read for tasks that have not committed stay staged (Table 8-1, R311); the others leave. -/
def pruneStaging (n : Nat) (x : Slice) : Slice :=
  let used := fun (c : Nat) => x.work.any (fun e => e.2.pages.any (fun t =>
    t.ubounds.isNone && decide (t.frame ≤ n) && !pageDone t && decide (t.chunk ≤ c) && decide (c < t.chunk + t.nchunk)))
  { x with staging := mfilter x.staging (fun key _ => used (key / 8)) }

/-- Run whatever is left of the pages charged to frames up to n (R274, R275). -/
def finishPages (c : Cmd) (w : SliceWork) (data : PageTask → Option Bytes) (n : Nat) : SliceWork :=
  (List.range w.pages.length).foldl (fun w g =>
    match w.pages[g]? with
    | some t =>
      if n < t.frame then w
      else match taskCtx c t with
        | some tc => (pageTasks t g tc.x.dv).foldl (fun w k => runTask c w data k) w
        | none => w
    | none => w) w

/-- The partial of row u of a slice: scalars and chains together. -/
def Fold.part (f : Fold) : Part := { f.scal with o := f.o.flatMap (fun o => o) }

/-- The page partial of an open page's row, from its tasks. -/
def RowTask.part (rt : RowTask) : Part :=
  match rt.x with
  | none => identityPart 0
  | some (_, q) =>
    let o := rt.acc.flatMap (fun a => chainOut q a)
    { q with o := o, flags := q.flags ||| (if anyBad o then flNonfinite else 0) }

/-! ## Recurrent states (R183) -/

/-- One token on one column of a state: the column's new values and its output. -/
def stepColumn (col : List F32) (x : StepIn) (j mode : Nat) : List F32 × F32 :=
  let u := if mode = 1 then (col.zip x.k).foldl (fun u e => fma e.1 e.2 u) f32Zero else f32Zero
  let w := f32Sub (x.v.getD j f32Zero) u
  let c := (List.range col.length).map (fun i =>
    fma (f32Mul x.beta (x.k.getD i f32Zero)) w (f32Mul (x.g.getD i f32Zero) (col.getD i f32Zero)))
  (c, (x.q.zip c).foldl (fun o e => fma e.1 e.2 o) f32Zero)

/-- The entry of a STATE_STEP payload for a head and token (R182). -/
def stepEntry (c : Cmd) (x : Stream) (head tok : Nat) : StepIn :=
  let e := stepInBytes x.dk x.dv
  stepInOf x.dk x.dv (slice c.payload (((head - c.hdr.kvh) * c.hdr.tok + tok) * e) e)

/-- C: column j takes its next token. -/
def runC (c : Cmd) (x : Stream) (w : StateWork) (j : Nat) : StateWork :=
  let t := w.done.getD j 0
  if t < c.hdr.tok ∧ j < w.cols.length then
    let r := stepColumn (w.cols.getD j []) (stepEntry c x w.head t) j c.hdr.stepMode
    { w with cols := w.cols.set j r.1, done := w.done.set j (t + 1), outs := w.outs.set j (w.outs.getD j [] ++ [(r.2, anyBad r.1)]) }
  else w

/-- All columns have taken every token. -/
def stepDone (c : Cmd) (w : StateWork) : Bool := w.done.all (fun t => t == c.hdr.tok)

/-- Run what is left of a state's columns. -/
def finishState (c : Cmd) (x : Stream) (w : StateWork) : StateWork :=
  (List.range w.cols.length).foldl (fun w j => (List.range c.hdr.tok).foldl (fun w _ => runC c x w j) w) w

/-- A state's elements row by row, from its columns. -/
def colsBytes (dk : Nat) (cols : List (List F32)) : Bytes :=
  stateBytes ((List.range dk).map (fun i => cols.map (fun c => c.getD i f32Zero)))

end Sys2Proof.Machine
end

