-- ==== Sys2Proof/Machine/Chain.lean ====
section
/-!
DEFINITION. Chain entries, event objects and waiters (R396–R408, R411), and the rows POST_CHAIN, ARM, FENCE, FENCE_RELEASE
and CHAIN_COMPLETION_TRIGGER (R376, R377, R397, R406).
-/

namespace Sys2Proof.Machine

/-! ## Handles (Tables 10-14, 10-15) -/

def chIndex (h : Nat) : Nat := bits h 17 0
def chGen (h : Nat) : Nat := bits h 31 18
def evIndex (h : Nat) : Nat := bits h 15 0
def evGen (h : Nat) : Nat := bits h 24 16
def evPart (h : Nat) : Nat := bits h 31 25

/-- The posted entry a handle names. -/
def chainEnt (s : State) (h : Nat) : Option ChainEnt :=
  match mget s.chains.ents (chIndex h) with
  | some e => if e.gen = chGen h ∧ e.state ≠ 0 then some e else none
  | none => none

/-- The live event object a handle names. -/
def eventObj (s : State) (h : Nat) : Option EventObj :=
  match mget s.chains.events (evIndex h) with
  | some e => if e.live && e.gen == evGen h && e.part == evPart h then some e else none
  | none => none

def updChains (s : State) (f : Chains → Chains) : State := { s with chains := f s.chains }

/-- The generation after g, never 0 (Tables 10-14, 10-15). -/
def nextGen (width g : Nat) : Nat := g % (2 ^ width - 1) + 1

/-! ## Waiters (R406–R408, R411) -/

/-- The waiters of an event, in acceptance order. -/
def waitersOf (s : State) (ev : Nat) : List (Nat × Cmd) :=
  s.adm.cmds.filter (fun e => e.2.hdr.opcode == opARM && e.2.st = .waiting && e.2.result.isNone && e.2.hdr.armEvent == ev)

/-- How the commands in an ARM's payload arrive: on the ARM's connection, chained (R407, R431). -/
def armDelivery (c : Cmd) : Delivery := ⟨c.conn, c.msn, c.region, c.rgen, c.addr, true, false, none, none⟩

/-- Complete an ARM whose counter stands at v; its payload is then checked as a command. -/
def releaseArm (s : State) (cid : Nat) (c : Cmd) (frame v : Nat) : State :=
  let s := finish s cid stOK 0 frame (v % 2 ^ 32) (v / 2 ^ 32)
  if c.payload.isEmpty then s else acceptBody s (armDelivery c) c.payload

/-- Release the waiters of an event that its counter satisfies, while its partition is resident. -/
def releaseWaiters (s : State) (ev : Nat) : State :=
  match eventObj s ev with
  | none => s
  | some e =>
    if !residentAt s e.part s.time.frame then s
    else forAll s (waitersOf s ev) (fun s w => if w.2.hdr.thresh ≤ e.counter then releaseArm s w.1 w.2 s.time.frame e.counter else s)

/-- WAITER_RELEASE at a frame start (R411): every waiter whose counter is met, in acceptance order. -/
def releaseAllWaiters (s : State) : State :=
  forAll s s.adm.cmds (fun s w =>
    if w.2.hdr.opcode = opARM && w.2.st = .waiting && w.2.result.isNone then
      match eventObj s w.2.hdr.armEvent with
      | some e =>
        if residentAt s e.part s.time.frame && decide (w.2.hdr.thresh ≤ e.counter) then
          releaseArm s w.1 w.2 s.time.frame e.counter
        else s
      | none => s
    else s)

/-- Add to an event's counter, saturating (R405), and release what it satisfies (R407). -/
def addEvent (s : State) (ev add : Nat) : State :=
  match eventObj s ev with
  | none => s
  | some _ =>
    releaseWaiters (updChains s (fun c =>
      { c with events := mmod c.events (evIndex ev) (fun e => { e with counter := satTo (2 ^ 64 - 1) (e.counter + add) }) })) ev

/-- Free an event object: its waiters end with `OWNER_LOST` and fire nothing (R408). -/
def freeEvent (s : State) (ev : Nat) : State :=
  match eventObj s ev with
  | none => s
  | some e =>
    let ws := waitersOf s ev
    let s := updChains s (fun c => { c with events := mmod c.events (evIndex ev) (fun e => { e with live := false }) })
    let s := updPart s e.part (fun p => { p with evUsed := p.evUsed - 1 })
    forAll s ws (fun s w => finishWith s w.1 ⟨stOWNERLOST, 0, s.time.frame, 0, 0, [], false⟩ 0 false)

/-- Free a chain entry. -/
def freeChain (s : State) (idx : Nat) : State :=
  match mget s.chains.ents idx with
  | none => s
  | some e =>
    if e.state = 0 then s
    else
      updPart (updChains s (fun c => { c with ents := mset c.ents idx { e with state := 0, image := 0 } })) e.part
        (fun p => { p with entUsed := p.entUsed - 1 })

/-! ## Firing (R399–R404) -/

/-- A trigger: its kind (`TRIG` coding), partition, the command it brings, the record a completion notifies, the frame of
R402, and the message it came in. -/
structure Trigger where
  kind : Nat
  part : Nat
  cmd : Option (Hdr × Bytes)
  record : Option (Hdr × Outcome0 × Nat)
  frame : Nat
  body : Bytes
  conn : Nat
  msn : Nat
  region : Nat
  rgen : Nat
  addr : Nat

/-- A whole command in a byte string: its header and payload. -/
def wholeCmd (body : Bytes) : Option (Hdr × Bytes) :=
  let h := parseHdr body
  if body.length < 64 ∨ body.length ≠ 64 + h.paylen then none else some (h, body.drop 64)

/-- An open connection that holds a grant in the partition. -/
def connOpenTo (s : State) (conn k : Nat) : Bool :=
  match mget s.conns conn with
  | some c => c.opened && mgetD c.grants k 0 != 0
  | none => false

/-- The fields of a message with no reply region. -/
def plainMsg (kind part : Nat) : MsgHdr := ⟨kind, part, 0, 0, 0, 0, 0, 0, false, 0⟩

/-- Does the entry's action have the data it needs (Table 10-19)? -/
def actionReady (s : State) (t : Trigger) (e : ChainEnt) : Bool :=
  let a := ceAct e.image
  let conn := connOpenTo s (ceConn e.image) e.part
  if a = 1 then t.cmd.isSome && conn
  else if a = 2 then t.kind == 2 && t.cmd.isSome && conn
  else if a = 3 then (eventObj s (ceEvent e.image)).isSome
  else conn

/-- FORWARD (R402, R403). The forwarded message's number is known when its first packet starts; until then the node knows it
by its place in the ready order. -/
def chainForward (s : State) (t : Trigger) (h : Nat) (e : ChainEnt) : State :=
  match t.cmd with
  | none => s
  | some (hd, payload) =>
    let x := e.image
    let hd := { hd with
      part := cePart x, queue := ceQueue x, tag := if ceTagKeep x then hd.tag else ceTag x,
      tframe := (t.frame + 1 + ceLead x) % 2 ^ 32, flags := putField hd.flags 2 1 0, chain := 0 }
    let seq := s.out.seq
    let s := queueMsg s (ceConn x) (partAt s e.part).egFwd (plainMsg 1 (cePart x)) (hdrBytes hd ++ payload) e.part none false 0
    updChains s (fun c => { c with fwd := c.fwd ++ [⟨ceConn x, 2 ^ 40 + seq, h, ceEvent x, ceAdd x, e.part⟩] })

/-- RUN (R404): accepted into the entry's partition and queue with the rights of `CONN`; records go to `CONN`, with the reply
fields of the triggering message when it came over it (R431). -/
def chainRun (s : State) (t : Trigger) (h : Nat) (e : ChainEnt) : State :=
  let x := e.image
  let same := t.conn == ceConn x
  acceptBody s
    { conn := ceConn x, msn := t.msn, region := if same then t.region else 0, rgen := if same then t.rgen else 0,
      addr := if same then t.addr else 0, chained := true, noreply := ceNoReply x, entry := some h,
      redirect := some (e.part, ceQueue x) } t.body

/-- The header a `NOTIFY` of a message trigger shows: `OPCODE` 0 and the entry's tag. -/
def notifyHdr (e : ChainEnt) : Hdr :=
  ⟨0, 0, 0, e.part, ceQueue e.image, 0, 0, ceTag e.image, 0, 0, 0, 0, 0, 0, 0, 0, false⟩

/-- NOTIFY (Table 10-19). -/
def chainNotify (s : State) (t : Trigger) (e : ChainEnt) : State :=
  let body := match t.record with
    | some (h, o, d) => statusRecord h true false d { o with body := [] }
    | none => statusRecord (notifyHdr e) false false 0 ⟨stOK, 0, t.frame, t.body.length, 0, [], false⟩
  queueMsg s (ceConn e.image) (bulkClass s e.part false) (plainMsg 2 0) body e.part none false 0

/-- Fire one entry: the state after it and the entry that follows, none when it is skipped or ends the list. A trigger of a kind
its entry does not take is none (R399): nothing fires and no event is raised (DEDUCED, log 152). -/
def fireOne (s : State) (t : Trigger) (h : Nat) (linked : Bool) : State × Option Nat :=
  let miss := (raise s 0x0801 (some t.part) h (if linked then 0 else t.kind), none)
  match chainEnt s h with
  | none => miss
  | some e =>
    if e.state ≠ 1 ∨ e.part ≠ t.part then miss
    else if !linked ∧ ceTrig e.image ≠ t.kind then (s, none)
    else if !actionReady s t e then miss
    else
      let s := if cePersist e.image then s
        else updChains s (fun c => { c with ents := mmod c.ents (chIndex h) (fun e => { e with state := 2 }) })
      let a := ceAct e.image
      let s := if a = 1 then chainForward s t h e
        else if a = 2 then chainRun s t h e
        else if a = 3 then addEvent s (ceEvent e.image) (ceAdd e.image)
        else chainNotify s t e
      (s, if ceNextEn e.image then some (ceNext e.image) else none)

/-- Fire a list of entries, at most `fuel` (R400, R401); a list of exactly 64 ends by itself (DEDUCED, log 152). -/
def fireList (fuel : Nat) (s : State) (t : Trigger) (first h : Nat) (linked : Bool) : State :=
  match fuel with
  | 0 => raise s 0x0802 (some t.part) first 64
  | f + 1 =>
    match fireOne s t h linked with
    | (s, none) => s
    | (s, some n) => fireList f s t first n true

/-- A trigger fires its entry and the list it heads. -/
def fireChain (s : State) (t : Trigger) (h : Nat) : State := fireList 64 s t h h false

/-- Does a completion entry accept a status (`ANY`, R399)? An entry that has gone is left to the firing, which notes it. -/
def acceptsStatus (s : State) (h st : Nat) : Bool :=
  match chainEnt s h with
  | some e => ceAny e.image || st == stOK || st == stOMITTED
  | none => true

/-- CHAIN_COMPLETION_TRIGGER (R399): at the start of the frame after `CFRAME`, in acceptance order. -/
def completionTrigger (cid : Nat) (s : State) : State :=
  match mget s.chains.trigs cid with
  | none => s
  | some (h, payload, o, frame, d) =>
    if s.time.frame < frame || s.chains.trigs.any (fun e => decide (e.1 < cid) && decide (e.2.2.2.2.1 ≤ s.time.frame)) then s
    else
      let s := updChains s (fun c => { c with trigs := mdel c.trigs cid })
      if acceptsStatus s h.chain o.status then
        fireChain s ⟨1, h.part, some (h, payload), some (h, o, d), o.cframe, [], 0, 0, 0, 0, 0⟩ h.chain
      else s

def execChainCompletionTrigger (cid : Nat) (s : State) : Host.Outcome State Fault Refusal := .next (completionTrigger cid s)

/-- The record of a forwarded command arrives (R403), dropped when the partition of its entry has been reset (R524, marked
by partition 128): `none` when the message answers no forwarded command. -/
def forwardReply (s : State) (conn answers : Nat) (body : Bytes) : Option State :=
  match s.chains.fwd.find? (fun f => f.conn == conn && f.msn == answers) with
  | none => none
  | some f =>
    if recInterim body then some s
    else
      let s := updChains s (fun c => { c with fwd := c.fwd.filter (fun g => !(g.conn == conn && g.msn == answers)) })
      let st := recStatus body
      if f.part = 128 then some s
      else if st = stOK ∨ st = stOMITTED then some (if f.event = 0 then s else addEvent s f.event f.add)
      else some (raise s 0x0803 (some f.part) f.entry (packFields [(0, 32, recTag body), (32, 8, st)]))

/-! ## POST_CHAIN (R396–R398) -/

/-- Complete a POST_CHAIN in its admission pass. -/
def postDone (s : State) (cid : Nat) (c : Cmd) (st det : Nat) : State := finish (acted s cid) cid st det c.planD.start 0 0

/-- The first free slot of a table of `n` slots whose entries keep their generation. -/
def freeSlot {α : Type} (m : SMap α) (isFree : α → Bool) (n : Nat) : Option Nat :=
  match m.find? (fun e => isFree e.2) with
  | some e => some e.1
  | none => (mfree m (m.length + 1) 0).bind (fun i => if i < n then some i else none)

/-- Post an entry. -/
def postChainPost (cid : Nat) (s : State) : State :=
  match actable s cid opPOST with
  | none => s
  | some c =>
    if c.hdr.postOp ≠ 0 then s
    else
      let img := leAt c.payload 0 32
      let p := partAt s c.hdr.part
      if ceBad img then postDone s cid c stMALFORMED (stepDetail 10 0)
      else match (if p.entUsed < p.entMax then freeSlot s.chains.ents (fun e => e.state == 0) 262144 else none) with
        | none => postDone s cid c stNOBUDGET 0
        | some i =>
          let g := nextGen 14 ((mget s.chains.ents i).map (fun e => e.gen) |>.getD 0)
          let s := updChains s (fun ch => { ch with ents := mset ch.ents i ⟨g, c.hdr.part, img, 1⟩ })
          let s := updPart s c.hdr.part (fun p => { p with entUsed := p.entUsed + 1 })
          postDone s cid c stOK (packFields [(18, 14, g), (0, 18, i)])

def execPostChainPost (cid : Nat) (s : State) : Host.Outcome State Fault Refusal := .next (postChainPost cid s)

/-- Free an entry of the partition. -/
def postChainFreeEntry (cid : Nat) (s : State) : State :=
  match actable s cid opPOST with
  | none => s
  | some c =>
    if c.hdr.postOp ≠ 1 then s
    else match chainEnt s c.hdr.postHandle with
      | some e =>
        if e.part = c.hdr.part then postDone (freeChain s (chIndex c.hdr.postHandle)) cid c stOK 0
        else postDone s cid c stMALFORMED (stepDetail 10 0)
      | none => postDone s cid c stMALFORMED (stepDetail 10 0)

def execPostChainFreeEntry (cid : Nat) (s : State) : Host.Outcome State Fault Refusal := .next (postChainFreeEntry cid s)

/-- Create an event object, its counter at 0. -/
def postChainCreateEvent (cid : Nat) (s : State) : State :=
  match actable s cid opPOST with
  | none => s
  | some c =>
    if c.hdr.postOp ≠ 2 then s
    else
      let p := partAt s c.hdr.part
      match (if p.evUsed < p.evMax then freeSlot s.chains.events (fun e => !e.live) 65536 else none) with
      | none => postDone s cid c stNOBUDGET 0
      | some i =>
        let g := nextGen 9 ((mget s.chains.events i).map (fun e => e.gen) |>.getD 0)
        let s := updChains s (fun ch => { ch with events := mset ch.events i ⟨g, c.hdr.part, 0, true⟩ })
        let s := updPart s c.hdr.part (fun p => { p with evUsed := p.evUsed + 1 })
        postDone s cid c stOK (packFields [(25, 7, c.hdr.part), (16, 9, g), (0, 16, i)])

def execPostChainCreateEvent (cid : Nat) (s : State) : Host.Outcome State Fault Refusal := .next (postChainCreateEvent cid s)

/-- Free an event object of the partition. -/
def postChainFreeEvent (cid : Nat) (s : State) : State :=
  match actable s cid opPOST with
  | none => s
  | some c =>
    if c.hdr.postOp ≠ 3 then s
    else match eventObj s c.hdr.postHandle with
      | some e =>
        if e.part = c.hdr.part then postDone (freeEvent s c.hdr.postHandle) cid c stOK 0
        else postDone s cid c stMALFORMED (stepDetail 10 0)
      | none => postDone s cid c stMALFORMED (stepDetail 10 0)

def execPostChainFreeEvent (cid : Nat) (s : State) : Host.Outcome State Fault Refusal := .next (postChainFreeEvent cid s)

/-! ## ARM and FENCE (R376, R377, R406) -/

/-- Waiters in use. -/
def waiterCount (s : State) : Nat :=
  (s.adm.cmds.filter (fun e => e.2.hdr.opcode == opARM && e.2.st = .waiting && e.2.result.isNone)).length

/-- ARM (R406). -/
def arm (cid : Nat) (s : State) : State :=
  match actable s cid opARM with
  | none => s
  | some c =>
    let n := c.planD.start
    if !c.payload.isEmpty && (wholeCmd c.payload).isNone then finish (acted s cid) cid stMALFORMED (stepDetail 10 0) n 0 0
    else match eventObj s c.hdr.armEvent with
      | none => finish (acted s cid) cid stMALFORMED (stepDetail 10 0) n 0 0
      | some e =>
        if c.hdr.thresh ≤ e.counter then releaseArm (acted s cid) cid c n e.counter
        else if 65536 ≤ waiterCount s then finish (acted s cid) cid stNOBUDGET 0 n 0 0
        else updCmd s cid (fun c => { c with st := .waiting })

def execArm (cid : Nat) (s : State) : Host.Outcome State Fault Refusal := .next (arm cid s)

/-- Commands a FENCE still waits for (R376). -/
def fenceWaits (s : State) (cid : Nat) (f : Cmd) : Bool :=
  s.adm.cmds.any (fun e => decide (e.1 < cid) && fenceCovers cid f e.1 e.2)

/-- FENCE (R376): with nothing earlier in its queues it completes in its first pass; else it waits. -/
def fence (cid : Nat) (s : State) : State :=
  match actable s cid opFENCE with
  | none => s
  | some c =>
    if fenceWaits s cid c || 0 < c.aux.getD 0 0 then updCmd s cid (fun c => { c with st := .waiting })
    else finish (acted s cid) cid stOK 0 c.target 0 0

def execFence (cid : Nat) (s : State) : Host.Outcome State Fault Refusal := .next (fence cid s)

/-- FENCE_RELEASE: the last covered command's final record has been sent (R376). -/
def fenceRelease (cid : Nat) (s : State) : State :=
  match cmdAt s cid with
  | none => s
  | some c =>
    if c.hdr.opcode != opFENCE || c.st != .waiting || c.result.isSome || fenceWaits s cid c then s
    else finish s cid stOK 0 (c.aux.getD 1 c.target) (c.aux.getD 0 0) 0

def execFenceRelease (cid : Nat) (s : State) : Host.Outcome State Fault Refusal := .next (fenceRelease cid s)

end Sys2Proof.Machine
end

