-- ==== Sys2Proof/Machine/CmdMove.lean ====
section
/-!
DEFINITION. Moving pages: PARK and RESTORE between the stacks and T2, READ, ordinary read grants, and migration (R332–R336,
R341–R356, R563, R564).
-/

namespace Sys2Proof.Machine

/-! ## Reading a stored page -/

/-- A stored page with its coded bytes, or why it cannot be read: its summary record, or one of its sectors (Table 15-7). -/
def loadPage (s : State) (i : Nat) (x : Stream) (p : Nat) (e : PageEnt) : Except Bad (Bytes × Nat) :=
  match getSummary s i x p e with
  | none => .error (0x08, e.sumChunk)
  | some sum =>
    let n := sumCodedBytes sum
    match getObject (sliceAt s i) i (partKey s x.part) e.chunk (pageObj x e n) n with
    | .error c => .error (0x03, c)
    | .ok bs => .ok (bs, n)

/-- Complete a command whose read failed: `INTEGRITY` with the cause (R599). -/
def failRead (s : State) (cid i kvh : Nat) (b : Bad) (page : Nat) : State := finishIntegrity (acted s cid) cid i kvh b page

/-! ## PARK (R351–R353, R563) -/

/-- What PARK takes of a page or of a state's block: its coded form, or the block's current half (Table 5-14). -/
def loadForm (s : State) (x : Stream) (q : PageView) : Except Bad (Bytes × Nat) :=
  if x.isState then
    let b := formChunks x q.ent
    match getObject (sliceAt s q.slice) q.slice (partKey s x.part) (q.ent.chunk + b * (x.sealed % 2)) (stateObj x q.ent) (4096 * b) with
    | .error c => .error (0x03, c)
    | .ok bs => .ok (bs, 4096 * b)
  else loadPage s q.slice x q.page q.ent

/-- Move one page into park staging, or say why it cannot be read. -/
def parkPage (s : State) (cid cf : Nat) (x : Stream) (q : PageView) : Except Bad State :=
  match loadForm s x q with
  | .error c => .error c
  | .ok (bs, _) =>
    let hub := x.home
    let img := parkImage (partKey s x.part) (parkNonce hub (hubAt s hub).parkCtr) q.own q.page q.ent.version x.fmtVer x.part bs
    let s := updHub s hub (fun y => { y with parkCtr := y.parkCtr + 1 })
    let s := updFtl s hub (fun y =>
      { y with
        images := mset y.images (t0Key q.own q.page) img
        programs := y.programs ++ [(q.own, q.page)]
        parkStage := y.parkStage + 4096 * formChunks x q.ent })
    .ok (addEff s (cf + 1) cid (.parked q.own q.page))

/-- PARK (R351–R353): all its pages go to staging, or none. -/
def park (cid : Nat) (s : State) : State :=
  match actable s cid opPARK with
  | none => s
  | some c =>
    let cf := c.planD.cframe
    match parkPages (viewAt s c.planD.start) c.hdr with
    | none => s
    | some (x, ps) =>
      let r := ps.foldl (fun (acc : State × Option (Bad × PageView)) q =>
        match acc.2 with
        | some _ => acc
        | none => match parkPage acc.1 cid cf x q with
          | .ok t => (t, none)
          | .error c => (acc.1, some (c, q))) (acted s cid, none)
      match r.2 with
      | some (b, q) => failRead s cid q.slice x.kvh b q.page
      | none => finish r.1 cid stOK 0 cf ps.length 0

def execPark (cid : Nat) (s : State) : Host.Outcome State Fault Refusal := .next (park cid s)

/-! ## RESTORE (R354–R356, R564) -/

/-- Restore staging of a hub in use, reads queued for it included. -/
def restoreUse (s : State) (hub : Nat) : Nat :=
  ((ftlAt s hub).restStage.map (fun e => parkBytes e.2)).sum +
  ((ftlAt s hub).reads.map (fun q => (mget (ftlAt s hub).images (t0Key q.2.1 q.2.2)).elim 0 parkBytes)).sum

/-- RESTORE, fetch phase (R354): at acceptance the parked pages of the range queue their NAND reads, once restore staging has room
for them (Table 9-2); a range that needs more than its 8 MiB ends as a PARK's does (R352; DEDUCED, log 148). -/
def restore (cid : Nat) (s : State) : State :=
  match cmdAt s cid with
  | none => s
  | some c =>
    if c.hdr.opcode != opRESTORE || c.st != .queued || c.result.isSome then s
    else
      let v := viewAt s s.time.frame
      let ps := (restorePages v c.hdr).filter (fun e =>
        (mget (ftlAt s (hubOfHandle e.2.own)).images (t0Key e.2.own e.2.page)).any (fun m => !m.lost))
      let hub := (ps.head?.map (fun e => hubOfHandle e.2.own)).getD 0
      let need := (ps.map (fun e => (mget (ftlAt s hub).images (t0Key e.2.own e.2.page)).elim 0 parkBytes)).sum
      if 8 * 1048576 < need then
        finish (updCmd s cid (fun c => { c with target := max c.target (s.adm.closed + 1) })) cid stMALFORMED 0 (max c.target (s.adm.closed + 1)) 0 0
      else if 8 * 1048576 < restoreUse s hub + need then s
      else
      let s := updFtl s hub (fun y => { y with reads := y.reads ++ ps.map (fun e => (cid, e.2.own, e.2.page)) })
      updCmd s cid (fun c => { c with
        st := .fetching ps.length, target := if ps.isEmpty then max c.target (s.adm.closed + 1) else c.target })

def execRestore (cid : Nat) (s : State) : Host.Outcome State Fault Refusal := .next (restore cid s)

/-- One read of a fetching RESTORE is over; with the last, the command enters admission (R354). -/
def fetchOne (s : State) (cid : Nat) : State :=
  updCmd s cid (fun c =>
    match c.st with
    | .fetching n =>
      if n ≤ 1 then { c with st := .fetching 0, target := s.adm.closed + 1 } else { c with st := .fetching (n - 1) }
    | _ => c)

/-- Write one staged page to its home slice (R354, R121): its chunks, its version, the summary's and that of an
indexed page's association record, by a rewrite (R212); a state's block into its current half. None without room. -/
def restorePage (s : State) (cid cf : Nat) (x : Stream) (q : PageView) (img : T2Image) : Option State :=
  let n := if x.isState then q.ent.nchunk + 1 else chunksFor img.coded.length
  match allocRun (sliceAt s q.slice) n with
  | none => none
  | some (c, sl) =>
    let v := nextVersion 64 sl c n
    if x.isState then
      let y := putObject v.2 q.slice (partKey s x.part) (c + n / 2 * (x.sealed % 2)) ⟨kState, v.1, x.fmtVer, 0, 0⟩ img.coded
      some (addEff (nearFullCheck { s with slices := mset s.slices q.slice y } q.slice) (cf + 1) cid (.restored q.own q.page v.1 c n))
    else
    let kind := if img.coded.length < rawSize x.fmt x.dcode then kCoded else kRaw
    let o : ObjId := ⟨kind, v.1, x.fmtVer, x.fmt, x.dcode⟩
    let s := { s with slices := mset s.slices q.slice (putObject v.2 q.slice (partKey s x.part) c o img.coded) }
    let s := queueSummary s q.slice cid cf q.ent.sumChunk x.part (q.ent.sumOff * 16 + 2) (leBytes 4 v.1)
    let s := match indexOf s q.own with
      | some r => { s with oboe := { s.oboe with updates := s.oboe.updates ++ [.rewrite (hubOfHandle q.own) r.tag q.own q.page v.1] } }
      | none => s
    some (addEff (nearFullCheck s q.slice) (cf + 1) cid (.restored q.own q.page v.1 c n))

/-- Forget the staged pages of a RESTORE. -/
def dropStaging (s : State) (ps : List (Nat × Nat)) : State :=
  forAll s ps (fun s e => updFtl s (hubOfHandle e.1) (fun y => { y with restStage := mdel y.restStage (t0Key e.1 e.2) }))

/-- RESTORE, write phase (R354–R356): every staged page returns, or none; lost ones stay parked. -/
def restoreWritePhase (cid : Nat) (s : State) : State :=
  match actable s cid opRESTORE with
  | none => s
  | some c =>
    let cf := c.planD.cframe
    match oneStream (viewAt s c.planD.start) c.hdr with
    | none => s
    | some (_, x) =>
      let ps := (restorePages (viewAt s c.planD.start) c.hdr).map (fun e => e.2)
      let stage := fun (q : PageView) => mget (ftlAt s (hubOfHandle q.own)).restStage (t0Key q.own q.page)
      let here := ps.filter (fun q => (stage q).isSome)
      let lost := ps.filter (fun q => (stage q).isNone)
      let r := here.foldl (fun (o : Option State) q =>
        match o, stage q with
        | some t, some img => restorePage t cid cf x q img
        | _, _ => none) (some (acted s cid))
      let keys := here.map (fun q => (q.own, q.page))
      match r with
      | none => finish (dropStaging (acted s cid) keys) cid stNOBUDGET 0 c.planD.start 0 0
      | some t =>
        let t := dropStaging t keys
        match lost with
        | [] => finish t cid stOK 0 cf here.length 0
        | q :: _ => finish t cid stPAGELOST (lossDetail false x.kvh 0x05 q.page) cf here.length lost.length

def execRestoreWritePhase (cid : Nat) (s : State) : Host.Outcome State Fault Refusal := .next (restoreWritePhase cid s)

/-! ## READ (R333–R336) -/

/-- An entry of a `READ` result (Table 9-6). -/
def readEntry (version rows form page : Nat) (img : Bytes) : Bytes :=
  leBytes 16 (packFields [(96, 32, version), (64, 32, img.length), (40, 7, rows), (33, 3, form), (0, 18, page)]) ++ img

/-- The header of Table 7-5 and what follows it. -/
def imageOf (s : State) (x : Stream) (kind version : Nat) (bs : Bytes) : Bytes :=
  leBytes 16 (packFields
    [(0, 8, kind), (8, 4, x.fmt), (16, 3, x.dcode), (24, 8, floorPfv s), (32, 32, version), (64, 32, 16 + bs.length)]) ++ bs

/-- The raw page image of rows not all of which are written yet: a row without data is zeros (R84, R336). -/
def rawImage (fmt dcode : Nat) (rows : List Bytes) (trailer : Bytes) : Bytes :=
  rawPage fmt dcode (rows ++ List.replicate (64 - rows.length) (zeros (posBytes fmt dcode))) (fitTo (trailerBytes fmt dcode) trailer)

/-- The entry of one page, or the cause for which it cannot be read. -/
def readPage (s : State) (x : Stream) (q : PageView) : Except Bad Bytes :=
  if q.parked then .ok (readEntry 0 64 (if q.lost = some 5 then 7 else 6) q.page [])
  else if q.sealed then
    match loadPage s q.slice x q.page q.ent with
    | .error c => .error c
    | .ok (bs, n) =>
      .ok (readEntry q.ent.version 64 1 q.page
        (imageOf s x (if n < rawSize x.fmt x.dcode then 1 else 3) q.ent.version bs))
  else
    let live := min 64 (x.length - 64 * q.page)
    let form := match t0At s q.own q.page with
      | some t => if t.dirty then 4 else 3
      | none => 2
    match openRows s x q.own q.page q.ent q.slice live with
    | .error c => .error (0x03, c)
    | .ok r => .ok (readEntry q.ent.version live form q.page (imageOf s x 3 q.ent.version (rawImage x.fmt x.dcode r.1 r.2)))

/-- The whole current half of a state as one entry; the version is that of its first block. -/
def readState (s : State) (h : Nat) (x : Stream) : Except Nat Bytes :=
  let v := ((entsIn (sliceAt s (homeSlice s h 0)) h).head?.map (fun e => e.2.version)).getD 0
  if (entsIn (sliceAt s (homeSlice s h 0)) h).any (fun e => e.2.form == 3) then
    .ok (readEntry 0 0 (if lostCause s h 0 = some 5 then 7 else 6) 0 [])
  else match readHalf s h x (x.sealed % 2) with
  | .error c => .error c
  | .ok bs => .ok (readEntry v 0 5 0 bs)

/-- READ (R333–R336): its entries, read as they stand at the start of its span; the grants it uses queue on the slices. -/
def read (cid : Nat) (s : State) : State :=
  match actable s cid opREAD with
  | none => s
  | some c =>
    let cf := c.planD.cframe
    let v := viewAt s c.planD.start
    match oneStream v c.hdr with
    | none => s
    | some (hd, x) =>
      if x.isState then
        match readState v hd x with
        | .ok b => finishBody (acted s cid) cid stOK 0 cf 1 0 b
        | .error ch => failRead s cid (homeSlice v hd 0) x.kvh (0x03, ch) 0
      else
        let ps := rangePages v c.hdr hd x
        let r := ps.foldl (fun (o : Except (Bad × PageView) Bytes) q =>
          match o with
          | .error e => .error e
          | .ok acc => match readPage v x q with
            | .ok b => .ok (acc ++ b)
            | .error e => .error (e, q)) (.ok [])
        match r with
        | .error (b, q) => failRead s cid q.slice x.kvh b q.page
        | .ok body =>
          let s := forAll (acted s cid) c.planD.ords (fun s i => updSlice s i (fun y => { y with reads := y.reads ++ [(cid, cf)] }))
          finishBody s cid stOK 0 cf ps.length 0 body

def execRead (cid : Nat) (s : State) : Host.Outcome State Fault Refusal := .next (read cid s)

/-- Ordinary reads a slice may grant in the current base interval, or frame of 1.024 µs (R42). -/
def grantLimit (t : Time) : Nat := if t.len = 0 then 8 else if t.bint % 16 = 15 then 6 else 16

/-- ORDINARY_READ_GRANT (R332): one burst of the slice's waiting reads, up to the count of R42; a row-group test in
progress on the slice holds it back (R611). The data it brings is the command's own (READ); the stall moves no result. -/
def ordinaryReadGrant (i : Nat) (s : State) : State :=
  let x := sliceAt s i
  let testing := s.adm.jobs.any (fun e => e.2.kind == .rowTest && e.2.slice == i && e.2.granted == some s.time.frame)
  if x.reads.isEmpty || testing || sliceOut s i s.time.frame || decide (grantLimit s.time ≤ x.grants) then s
  else updSlice s i (fun x => { x with grants := x.grants + 1 })

def execOrdinaryReadGrant (slice : Nat) (s : State) : Host.Outcome State Fault Refusal := .next (ordinaryReadGrant slice s)

/-! ## Migration (R341–R350) -/

/-- Owner number of what the copy of page p of a stream under migration makes. -/
def migOwner (h p : Nat) : Nat := 2 ^ 50 + t0Key h p

/-- The page entry a copy has made at its destination slice. -/
def copyEnts (s : State) (h : Nat) (x : Stream) (m : MigRec) (p : Nat) : Nat × List (Nat × PageEnt) :=
  let xs := partList s x.part
  let j := if m.state = 2 then placeOf xs x.base x.width p else placeOf xs m.abase m.awidth p
  (j, (entsIn (sliceAt s j) h).filter (fun e => x.isState || e.2.page == p))

/-- Source and destination of page p's copy. -/
def copyEnds (s : State) (x : Stream) (m : MigRec) (p : Nat) : Nat × Nat :=
  let xs := partList s x.part
  let a := placeOf xs m.abase m.awidth p
  let b := placeOf xs x.base x.width p
  if m.state = 2 then (a, b) else (b, a)

/-- Abandon one copy in flight and free what it took at its destination (R347, R349, R588). -/
def abandonCopy (s : State) (h p : Nat) : State :=
  match migOf s h, streamAt s h with
  | some m, some x =>
    let e := copyEnds s x m p
    let d := copyEnts s h x m p
    let s := { s with adm := { s.adm with effs := s.adm.effs.filter (fun f => f.eff != .migCopied h p) } }
    let s := updHub s (hubOfHandle h) (fun y => { y with migs := mmod y.migs (idxOfHandle h) (fun m =>
      { m with copies := m.copies.filter (fun c => c.1 != p) }) })
    if e.1 = e.2 then s
    else forAll s d.2 (fun s en =>
      let s := updSlice s d.1 (fun y => unlinkEnt s d.1 y h en.2.page)
      holdFree s d.1 x.part (s.time.frame + 1) (if en.2.form = 3 then [] else [(en.2.chunk, en.2.nchunk + 1)]) [en.1]
        (if x.isState then [] else [(en.2.sumChunk, en.2.sumOff)]))
  | _, _ => s

/-- The width a MIGRATE names (R103, R342). -/
def migTarget (s : State) (x : Stream) (h : Hdr) : Nat :=
  let len := (partList s x.part).length
  if h.migWidth = 0 then (if x.window = 0 then len else min len (x.window + 1)) else h.migWidth

/-- MIGRATE, forward (R343, R348): the record that its copies fill, new or resumed. -/
def migrate (cid : Nat) (s : State) : State :=
  match actable s cid opMIGRATE with
  | none => s
  | some c =>
    if c.hdr.reverse then s
    else match oneStream (viewAt s c.planD.start) c.hdr with
      | none => s
      | some (hd, x) =>
        let m : MigRec := match migOf s hd with
          | some m => { m with state := 1, cid := cid, bg := c.hdr.bg, failed := none, copied := 0 }
          | none =>
            { stream := hd, abase := c.hdr.migBase, awidth := migTarget s x c.hdr, doneTo := x.forkPages, state := 1,
              bg := c.hdr.bg, copies := [], cid := cid, failed := none, copied := 0 }
        let s := updHub s (hubOfHandle hd) (fun y => { y with migs := mset y.migs (idxOfHandle hd) m })
        updCmd s cid (fun c => { c with st := .waiting })

def execMigrate (cid : Nat) (s : State) : Host.Outcome State Fault Refusal := .next (migrate cid s)

/-- MIGRATE with `REVERSE` (R347). A forward MIGRATE still waiting on the record ends with the reverse (DEDUCED, log 22). -/
def migrateReverse (cid : Nat) (s : State) : State :=
  match actable s cid opMIGRATE with
  | none => s
  | some c =>
    if !c.hdr.reverse then s
    else match oneStream (viewAt s c.planD.start) c.hdr with
      | none => s
      | some (hd, _) =>
        match migOf s hd with
        | none => s
        | some m =>
          let s := forAll s m.copies (fun s e => abandonCopy s hd e.1)
          let s := match cmdAt s m.cid with
            | some o => if o.st = .waiting ∧ o.result.isNone then
                finish (bumpFree s) m.cid (Config.freeValue (freshNo s)).toNat 0 c.planD.cframe m.copied 0 else s
            | none => s
          let s := updHub s (hubOfHandle hd) (fun y =>
            { y with migs := mmod y.migs (idxOfHandle hd) (fun m => { m with state := 2, cid := cid, bg := c.hdr.bg, failed := none, copied := 0 }) })
          updCmd s cid (fun c => { c with st := .waiting })

def execMigrateReverse (cid : Nat) (s : State) : Host.Outcome State Fault Refusal := .next (migrateReverse cid s)

/-- A copy has failed (R349): the page stays, the record halts, higher copies are abandoned, and the MIGRATE completes. -/
def failCopy (s : State) (h p status : Nat) : State :=
  match migOf s h with
  | none => s
  | some m =>
    let higher := fun q => if m.state = 2 then decide (q ≤ p) else decide (p ≤ q)
    let s := forAll s (m.copies.filter (fun c => higher c.1)) (fun s e => abandonCopy s h e.1)
    let s := updHub s (hubOfHandle h) (fun y =>
      { y with migs := mmod y.migs (idxOfHandle h) (fun m => { m with state := 3, failed := some p }) })
    match cmdAt s m.cid with
    | some c => if c.st = .waiting then finish s m.cid status p s.time.frame m.copied 0 else s
    | none => s

/-- The page a migration copies next (R344, R347): ascending from `DONE`, or descending below it. -/
def nextCopy (x : Stream) (m : MigRec) : Option Nat :=
  if m.state = 1 then
    let p := m.copies.foldl (fun a c => max a (c.1 + 1)) m.doneTo
    if p < migPages x then some p else none
  else if m.state = 2 then
    let p := m.copies.foldl (fun a c => min a c.1) m.doneTo
    if x.forkPages < p then some (p - 1) else none
  else none

/-- A page in open form whose rows are full waits for its seal (R344). -/
def awaitsSeal (x : Stream) (p : Nat) (e : PageEnt) : Bool := e.form == 1 && decide (64 * (p + 1) ≤ x.length)

/-- Chunks a page's copy moves by sequence: those it occupies, or the raw page of an open page in its slice. -/
def copyChunks (x : Stream) (e : PageEnt) : Nat :=
  if e.form = 2 then e.nchunk + 1 else if e.form = 1 && !e.openT0 then x.r else 0

/-- The needs of one copy (R344): two sequences, or ordinary bytes with `BG`, and the summary record's ordinary bytes. -/
def copyCost (x : Stream) (m : MigRec) (ends : Nat × Nat) (es : List PageEnt) : Need :=
  let nd := { Need.zero x.part with node := true }
  let k := if x.isState then ((es.filter (fun e => e.form == 2)).map (fun e => (e.nchunk + 1) / 2)).sum else (es.map (copyChunks x)).sum
  let off := (es.head?.map (fun e => e.sumOff * 16)).getD 0
  let sum := if x.isState then 0 else spanCost [(off, summarySize x.dcode)]
  let ord := [(ends.1, sum), (ends.2, sum)].filter (fun e => e.2 != 0)
  let nd := { nd with ord := ord.foldl (fun o e => addTo o e.1 e.2) nd.ord }
  if k = 0 then nd
  else if m.bg then { nd with ord := addTo (addTo nd.ord ends.1 (4096 * k)) ends.2 (4096 * k) }
  else { nd with seqs := [(ends.1, k), (ends.2, k)] }

/-- Copy one page entry of a stream that is not a state: its data under a new version, its summary record, its entry at
the destination. Answers why the source cannot be read, or none without room. -/
def copyPage (s : State) (h : Nat) (x : Stream) (cf : Nat) (ends : Nat × Nat) (p : Nat) (e : PageEnt) :
    Option (Except Bad (State × Nat)) :=
  let i := ends.1
  let j := ends.2
  let key := partKey s x.part
  let run := if e.form = 3 then 0 else if e.form = 2 then e.nchunk + 1 else if e.openT0 then x.r else 2 * x.r
  match reservePage (sliceAt s j) h x.part p run (summarySize x.dcode) (e.form != 1 || e.openT0) with
  | none => none
  | some (idx, ent, sl) =>
    let sum := getSummary s i x p e
    let v := if e.form = 2 then nextVersion 64 sl ent.chunk run else (if e.form = 3 then e.version else ent.version, sl)
    let ent := { ent with version := v.1, openT0 := e.openT0, form := e.form, nchunk := run - 1 }
    let place := fun (s : State) (sl : Slice) => nearFullCheck { s with slices := mset s.slices j (linkEnt s j sl h idx ent) } j
    let putSum := fun (s : State) (bs : Bytes) =>
      queueSummary s j (migOwner h p) cf ent.sumChunk x.part (ent.sumOff * 16) (sumWithVersion bs v.1)
    if e.form = 1 then
      if e.openT0 then some (.ok (place s v.2, v.1))
      else
        match openRaw s x e i (min 64 (x.length - 64 * p)) with
        | .error c => some (.error (0x03, c))
        | .ok raw => some (.ok (place s (putObject v.2 j key ent.chunk ⟨kRows, v.1, x.fmtVer, x.fmt, x.dcode⟩ raw), v.1))
    else
      match sum with
      | none => some (.error (0x08, e.sumChunk))
      | some bs =>
        if e.form = 3 then some (.ok (putSum (place s v.2) bs, v.1))
        else
          let n := sumCodedBytes bs
          match getObject (sliceAt s i) i key e.chunk (pageObj x e n) n with
          | .error c => some (.error (0x03, c))
          | .ok data =>
            some (.ok (putSum (place s (putObject v.2 j key ent.chunk { pageObj x e n with version := v.1 } data)) bs, v.1))

/-- Copy a state's blocks whole: the current half under new versions, both halves' chunks reserved (Table 5-14). -/
def copyState (s : State) (h : Nat) (x : Stream) (ends : Nat × Nat) (es : List (Nat × PageEnt)) : Option (Except Bad State) :=
  let i := ends.1
  let j := ends.2
  let half := x.sealed % 2
  es.foldl (fun (o : Option (Except Bad State)) e =>
    match o with
    | some (.ok s) =>
      let b := blockChunks x.stateChunks e.2.page
      match freeEnt (sliceAt s j), allocRun (sliceAt s j) (2 * b) with
      | some idx, some (c, sl) =>
        if e.2.form = 3 then
          some (.ok { s with slices := mset s.slices j (linkEnt s j (sliceAt s j) h idx { e.2 with chunk := 0 }) })
        else
        let v := nextVersion 64 sl c (2 * b)
        let ent := { e.2 with version := v.1, chunk := c }
        if e.2.form = 1 then some (.ok { s with slices := mset s.slices j (linkEnt s j v.2 h idx ent) })
        else
          match getObject (sliceAt s i) i (partKey s x.part) (e.2.chunk + half * b) (stateObj x e.2) (4096 * b) with
          | .error c => some (.error (0x03, c))
          | .ok d =>
            let sl := putObject v.2 j (partKey s x.part) (c + half * b) ⟨kState, v.1, x.fmtVer, 0, 0⟩ d
            some (.ok { s with slices := mset s.slices j (linkEnt s j sl h idx ent) })
      | _, _ => none
    | o => o) (some (.ok s))

/-- Note a copy in flight, complete at the end of frame cf (R345), with the rewrite of an indexed page (R212). -/
def noteCopy (s : State) (h p cf : Nat) (ver : Option Nat) : State :=
  let s := updHub s (hubOfHandle h) (fun y =>
    { y with migs := mmod y.migs (idxOfHandle h) (fun m => { m with copies := m.copies ++ [(p, false)] }) })
  let s := addEff s (cf + 1) (migOwner h p) (.migCopied h p)
  match ver, indexOf s h with
  | some v, some r =>
    { s with oboe := { s.oboe with updates := s.oboe.updates ++ [.rewrite (hubOfHandle h) r.tag h p v] } }
  | _, _ => s

/-- MIGRATION_COPY (R344): plan the copy of the stream's next page from the first frame whose admission is open, and make
it; nothing happens while it does not fit, or while the page waits for another change of form. A copy to a fenced slice fails
(R349), and one from a fenced slice finds its page lost (R591; DEDUCED, log 149). -/
def migrationCopy (h p : Nat) (s : State) : State :=
  match migOf s h, streamAt s h with
  | some m, some x =>
    if nextCopy x m != some p || decide (64 ≤ m.copies.length) || s.adm.stopped then s
    else
      let ends := copyEnds s x m p
      let es := (entsIn (sliceAt s ends.1) h).filter (fun e => x.isState || e.2.page == p)
      if sliceFenced s ends.2 s.time.frame then failCopy s h p stFENCED
      else if sliceFenced s ends.1 s.time.frame then failCopy s h p stPAGELOST
      else if (if x.isState then stateBusy s h else es.any (fun e => awaitsSeal x p e.2) || pageBusy s h p) ||
          sliceOut s ends.1 s.time.frame || sliceOut s ends.2 s.time.frame then s
      else if ends.1 = ends.2 || es.isEmpty then noteCopy s h p s.time.frame none
      else
        let nd := copyCost x m ends (es.map (fun e => e.2))
        let n := s.adm.closed + 1
        match (if lenAt s n = s.time.len then planNeed s (fun _ => true) (migOwner h p) nd n else none) with
        | none => s
        | some pl =>
          if !(withinCaps s [] 2 nd pl && otherFits s (windowSlots s pl.start) nd pl) then s
          else
            let r := reserve s nd pl
            if x.isState then
              match copyState r h x ends es with
              | none => s
              | some (.error b) => failCopy (reportBad s ends.1 b p) h p stINTEGRITY
              | some (.ok t) => noteCopy t h p pl.cframe none
            else match es.head? with
              | none => s
              | some e => match copyPage r h x pl.cframe ends p e.2 with
                | none => s
                | some (.error b) => failCopy (reportBad s ends.1 b p) h p stINTEGRITY
                | some (.ok (t, v)) => noteCopy t h p pl.cframe (if e.2.form = 2 then some v else none)
  | _, _ => s

def execMigrationCopy (handle page : Nat) (s : State) : Host.Outcome State Fault Refusal := .next (migrationCopy handle page s)

/-- MIGRATION_COPY_FAIL (R349): the copy's destination (cause 0) or its source read has failed. -/
def migrationCopyFail (h p cause : Nat) (s : State) : State :=
  match migOf s h with
  | some m => if m.copies.any (fun c => c.1 == p && !c.2) then failCopy s h p (if cause = 0 then stFENCED else stINTEGRITY) else s
  | none => s

def execMigrationCopyFail (handle page cause : Nat) (s : State) : Host.Outcome State Fault Refusal :=
  .next (migrationCopyFail handle page cause s)

/-- At a frame start, every record moves `DONE` and a MIGRATE whose record has gone completes with `OK` (R345–R347). One
whose stream has been closed ends with a free status: the manual names none (DEDUCED, log 22). -/
def migFrame (s : State) (f : Nat) : State :=
  let recs := s.hub0.migs.map (fun e => (handleOf 0 e.1, e.2)) ++ s.hub1.migs.map (fun e => (handleOf 1 e.1, e.2))
  let s := forAll s recs (fun s e => migStep s e.1 f)
  let s := forAll s recs (fun s e =>
    match migOf s e.1 with
    | none => s
    | some m =>
      if m.state != 0 then s
      else
        let s := updHub s (hubOfHandle e.1) (fun y => { y with migs := mdel y.migs (idxOfHandle e.1) })
        match cmdAt s m.cid with
        | some c => if c.st = .waiting && c.result.isNone then finish s m.cid stOK 0 (f - 1) m.copied 0 else s
        | none => s)
  forAll s s.adm.cmds (fun s e =>
    if e.2.hdr.opcode == opMIGRATE && e.2.st == .waiting && e.2.result.isNone && !recs.any (fun r => r.2.cid == e.1) then
      finish (bumpFree s) e.1 (Config.freeValue (freshNo s)).toNat 0 (f - 1) 0 0
    else s)

/-! ## Request contexts (R168) -/

/-- VPOOL_HOLD_EXPIRY: frame c + `HOLD` has ended. -/
def vpoolHoldExpiry (hub slot : Nat) (s : State) : State :=
  match mget (hubAt s hub).ctxs slot with
  | some x => if x.expiry < s.time.frame then releaseCtx s hub slot (some 3) else s
  | none => s

def execVpoolHoldExpiry (hub slot : Nat) (s : State) : Host.Outcome State Fault Refusal := .next (vpoolHoldExpiry hub slot s)

end Sys2Proof.Machine
end

