-- ==== Sys2Proof/Machine/Conn.lean ====
section
/-!
DEFINITION. Connections as the rest of the node sees them: closing one (R470, R527), and the pool of connection numbers.
-/

namespace Sys2Proof.Machine

/-- Retire every completed command of a connection whose record will not leave. -/
def discardResults (s : State) (c : Nat) : State :=
  forAll s s.adm.cmds (fun s e => if e.2.conn = c && e.2.result.isSome then retireCmd s e.1 else s)

/-- Close a connection for a reason (R470): its state goes with its grants (R527) and the space of its incomplete messages
(R438), its unretired messages are abandoned, the results of its commands are discarded, and the event is raised. -/
def closeConn (s : State) (c reason : Nat) : State :=
  match mget s.conns c with
  | none => s
  | some x =>
    let s := forAll { s with conns := mdel s.conns c } x.inMsgs (fun s m => releaseT0 s m.2.hdr.part m.2.hub m.2.blocks)
    let s := { s with chains := { s.chains with fwd := s.chains.fwd.filter (fun f => f.conn != c) } }
    let s := { s with time := { s.time with joinConn := if s.time.joinConn = some c then none else s.time.joinConn } }
    let s := discardResults s c
    if x.opened then raise s 0x0703 none c reason else s

end Sys2Proof.Machine
end

