-- ==== Sys2Proof/Machine/Ras.lean ====
section
/-!
DEFINITION. Faults, quarantine, fences and lost data (R579–R602, R609–R612): what an error report, a test's end and a fence do
to units, commands, jobs and pages.
-/

namespace Sys2Proof.Machine

/-! ## Units and whom their events concern (Table 15-20) -/

/-- Is a unit present (Tables 1-2, 15-21). -/
def unitPresent (s : State) (u : RasUnit) : Bool :=
  match u with
  | .core n g p => decide (n < stackCount s) && decide (g < 256) && decide (p < 50)
  | .merge h g p => (h == 0 || (h == 1 && hub1Present s)) && decide (g < 128) && decide (p < 33)
  | .rowGroup i g => decide (i < sliceCount s) && decide (g < 8192)
  | .slice i => decide (i < sliceCount s)
  | .stack n => decide (n < stackCount s)
  | .t0 h r => (h == 0 || (h == 1 && hub1Present s)) && decide (r < 260)
  | .lane p l => decide (p < 16) && portPresent s p && decide (l < 8)
  | .port p => decide (p < 16) && portPresent s p
  | .blane b l => decide (b < 4) && portPresent s (16 + b) && decide (l < 16)
  | .blink b => decide (b < 4) && portPresent s (16 + b)
  | .laneGroup n g => decide (n < stackCount s) && decide (g < 17)
  | .bridge l => hub1Present s && decide (l < 1024)

/-- Slices of a unit that takes slices out of service. -/
def unitSlices (u : RasUnit) : List Nat :=
  match u with
  | .slice i => [i]
  | .stack n => (List.range 1024).map (fun j => 1024 * n + j)
  | _ => []

/-- Partitions a unit's events concern; none: the event is node-wide. -/
def unitParts (s : State) (u : RasUnit) : Option (List Nat) :=
  match u with
  | .slice i => some (partsOfSlice s i)
  | .rowGroup i _ => some (partsOfSlice s i)
  | .stack n => some ((s.parts.filter (fun e => e.2.state != 0 &&
      e.2.ranges.any (fun r => decide (r.1 < 1024 * (n + 1)) && decide (1024 * n < r.1 + r.2)))).map (fun e => e.1))
  | _ => none

/-- A record for the log alone (R580, R584): its category's `PEND` bit rises with it (R691). -/
def logOnly (s : State) (code subject data : Nat) : State :=
  { s with ras := logRecord s.ras ⟨code, 0, 0, s.time.frame, subject, data⟩, irq := raisePend s.irq (evCat code) }

/-- Raise an event about a unit in its scope; about a slice of no partition, the log alone takes it. -/
def raiseUnit (s : State) (code : Nat) (u : RasUnit) (data : Nat) : State :=
  match unitParts s u with
  | none => raise s code none (unitId u) data
  | some [] => logOnly s code (unitId u) data
  | some ks => raiseParts s code ks (unitId u) data

/-! ## Commands that a unit stops (R586, R598, R727) -/

/-- Does a command hold a reservation on one of the slices in frame n or later? -/
def holdsOn (s : State) (cid : Nat) (c : Cmd) (on : Nat → Bool) (n : Nat) : Bool :=
  match c.plan with
  | none => false
  | some p =>
    p.chunks.any (fun e => on e.1 && e.2.any (fun f => decide (n ≤ f.1))) ||
    (decide (n ≤ p.cframe) && (p.ords.any on ||
      p.seqs.any (fun q => on q.1 && ((sliceAt s q.1).seqs.any (fun h => h.owner == cid && decide (n ≤ frameOf s.time h.last))))))

/-- Take back what a stopped command has pending (R72): changes of tables, queued writes, jobs it gave rise to, work on
slices, images on the way to T2. Its reservations stand (DEDUCED, log 23). -/
def cancelCmd (s : State) (cid : Nat) : State :=
  match cmdAt s cid with
  | none => s
  | some c =>
    let f := s.time.frame + 1
    let mine := s.adm.effs.filter (fun e => e.cid == cid)
    let s := { s with adm := { s.adm with
      effs := s.adm.effs.filter (fun e => e.cid != cid)
      jobs := mfilter s.adm.jobs (fun _ (j : Job) => !(j.cid == cid && j.left.isNone && [JobKind.code, .upload, .writePart, .rerun].contains j.kind)) } }
    let s := { s with slices := s.slices.map (fun e =>
      (e.1, { e.2 with
        ordq := e.2.ordq.filter (fun w => w.cid != cid)
        reads := e.2.reads.filter (fun r => r.1 != cid)
        work := mdel e.2.work cid
        states := mdel e.2.states cid })) }
    let s := forAll s mine (fun s e => match e.eff with
      | .parked h p => dropImage s h p
      | .restored h p _ ch n => holdFree s (homeSlice s h p) c.hdr.part f [(ch, n)] [] []
      | .create h x => forAll s s.slices (fun s sl => forAll s (entsIn sl.2 h) (fun s en =>
          let s := dropT0Page s h en.2.page f x.r x.part x.home
          holdFree (updSlice s sl.1 (fun y => unlinkEnt s sl.1 y h en.2.page)) sl.1 x.part f [(en.2.chunk, en.2.nchunk + 1)] [en.1]
            (if x.isState then [] else [(en.2.sumChunk, en.2.sumOff)])))
      | .dropTo h _ (some r) =>
        match streamAt s h with
        | none => s
        | some x =>
          let s := if r.ent.openT0 then holdT0 s x.part x.home f x.r else s
          holdFree s r.slice x.part f [(r.ent.chunk, r.ent.nchunk + 1)] [] [(r.ent.sumChunk, r.ent.sumOff)]
      | _ => s)
    let op := c.hdr.opcode
    if op = opAPPEND ∨ op = opACCEPT ∨ op = opWRITE ∨ op = opPUSH then undoPages s c f else s

/-- Stop a command with an outcome (R727): nothing of it is delivered, nothing it had pending takes effect. A `VERIFY` whose
context exists answers with its handle (R162), and an `ACCEPT` releases the context it names (R168). -/
def stopCmd (s : State) (cid : Nat) (o : Outcome0) (fires : Bool) : State :=
  if recordLeft s cid then s
  else match cmdAt s cid with
    | none => s
    | some c => releaseNamed (finishWith (noteOutcome (cancelCmd s cid) c o) cid (keepHandle s c o) 0 fires) c

/-- Give back a job on a slice that leaves service (R586): its changes and queued writes go, and it is admitted again. -/
def returnJob (s : State) (n : Nat) : State :=
  let s := { s with adm := { s.adm with effs := s.adm.effs.filter (fun e => e.cid != jobOwner n) } }
  let s := { s with slices := s.slices.map (fun e => (e.1, { e.2 with ordq := e.2.ordq.filter (fun w => w.cid != jobOwner n) })) }
  abandonJob s n

/-- Copies in flight into or out of slices that leave service are abandoned and issued again later (R586, R588). -/
def returnCopies (s : State) (on : Nat → Bool) : State :=
  let recs := s.hub0.migs.map (fun e => (handleOf 0 e.1, e.2)) ++ s.hub1.migs.map (fun e => (handleOf 1 e.1, e.2))
  forAll s recs (fun s e =>
    match streamAt s e.1 with
    | none => s
    | some x =>
      match e.2.copies.find? (fun c => !c.2 && (on (copyEnds s x e.2 c.1).1 || on (copyEnds s x e.2 c.1).2)) with
      | none => s
      | some c => forAll s (e.2.copies.filter (fun d => !d.2 && (if e.2.state = 2 then decide (d.1 ≤ c.1) else decide (c.1 ≤ d.1))))
          (fun s d => abandonCopy s e.1 d.1))

/-- Work in flight when a slice or stack enters quarantine (R586, R588): reason and low bits of the `FENCED` detail. -/
def quarantineWork (s : State) (u : RasUnit) (reason low : Nat) : State :=
  let is := unitSlices u
  let on := fun i => match u with
    | .slice j => i == j
    | .stack n => stackOf i == n
    | _ => false
  if is.isEmpty then s
  else
    let n := s.time.frame
    let s := forAll s s.adm.cmds (fun s e =>
      if holdsOn s e.1 e.2 on n then stopCmd s e.1 ⟨stFENCED, fencedDetail reason low, n, 0, 0, [], false⟩ true else s)
    let s := forAll s s.adm.jobs (fun s e => if on e.2.slice && e.2.kind != .zero then returnJob s e.1 else s)
    returnCopies s on

/-! ## Quarantine (Table 15-2) -/

/-- First frame whose admission has not closed. -/
def openFrame (s : State) : Nat := s.adm.closed + 1

/-- First frame a unit is out: a slice or stack when admission has not closed, others at once. -/
def quarStart (s : State) (u : RasUnit) : Nat :=
  match u with
  | .slice _ => openFrame s
  | .stack _ => openFrame s
  | _ => s.time.frame

/-- The quarantine entry of a unit whose test has not ended. -/
def quarOf (s : State) (u : RasUnit) : Option Quar := s.ras.quar.find? (fun q => q.unit == u && q.back.isNone)

/-- A request on a unit that enters quarantine ends refused (R618), with the test it started. -/
def refuseRequest (s : State) (k : Nat) : State :=
  raise (updPart s k (fun p => { p with maintReq := BitVec.ofNat 64 (putField (putField p.maintReq.toNat 48 8 5) 36 1 0) }))
    0x0E01 (some k) k 5

/-- The T0 region a physical region serves as: itself, or for a spare the region it took over (Table 15-9). -/
def t0Logical (fuel : Nat) (s : State) (h r : Nat) : Nat :=
  if r < 256 then r
  else match fuel with
    | 0 => r
    | f + 1 =>
      match (s.ras.fences.filterMap (fun x => match x.unit with
          | .t0 h' r' => if h' = h then some r' else none
          | _ => none))[r - 256]? with
      | some r' => t0Logical f s h r'
      | none => r

/-- Region of the request-context pool that a T0 region holds: the pool starts at region 96 (DESIGN CHOICE, log 24). -/
def poolRegion (s : State) (h r : Nat) : Option Nat :=
  let l := t0Logical 5 s h r
  if 96 ≤ l ∧ l < 96 + (hubAt s h).vsize then some (l - 96) else none

/-- Mark the request contexts that lie in a quarantined pool region (R173). -/
def markUnder (s : State) : State :=
  let f := fun (h : Nat) (m : SMap ReqCtx) => m.map (fun e => (e.1, { e.2 with
    under := (hubAt s h).poolBad.contains e.2.region0 ||
      (e.2.slot1.isSome && (hubAt s (1 - h)).poolBad.contains e.2.region1) }))
  { s with hub0 := { s.hub0 with ctxs := f 0 s.hub0.ctxs }, hub1 := { s.hub1 with ctxs := f 1 s.hub1.ctxs } }

/-- Keep admission out of a pool region, or let it in again. -/
def setPoolBad (s : State) (u : RasUnit) (bad : Bool) : State :=
  match u with
  | .t0 h r =>
    match poolRegion s h r with
    | none => s
    | some k =>
      markUnder (updHub s h (fun y =>
        { y with poolBad := if bad then k :: y.poolBad.filter (fun j => j != k) else y.poolBad.filter (fun j => j != k) }))
  | _ => s

/-- Start a unit's quarantine (R579), or count the error into the test under way (R584). A row group's test joins the job
list (Table 15-2). -/
def startQuar (s : State) (u : RasUnit) (cause : Nat) : State :=
  match quarOf s u with
  | some q =>
    if q.requested.isNone then
      logOnly { s with ras := { s.ras with quar := s.ras.quar.map (fun x =>
        if x.unit == u && x.back.isNone then { x with worse := true } else x) } } 0x0304 (unitId u) cause
    else
      let s := { s with ras := { s.ras with quar := s.ras.quar.map (fun x =>
        if x.unit == u && x.back.isNone then ⟨u, cause, quarStart s u, false, none, none, []⟩ else x) } }
      let s := match q.requested with
        | some k => refuseRequest s k
        | none => s
      raiseUnit (setPoolBad s u true) 0x0304 u cause
  | none =>
    let s := { s with ras := { s.ras with quar := s.ras.quar ++ [⟨u, cause, quarStart s u, false, none, none, []⟩] } }
    let s := setPoolBad (raiseUnit s 0x0304 u cause) u true
    match u with
    | .rowGroup i g =>
      addJob s { kind := .rowTest, handle := 0, page := g, slice := i, cid := 0, target := openFrame s, granted := none,
                 coded := [], summary := [], k := 18, source := 1 }
    | .slice i => quarantineWork s u 3 i
    | .stack n => quarantineWork s u 4 n
    | _ => s

/-- End a quarantine: the unit is back, or fenced, from frame f. -/
def endQuar (s : State) (u : RasUnit) (f : Nat) : State :=
  { s with ras := { s.ras with quar := s.ras.quar.map (fun q => if q.unit == u && q.back.isNone then { q with back := some f } else q) } }

/-! ## Lost pages and lost streams (R591, R592, R600) -/

/-- Enter an identity in a hub's lost-identity table, the oldest giving way (R358). -/
def loseIdent (s : State) (hub : Nat) (x : Stream) : State :=
  let k := identKey s x.part x.ctx x.layer x.kvh
  updHub s hub (fun y =>
    let xs := y.lostIds.filter (fun j => j != k)
    { y with lostIds := (if xs.length < 65536 then xs else xs.drop 1) ++ [k] })

/-- Remove a stream whose entry is lost (Table 15-5): its identity is kept, its pages are freed, its children go with it. -/
def loseStream (fuel : Nat) (s : State) (h : Nat) : State :=
  match fuel with
  | 0 => s
  | f + 1 =>
    match streamAt s h with
    | none => s
    | some x =>
      let s := loseIdent s (hubOfHandle h) x
      let kids := ((allStreams s).filter (fun e => e.2.depth != 0 && e.2.parent == h)).map (fun e => e.1)
      let s := forAll s kids (fun s k => loseStream f s k)
      let s := updHub s (hubOfHandle h) (fun y =>
        { y with lostPages := mfilter y.lostPages (fun k _ => k / 2 ^ 18 != h) })
      closeEntry 1 s h (s.time.frame + 1)

/-- A page is lost and recorded (R591); with the table full the whole stream is lost (R592). -/
def losePage (s : State) (h p cause : Nat) : State :=
  let t := (hubAt s (hubOfHandle h)).lostPages
  if mhas t (t0Key h p) || t.length < 262144 then enterLost s h p cause
  else match streamAt s h with
    | none => s
    | some x =>
      raise (loseStream 9 s h) 0x0401 (some x.part) h (packFields [(0, 19, x.pages)])

/-- The Oboe entries of a stream go, and its record with them: it counts as not indexed (Table 15-5, R214). -/
def loseIndex (s : State) (hub idx : Nat) : State :=
  match mget (hubAt s hub).index idx with
  | none => s
  | some _ => retireIndex s hub idx

/-- A request context is lost (R173, R393, Table 5-9): a VERIFY that has not delivered its records completes with `CTX_LOST`;
otherwise the handle is remembered as lost. -/
def loseCtx (s : State) (hub slot det : Nat) : State :=
  match mget (hubAt s hub).ctxs slot with
  | none => s
  | some x =>
    let hd := ctxHandleOf hub x.gen slot
    match s.adm.cmds.find? (fun e => e.2.hdr.opcode == opVERIFY && e.2.handle == hd && e.2.result.isNone) with
    | some e => stopCmd (releaseCtx s hub slot none) e.1 ⟨stCTXLOST, det, endFrame s e.1, 0, 0, [], false⟩ true
    | none => releaseCtx s hub slot (some det)

/-- Lose one object of T0 (Table 15-5); `det` is 1 for a failing block and 2 for a region that fails its test. -/
def loseT0 (s : State) (det : Nat) (o : T0Obj) : State :=
  match o with
  | .stream h => loseStream 9 s h
  | .page h p =>
    match streamAt s h with
    | none => s
    | some x =>
      if (t0At s h p).isNone then s
      else losePage (dropT0Page (dropPageJobs s h p) h p (s.time.frame + 1) x.r x.part x.home) h p 0x07
  | .context hub slot => loseCtx s hub slot det
  | .indexRec hub idx => loseIndex s hub idx
  | .command cid =>
    match cmdAt s cid with
    | none => s
    | some c => stopCmd s cid ⟨stINTEGRITY, lossDetail false c.hdr.kvh 0x07 0, endFrame s cid, 0, 0, [], false⟩ true
  | .connection c => closeConn s c 0x01
  | .chainEntry i => freeChain s i
  | .event i =>
    match mget s.chains.events i with
    | some e => if e.live then freeEvent s (packFields [(25, 7, e.part), (16, 9, e.gen), (0, 16, i)]) else s
    | none => s
  | .parkStaging h p =>
    match s.adm.effs.find? (fun e => e.eff == .parked h p) with
    | some e => stopCmd s e.cid ⟨stINTEGRITY, lossDetail false (kvhOf s h) 0x07 p, endFrame s e.cid, 0, 0, [], false⟩ true
    | none =>
      -- the page's entry shows it parked already: its one copy is gone with the staging (DEDUCED, log 25)
      if (ftlAt s (hubOfHandle h)).programs.contains (h, p) then
        losePage (updFtl s (hubOfHandle h) (fun y => { y with images := mmod y.images (t0Key h p) (fun m => { m with lost := true }) })) h p 0x07
      else s
  | .restStaging h p =>
    match s.adm.cmds.find? (fun e => e.2.hdr.opcode == opRESTORE && e.2.result.isNone &&
        (restorePages s e.2.hdr).any (fun q => q.2.own == h && q.2.page == p)) with
    | some e => stopCmd (dropStaging s [(h, p)]) e.1 ⟨stCTXLOST, det, endFrame s e.1, 0, 0, [], false⟩ true
    | none => s
  | .mapCopy => s

/-! ## Fences (R582, R583, R590–R594, R598, R599) -/

/-- Place a fence at the next frame start; `kind` is 0 for a failed test, 1 for a third transient, 2 without test. -/
def placeFence (s : State) (u : RasUnit) (cause kind : Nat) : State :=
  if s.ras.fences.any (fun f => f.unit == u) then s
  else
    let f := s.time.frame + 1
    let s := endQuar s u f
    let s := { s with ras := { s.ras with fences := s.ras.fences ++ [⟨u, cause, f⟩], flash := s.ras.flash ++ [(u, cause)] } }
    raiseUnit s 0x0306 u (packFields [(0, 8, cause), (8, 2, kind)])

/-- The pages of one named stream that a command needs, in the view of its span (R598): those of its attended range, those
its rows go to, those of its page range, the page a `FORK` or `DROP` copies, the pages an index reads; a state is one page. -/
def neededOf (v : State) (c : Cmd) (h : Nat) (x : Stream) : List Nat :=
  let op := c.hdr.opcode
  let held := fun (ps : List Nat) => ps.filter (fun p => holdsPage v x.ctx x.layer p)
  let rows := fun (pos n : Nat) => held ((pageParts 4097 pos n).map (fun e => e.1))
  if x.isState then [0]
  else if op = opATTEND ∨ op = opVERIFY ∨ op = opSELECT then
    (attendedPages v h x (rowBounds c.hdr c.payload x.length x.win)).map (fun p => p.page)
  else if op = opAPPEND ∨ op = opWRITE then rows c.hdr.pos c.hdr.npos
  else if op = opPUSH then rows c.hdr.pos (64 * (c.hdr.npage - 1) + c.hdr.lastRows)
  else if op = opACCEPT then rows x.length c.hdr.acount
  else if op = opREAD ∨ op = opPARK ∨ op = opRESTORE then (rangePages v c.hdr h x).map (fun p => p.page)
  else if op = opFORK then held (if c.hdr.forkP % 64 = 0 then [] else [c.hdr.forkP / 64])
  else if op = opDROP then held (if c.hdr.dropQ % 64 = 0 then [] else [c.hdr.dropQ / 64])
  else if op = opINDEX then (indexPages v h x).map (fun p => p.page)
  else []

/-- Pages a command needs on slices: (KV head, stream, page), ascending. -/
def neededOn (s : State) (c : Cmd) (on : Nat → Bool) : List (Nat × Nat × Nat) :=
  let v := viewAt s c.planD.start
  c.snaps.flatMap (fun y =>
    match (match y.x with
      | some x => some x
      | none => streamAt v y.handle) with
    | none => []
    | some x => ((neededOf v c y.handle x).filter (fun p => on (homeSlice v (owner v y.handle p) p))).map
        (fun p => (y.kvh, y.handle, p)))

/-- A command that needs pages of a slice it can no longer read completes with `PAGE_LOST` and their ranges (R598). -/
def stopLost (s : State) (cid : Nat) (c : Cmd) (is : List Nat) (cause : Nat) : State :=
  let pages := (neededOn s c (fun i => is.contains i)).map (fun e => (e.1, e.2.1, e.2.2, cause))
  let b := lostBody s pages
  let low := (pages.head?.map (fun e => (e.1, e.2.2.1))).getD (c.hdr.kvh, 0)
  stopCmd s cid ⟨stPAGELOST, lossDetail true low.1 cause low.2, s.time.frame, b.2, pages.length, b.1, false⟩ true

/-- Loss cause of a fenced unit's pages (Table 15-7). -/
def fenceCause (u : RasUnit) : Nat :=
  match u with
  | .slice _ => 0x01
  | _ => 0x02

/-- Entries of a stream on slices a fence has just taken, but for pages already lost (R591). -/
def pagesLostBy (s : State) (h : Nat) (on : Nat → Bool) : Nat :=
  ((s.slices.filter (fun e => on e.1)).map (fun e => ((entsIn e.2 h).filter (fun p =>
    !mhas (hubAt s (hubOfHandle h)).lostPages (t0Key h p.2.page))).length)).sum

/-- A fence raises `EV_PAGE_LOST` for every stream that has lost pages by it (Table 15-20). -/
def noteLost (s : State) (u : RasUnit) (on : Nat → Bool) : State :=
  forAll s (allStreams s) (fun s e =>
    let n := pagesLostBy s e.1 on
    if n = 0 then s else raise s 0x0401 (some e.2.part) e.1 (packFields [(0, 19, n), (24, 6, fenceCause u)]))

/-- A fence of a slice or stack takes effect: commands that hold it complete with `PAGE_LOST`, its jobs go with their pages
(R586, R591), and copies into it fail (R349). -/
def fenceSlices (s : State) (u : RasUnit) : State :=
  let on := fun i => match u with
    | .slice j => i == j
    | .stack n => stackOf i == n
    | _ => false
  let n := s.time.frame
  let s := forAll s s.adm.cmds (fun s e =>
    if holdsOn s e.1 e.2 on n then stopLost s e.1 e.2 ((unitSlices u).filter (fun i =>
      (match e.2.plan with
       | some p => mhas p.chunks i || p.ords.contains i || p.seqs.any (fun q => q.1 == i)
       | none => false))) (fenceCause u)
    else s)
  let s := forAll s s.adm.jobs (fun s e => if on e.2.slice then
      (if e.2.kind = .zero then delJob s e.1 else delJob (returnJob s e.1) e.1) else s)
  let recs := s.hub0.migs.map (fun e => (handleOf 0 e.1, e.2)) ++ s.hub1.migs.map (fun e => (handleOf 1 e.1, e.2))
  let s := noteLost s u on
  forAll s recs (fun s e =>
    match streamAt s e.1 with
    | none => s
    | some x => match e.2.copies.find? (fun c => on (copyEnds s x e.2 c.1).2) with
      | some c => failCopy s e.1 c.1 stFENCED
      | none => s)

/-- A T0 region's spare takes its addresses (Table 15-9): the region is in service again when one was free. -/
def fenceT0 (s : State) (u : RasUnit) (h : Nat) : State :=
  let k := if h = 1 then s.ras.t0spare1 else s.ras.t0spare0
  if 4 ≤ k then s
  else
    let s := setPoolBad s u false
    if h = 1 then { s with ras := { s.ras with t0spare1 := k + 1 } } else { s with ras := { s.ras with t0spare0 := k + 1 } }

/-- Fences that start with the current frame take effect. -/
def applyFences (s : State) : State :=
  forAll s (s.ras.fences.filter (fun f => f.start == s.time.frame)) (fun s f =>
    match f.unit with
    | .slice _ => fenceSlices s f.unit
    | .stack _ => fenceSlices s f.unit
    | .t0 h _ => fenceT0 s f.unit h
    | _ => s)

/-- Bridge lanes out in one direction: the lower half of the numbers is one direction (DESIGN CHOICE, log 26). -/
def bridgeOut (s : State) (l : Nat) : Nat :=
  (s.ras.fences.filter (fun f => match f.unit with
    | .bridge m => m / 512 == l / 512
    | _ => false)).length

/-- The bridge fails: hub 1 and every unit attached to it are fenced, its streams removed (R594). -/
def fenceBridge (s : State) : State :=
  let s := forAll s ((List.range 12).map (fun j => 12 + j)) (fun s n => placeFence s (.stack n) 0x11 2)
  let s := forAll s ((List.range 8).map (fun j => 8 + j)) (fun s p =>
    placeFence (updPort s p (fun x => { x with up := false, lanes := 0 })) (.port p) 0x11 2)
  let s := forAll s [2, 3] (fun s b =>
    placeFence (updPort s (16 + b) (fun x => { x with up := false, lanes := 0 })) (.blink b) 0x11 2)
  forAll s s.hub1.streams (fun s e => loseStream 9 s (handleOf 1 e.1))

/-- Every request context in a T0 region that has failed its test is lost (R173). -/
def loseRegion (s : State) (h r : Nat) : State :=
  match poolRegion s h r with
  | none => s
  | some k =>
    let s := forAll s ((hubAt s h).ctxs.filter (fun e => e.2.region0 == k)) (fun s e => loseCtx s h e.1 2)
    forAll s ((hubAt s (1 - h)).ctxs.filter (fun e => e.2.slot1.isSome && e.2.region1 == k)) (fun s e => loseCtx s (1 - h) e.1 2)

/-- A unit is fenced, with what its kind does at once: the failed core or merge core is marked, a lost T0 region's objects
are lost, and a bridge lane without a spare takes the bridge (Tables 15-2, 15-5, 15-9). -/
def fenceUnit (s : State) (u : RasUnit) (cause kind : Nat) (held : List T0Obj) : State :=
  let s := placeFence s u cause kind
  match u with
  | .core n g p => updStack s n (fun x => { x with spare := mupd x.spare g SpareMap.reset (fun m =>
      { m with failing := m.failing ||| 2 ^ p, testing := m.testing &&& (2 ^ 50 - 1 - 2 ^ p) }) })
  | .merge h g p =>
    let f := fun (m : SMap MergeGroup) => mupd m g MergeGroup.reset (fun y =>
      { y with failed := p :: y.failed, testing := y.testing.filter (fun j => j != p) })
    if h = 1 then { s with ras := { s.ras with merge1 := f s.ras.merge1 } } else { s with ras := { s.ras with merge0 := f s.ras.merge0 } }
  | .t0 h r => forAll (loseRegion s h r) held (fun s o => loseT0 s 2 o)
  | .bridge l => if 8 < bridgeOut s l then fenceBridge s else s
  | _ => s

/-! ## Error reports (R579, Table 15-1) -/

/-- Units and causes of Table 15-1 that this report covers; faults of cores, lanes and ports have rows of their own. -/
def reportOk (u : RasUnit) (cause : Nat) : Bool :=
  match u with
  | .rowGroup _ _ => [0x01, 0x02, 0x03, 0x12].contains cause
  | .slice _ => [0x04, 0x05, 0x06].contains cause
  | .laneGroup _ _ => cause == 0x09
  | .stack _ => cause == 0x0A || cause == 0x0B
  | .t0 _ _ => cause == 0x0C || cause == 0x0D
  | .bridge _ => cause == 0x11
  | _ => false

/-- ERROR_REPORT (R579): the cause's own event, then the fence or the quarantine; an uncorrectable T0 error loses what the
failing block holds (R589). An error of the data path that waits to be reported is reported with it. -/
def errorReport (u : RasUnit) (cause data : Nat) (held : List T0Obj) (s : State) : State :=
  let s := { s with ras := { s.ras with reports := s.ras.reports.erase (u, cause, data) } }
  if !(unitPresent s u && reportOk u cause) || s.ras.fences.any (fun f => f.unit == u) then s
  else
    let s := if cause = 0x04 then raise s 0x0402 none (unitId u) data
      else if cause = 0x06 then raise s 0x0403 none (unitId u) data
      else if cause = 0x0B then raise s 0x0102 none (unitId u) data
      else s
    if cause = 0x06 ∨ cause = 0x0B then fenceUnit s u cause 2 []
    else
      let s := startQuar s u cause
      if cause = 0x0D then forAll s held (fun s o => loseT0 s 1 o) else s

def execErrorReport (unit : RasUnit) (cause data : Nat) (held : List T0Obj) (s : State) : Host.Outcome State Fault Refusal :=
  .next (errorReport unit cause data held s)

/-- Errors of the data path not yet reported reach Fife by the end of the frame (R579). -/
def reportErrors (s : State) : State := forAll s s.ras.reports (fun s r => errorReport r.1 r.2.1 r.2.2 [] s)

/-- HEARTBEAT_LOST (R579): the stack's sixteenth heartbeat in a row is missing. -/
def heartbeatLost (n : Nat) (s : State) : State :=
  if !unitPresent s (.stack n) || s.ras.fences.any (fun f => f.unit == .stack n) then s
  else startQuar s (.stack n) 0x0A

def execHeartbeatLost (stack : Nat) (s : State) : Host.Outcome State Fault Refusal := .next (heartbeatLost stack s)

/-! ## The end of a targeted test (R581–R583) -/

/-- Base intervals in 10 s (R583). -/
def tenSeconds : Nat := 4882812

/-- Transients of a unit in the last 10 s. -/
def recentTransients (s : State) (u : RasUnit) : Nat :=
  (s.ras.transients.filter (fun t => t.1 == u && decide (s.time.bint < t.2 + tenSeconds))).length

/-- Note a transient of a unit now, forgetting those older than 10 s. -/
def noteTransient (s : State) (u : RasUnit) : State :=
  { s with ras := { s.ras with
    transients := (s.ras.transients.filter (fun t => decide (s.time.bint < t.2 + tenSeconds))) ++ [(u, s.time.bint)] } }

/-- Complete a partition's maintenance request with a status (R615). -/
def maintDone (s : State) (k st : Nat) : State :=
  raise (updPart s k (fun p => { p with maintReq := BitVec.ofNat 64 (putField (putField p.maintReq.toNat 48 8 st) 36 1 0) }))
    0x0E01 (some k) k st

/-- A lane that has passed leaves the damped lanes of the RAS record (R585). -/
def undamp (s : State) (u : RasUnit) : State := { s with ras := { s.ras with damps := s.ras.damps.filter (fun d => d != u) } }

/-- A unit passes: it returns at the next frame start (R581). A core waits there for its move back (R309). -/
def passUnit (s : State) (u : RasUnit) : State :=
  let s := endQuar s u (s.time.frame + 1)
  match u with
  | .core n g p => updStack s n (fun x => { x with spare := mupd x.spare g SpareMap.reset (fun m =>
      { m with testing := m.testing &&& (2 ^ 50 - 1 - 2 ^ p), passed := m.passed ||| 2 ^ p }) })
  | .merge h g p =>
    let f := fun (m : SMap MergeGroup) => mupd m g MergeGroup.reset (fun y =>
      { y with testing := y.testing.filter (fun j => j != p), passed := p :: y.passed })
    if h = 1 then { s with ras := { s.ras with merge1 := f s.ras.merge1 } } else { s with ras := { s.ras with merge0 := f s.ras.merge0 } }
  | .t0 _ _ => setPoolBad s u false
  | .lane p l => undamp (updPort s p (fun x => { x with damped := putField x.damped l 1 0 })) u
  | .blane b l => undamp (updPort s (16 + b) (fun x => { x with damped := putField x.damped l 1 0 })) u
  | _ => s

/-- TARGETED_TEST_COMPLETE: a pass is a transient (R581), the third within 10 s fences (R583), and so does a failure (R582);
an error reported during the test counts as a finding of it (R584). Row groups have their own row. -/
def targetedTestComplete (u : RasUnit) (passed : Bool) (held : List T0Obj) (s : State) : State :=
  match u, quarOf s u with
  | .rowGroup _ _, _ => s
  | .port _, _ => s
  | .blink _, _ => s
  | _, none => s
  | _, some q =>
    let ok := passed && !q.worse
    match q.requested with
    | some k =>
      if q.frames.any (fun f => decide (s.time.frame < f)) then s
      else
        let s := if ok then passUnit s u else fenceUnit s u q.cause 0 held
        maintDone s k (if ok then 3 else 4)
    | none =>
      if !ok then fenceUnit s u q.cause 0 held
      else
        let s := noteTransient s u
        let n := recentTransients s u
        if 3 ≤ n then fenceUnit s u q.cause 1 held
        else raiseUnit (passUnit s u) 0x0305 u n

def execTargetedTestComplete (unit : RasUnit) (passed : Bool) (held : List T0Obj) (s : State) :
    Host.Outcome State Fault Refusal := .next (targetedTestComplete unit passed held s)

/-! ## Row groups (R601, R602, R609–R613) -/

/-- Chunks of a row group. -/
def groupChunks (g : Nat) : List Nat := [3 * g, 3 * g + 1, 3 * g + 2]

/-- Does a run of chunks meet a row group? -/
def meetsGroup (g c n : Nat) : Bool := decide (c < 3 * g + 3) && decide (3 * g < c + n)

/-- Free the chunks of an old run that lie outside a retired group. -/
def freeOutside (s : State) (i k g c n : Nat) : State :=
  let lo := if c < 3 * g then [(c, 3 * g - c)] else []
  let hi := if 3 * g + 3 < c + n then [(3 * g + 3, c + n - (3 * g + 3))] else []
  if (lo ++ hi).isEmpty then s else holdFree s i k (s.time.frame + 1) (lo ++ hi) [] []

/-- Move what a run of n chunks holds raw to another run of the same slice (R602): every sector that passes its checks is formed
anew at its new address (R266), under version v, a summary's under the value read there plus one (R559). -/
def moveRun (x : Slice) (i key c d n : Nat) (o : ObjId) (v : Nat) : Slice :=
  (List.range (8 * n)).foldl (fun x j =>
    match readSector x i key c o j with
    | none => x
    | some y =>
      let w : OrdWrite :=
        { cid := 0, done := 0, chunk := d + j / 8, sector := j % 8, offset := 0, data := y.plain,
          info := putField y.info 0 32 v, part := 0, fresh := true }
      putSector x i key w.chunk w.sector (putField y.info 0 32 (ordVersion x w)) y.plain) x

/-- The chunk of an object in which a sector that has been written fails its checks. -/
def badSector (x : Slice) (i key c n : Nat) (o : ObjId) : Option Nat :=
  (List.range (8 * n)).findSome? (fun j =>
    if (mget x.sectors (8 * c + j)).isSome && (readSector x i key c o j).isNone then some (c + j / 8) else none)

/-- A page that cannot be read when it is to be moved is lost with the cause (DEDUCED, log 140). -/
def loseUnread (s : State) (i h p : Nat) (b : Bad) : State := losePage (reportBad s i b p) h p b.1

/-- Move one page out of a retired row group (R602): the hub takes a sealed page decoded and codes it again (R245), under a new
version; other forms move raw, under a new version too (R121; DEDUCED, log 140). Without room the page is lost, cause 0x06. -/
def movePage (s : State) (i g h : Nat) (e : Nat × PageEnt) : State :=
  let n := e.2.nchunk + 1
  match streamAt s h with
  | none => s
  | some x =>
    match allocRun (sliceAt s i) n with
    | none => losePage s h e.2.page 0x06
    | some (d, sl) =>
      if e.2.form = 2 && !x.isState then
        match loadPage s i x e.2.page e.2 with
        | .error b => loseUnread s i h e.2.page b
        | .ok (bs, m) =>
          match expand x m (pageKinds (sliceAt s i) e.2 m) bs with
          | none => loseUnread s i h e.2.page (0x04, e.2.chunk)
          | some raw =>
            let v := nextVersion 64 sl d n
            let o := { pageObj x e.2 m with version := v.1 }
            let s := { s with slices := mset s.slices i (putObject v.2 i (partKey s x.part) d o (encodePage x.fmt x.dcode raw)) }
            let s := queueSummary s i 0 s.time.frame e.2.sumChunk x.part (e.2.sumOff * 16 + 2) (leBytes 4 v.1)
            let s := match indexOf s h with
              | some r => { s with oboe := { s.oboe with
                  updates := s.oboe.updates ++ [.rewrite (hubOfHandle h) r.tag h e.2.page v.1] } }
              | none => s
            freeOutside (updEnt s i e.1 (fun y => { y with chunk := d, version := v.1 })) i x.part g e.2.chunk n
      else
        let key := partKey s x.part
        let o := if x.isState then stateObj x e.2 else { pageObj x e.2 0 with kind := kRows }
        let half := if x.isState then n / 2 else n
        let from' := if x.isState then e.2.chunk + x.sealed % 2 * half else e.2.chunk
        match badSector (sliceAt s i) i key from' half o with
        | some c => loseUnread s i h e.2.page (0x03, c)
        | none =>
          let v := if e.2.openT0 then (e.2.version, sl) else nextVersion 64 sl d n
          let s := { s with slices := mset s.slices i (moveRun v.2 i key from' (d + (from' - e.2.chunk)) half o v.1) }
          freeOutside (updEnt s i e.1 (fun y => { y with chunk := d, version := v.1 })) i x.part g e.2.chunk n

/-- Move a summary chunk out of a retired row group: the records keep their offsets (R602). -/
def moveSums (s : State) (i c : Nat) : State :=
  match mget (sliceAt s i).sums c, allocRun (sliceAt s i) 1 with
  | some y, some (d, sl) =>
    let sl := moveRun sl i (partKey s y.part) c d 1 sumObj 0
    { s with slices := mset s.slices i (metaSync i s.crypto.ksys (sliceAt s i) { sl with
        sums := mset (mdel sl.sums c) d { y with written := if y.written.isEmpty then [] else List.range 8 }
        ents := sl.ents.map (fun e => if e.2.sumChunk = c then (e.1, { e.2 with sumChunk := d }) else e) }) }
  | some _, none =>
    forAll s ((sliceAt s i).dir.flatMap (fun d => (entsIn (sliceAt s i) d.2.stream).map (fun e => (d.2.stream, e.2))))
      (fun s e => if e.2.sumChunk = c then losePage s e.1 e.2.page 0x06 else s)
  | _, _ => s

/-- Retire a row group's chunks (R602): with the slice's tables in them the slice is fenced. -/
def retireGroup (s : State) (i g : Nat) : State :=
  let s := updSlice s i (fun x => { x with retired := x.retired ++ [g] })
  if poolChunks < 3 * g + 3 then fenceUnit s (.slice i) 0x12 2 []
  else
    let free := (groupChunks g).filter (fun c => !(sliceAt s i).alloc.any (fun a => decide (a.1 ≤ c) && decide (c < a.1 + a.2)))
    let s := forAll s free (fun s c => updSlice s i (fun x => { x with alloc := mset x.alloc c 1 }))
    let s := forAll s ((groupChunks g).filter (fun c => mhas (sliceAt s i).sums c)) (fun s c => moveSums s i c)
    forAll s ((sliceAt s i).dir.flatMap (fun d => (entsIn (sliceAt s i) d.2.stream).map (fun e => (d.2.stream, e))))
      (fun s e => if e.2.2.form != 3 && meetsGroup g e.2.2.chunk (e.2.2.nchunk + 1) then movePage s i g e.1 e.2 else s)

/-- A row group fails its test (R601, R602): a spare takes its address, or its chunks are retired. -/
def repairGroup (s : State) (i g : Nat) : State :=
  let u := RasUnit.rowGroup i g
  let k := (sliceAt s i).spares.length
  if k < 4 then raise (updSlice s i (fun x => { x with spares := mset x.spares g k })) 0x0308 none (unitId u) 0
  else raise (retireGroup s i g) 0x0308 none (unitId u) 1

/-- Objects that sectors re-read as uncorrectable hold are lost, cause 0x03; the pages of a summary record in one are lost
without a summary, cause 0x08 (R597, R612). -/
def loseSectors (s : State) (i : Nat) (bad : List Nat) : State :=
  forAll s bad (fun s b =>
    let c := b / 8
    let pages := (sliceAt s i).dir.flatMap (fun d => (entsIn (sliceAt s i) d.2.stream).map (fun e => (d.2.stream, e.2)))
    forAll s pages (fun s e =>
      if e.2.form != 3 && decide (e.2.chunk ≤ c) && decide (c ≤ e.2.chunk + e.2.nchunk) then losePage s e.1 e.2.page 0x03
      else if e.2.sumChunk = c ∧ e.2.sumOff * 16 / 512 ≤ b % 8 ∧ b % 8 ≤ (e.2.sumOff * 16 + 1071) / 512 then losePage s e.1 e.2.page 0x08
      else s))

/-- BGTEST_START (R609): the walk's row group is admitted for test on every slice. -/
def bgtestStart (s : State) : State :=
  if !s.ras.bgEn || decide (s.time.bint < s.ras.bgLast + s.ras.bgInterval) then s
  else
    let g := s.ras.bgGroup
    let s := forAll s (List.range (sliceCount s)) (fun s i =>
      if sliceFenced s i s.time.frame then s
      else addJob s { kind := .rowTest, handle := 0, page := g, slice := i, cid := 0, target := openFrame s, granted := none,
                      coded := [], summary := [], k := 18, source := 0 })
    { s with ras := { s.ras with
        bgLast := s.time.bint
        bgGroup := (g + 1) % 8192
        bgPasses := if g = 8191 then (s.ras.bgPasses + 1) % 2 ^ 32 else s.ras.bgPasses } }

def execBgtestStart (s : State) : Host.Outcome State Fault Refusal := .next (bgtestStart s)

/-- ROW_GROUP_TEST_DONE (R612): a mismatch fails the test, and the group is repaired or retired; sectors the targeted test
re-reads as uncorrectable lose their objects. A background test that meets one starts the targeted test. -/
def rowGroupTestDone (i g : Nat) (mismatch : Bool) (bad : List Nat) (s : State) : State :=
  match s.adm.jobs.find? (fun e => e.2.kind == .rowTest && e.2.slice == i && e.2.page == g &&
      (match e.2.granted with
       | some f => decide (f ≤ s.time.frame)
       | none => false)) with
  | none => s
  | some (n, j) =>
    let u := RasUnit.rowGroup i g
    let bad := bad.filter (fun b => (groupChunks g).contains (b / 8))
    let s := delJob s n
    match quarOf s u with
    | some q =>
      let s := loseSectors s i bad
      let fail := mismatch || q.worse
      let s := if fail then repairGroup (placeFence s u q.cause 0) i g
        else match q.requested with
          | some _ => endQuar s u (s.time.frame + 1)
          | none =>
            let s := noteTransient s u
            let k := recentTransients s u
            if 3 ≤ k then repairGroup (placeFence s u q.cause 1) i g
            else raiseUnit (endQuar s u (s.time.frame + 1)) 0x0305 u k
      let s := { s with ras := { s.ras with fences := s.ras.fences.filter (fun f => f.unit != u) } }
      match q.requested with
      | some k => maintDone s k (if fail then 4 else 3)
      | none => s
    | none =>
      if mismatch then
        let s := repairGroup (placeFence (raiseUnit (loseSectors s i bad) 0x0304 u 0x12) u 0x12 0) i g
        { s with ras := { s.ras with fences := s.ras.fences.filter (fun f => f.unit != u) } }
      else if j.source = 0 && !bad.isEmpty then startQuar s u 0x02
      else s

def execRowGroupTestDone (slice group : Nat) (mismatch : Bool) (bad : List Nat) (s : State) :
    Host.Outcome State Fault Refusal := .next (rowGroupTestDone slice group mismatch bad s)

/-! ## Frame starts -/

/-- A requested slice test starts in its first frame: its request is running (Table 15-13). In the frame before, the
slice's partition is told (R616). -/
def requestsFrame (s : State) : State :=
  forAll s s.ras.quar (fun s q =>
    match q.unit, q.requested with
    | .slice i, some k =>
      let s := if q.start = s.time.frame + 1 then raise s 0x0307 (some k) (unitId (.slice i)) q.start else s
      if q.start = s.time.frame ∧ q.back.isNone then
        updPart s k (fun p => { p with maintReq := BitVec.ofNat 64 (putField p.maintReq.toNat 48 8 2) })
      else s
    | _, _ => s)

/-- At a frame start fences take effect and ended quarantines are forgotten. -/
def rasFrame (s : State) : State :=
  let s := requestsFrame (applyFences s)
  { s with ras := { s.ras with quar := s.ras.quar.filter (fun q => match q.back with
      | some b => decide (s.time.frame < b)
      | none => true) } }

end Sys2Proof.Machine
end

