-- ==== Sys2Proof/Machine/SectorRows.lean ====
section
/-!
DEFINITION. What a sector that fails does to the command or job it is for (R264, R267, R599), and the ordinary writes of a slice
as its reserve windows run them (R330, R331).
-/

namespace Sys2Proof.Machine

/-- A command whose read of slice i has failed stops with `INTEGRITY` (R599), and Fife hears of the error (R264). -/
def stopUnread (s : State) (cid i kvh : Nat) (b : Bad) (page : Nat) : State :=
  stopCmd (reportBad s i b page) cid ⟨stINTEGRITY, lossDetail false kvh b.1 page, endFrame s cid, 0, 0, [], false⟩ true

/-- A queued write whose read half has failed (R267): nothing is written, and what it is part of ends: a job is given back, a
copy fails (R349), a command stops. -/
def failWrite (s : State) (i : Nat) (w : OrdWrite) (cause : Nat) : State :=
  let s := report s (.rowGroup i (w.chunk / 3)) cause 0
  if 2 ^ 50 ≤ w.cid then
    failCopy s ((w.cid - 2 ^ 50) / 2 ^ 18) ((w.cid - 2 ^ 50) % 2 ^ 18) stINTEGRITY
  else if 2 ^ 40 ≤ w.cid then returnJob s (w.cid - 2 ^ 40)
  else
    let o := chunkOwner s i w.chunk
    stopCmd s w.cid ⟨stINTEGRITY, lossDetail false ((o.map (fun e => kvhOf s e.1)).getD 0) 0x03 ((o.map (fun e => e.2)).getD 0),
      endFrame s w.cid, 0, 0, [], false⟩ true

/-- Run a write taken from a slice's queue; symbols corrected in its read half are reported (Table 15-1). -/
def runQueued (s : State) (i : Nat) (w : OrdWrite) (f : DramFault) : State :=
  match runWrite s i w f with
  | .error e => failWrite s i w e
  | .ok (t, fixed) => if fixed then report t (.rowGroup i (w.chunk / 3)) 0x01 0 else t

/-- Run the writes of a slice's queue up to frame n, in admission order (R331). -/
def drainWrites (s : State) (i n : Nat) : State :=
  let due := (sliceAt s i).ordq.filter (fun w => decide (w.done ≤ n))
  let s := updSlice s i (fun x => { x with
    ordq := x.ordq.filter (fun w => decide (n < w.done))
    reads := x.reads.filter (fun r => decide (n < r.2)) })
  forAll s due (fun s w => runQueued s i w .none)

/-- RESERVE_WINDOW: the slice's reserve window of the current frame runs its ordinary writes that finish by it (R331). -/
def execReserveWindow (slice : Nat) (s : State) : Host.Outcome State Fault Refusal :=
  .next (if sliceOut s slice s.time.frame then s else drainWrites s slice s.time.frame)

/-- The first write of a slice's queue, with what it leaves: the sector written, or what its failed read half stops. -/
def sectorWrite (slice : Nat) (f : DramFault) (s : State) : State :=
  match (sliceAt s slice).ordq with
  | [] => s
  | w :: r =>
    if sliceOut s slice s.time.frame then s
    else runQueued (updSlice s slice (fun x => { x with ordq := r })) slice w f

/-- SECTOR_WRITE (R266, R267). -/
def execSectorWrite (slice : Nat) (fault : DramFault) (s : State) : Host.Outcome State Fault Refusal :=
  .next (sectorWrite slice fault s)

end Sys2Proof.Machine
end

