-- ==== Sys2Proof/Machine/CoreFault.lean ====
section
/-!
DEFINITION. Faults of Piccolo and merge cores: recording, spares, the work they stop, and its replay at the hub (R280–R286,
R307–R316).
-/

namespace Sys2Proof.Machine

/-! ## Cores (R307, R308) -/

/-- Slice, bank unit and spare group of a logical core. -/
def coreSlice (l : Nat) : Nat := l / 12
def coreUnit (l : Nat) : Nat := l / 12 % 4
def coreGroup (l : Nat) : Nat := l / 12 % 1024 / 4
def coreStack (l : Nat) : Nat := l / 12 / 1024

/-- Logical core number of a place in a spare group: bank unit u, core c. -/
def coreNo (n g u c : Nat) : Nat := 12 * (1024 * n + 4 * g + u) + c

def spareAt (s : State) (n g : Nat) : SpareMap := mgetD (stackAt s n).spare g SpareMap.reset

def updSpare (s : State) (n g : Nat) (f : SpareMap → SpareMap) : State :=
  updStack s n (fun x => { x with spare := mupd x.spare g SpareMap.reset f })

/-- Which spare serves place k = 12u + c of a group, if any (R308). -/
def boundSpare (m : SpareMap) (k : Nat) : Option Nat :=
  if m.v0 && 12 * m.bu0 + m.core0 == k then some 48
  else if m.v1 && 12 * m.bu1 + m.core1 == k then some 49
  else none

/-- Physical core that serves a place. -/
def physOf (m : SpareMap) (k : Nat) : Nat := (boundSpare m k).getD k

/-- Place that a physical core serves, if any. -/
def placeServed (m : SpareMap) (p : Nat) : Option Nat :=
  if p = 48 then (if m.v0 then some (12 * m.bu0 + m.core0) else none)
  else if p = 49 then (if m.v1 then some (12 * m.bu1 + m.core1) else none)
  else if (boundSpare m p).isSome then none else some p

/-- A spare that can be bound: unbound, not fenced, under test, waiting to move back or promised (R309). -/
def freeSpare (m : SpareMap) : Option Nat :=
  [48, 49].find? (fun p =>
    !(if p = 48 then m.v0 else m.v1) && !bit m.failed p && !bit m.failing p && !bit m.testing p && !bit m.passed p &&
      !m.pendingBind.any (fun b => b.2 == p))

/-- Bind a spare to a place, or unbind it. -/
def bindSpare (m : SpareMap) (p : Nat) (k : Option Nat) : SpareMap :=
  let u := (k.getD 0) / 12
  let c := (k.getD 0) % 12
  if p = 48 then { m with v0 := k.isSome, bu0 := u, core0 := c } else { m with v1 := k.isSome, bu1 := u, core1 := c }

/-- Is a slice in solstice mode: the mode of the partition that holds it (R284). -/
def solsticeSlice (s : State) (i : Nat) : Bool := (partsOfSlice s i).any (fun k => (partAt s k).solstice)

/-! ## Credits (R278, R279, R285) and where tasks go (R271) -/

/-- Depths of the queues of a core (Table 8-6). -/
def queueDepth (q : Nat) : Nat := [16, 8, 16, 8, 8, 8].getD q 0

/-- Engines at the two ends of a queue. -/
def queueFrom (q : Nat) : Nat := [0, 0, 0, 1, 2, 3].getD q 7
def queueTo (q : Nat) : Nat := [1, 2, 3, 4, 4, 4].getD q 7

/-- A core's credit counters, at their starting values when it has none yet (R278). -/
def creditsOf (c : Core) : List Credits :=
  if c.credits.isEmpty then (List.range 6).map (fun q => ⟨queueDepth q, 0⟩) else c.credits

/-- A counter of a queue. -/
def creditAt (cs : List Credits) (q : Nat) (full : Bool) : Nat :=
  match cs[q]? with
  | some c => if full then c.full else c.free
  | none => 0

/-- The core an S task that is ready goes to: the lowest-numbered whose SCORE input queue has room (R271). -/
def scoreCore (s : State) (i : Nat) : Option Nat :=
  (List.range 12).find? (fun c => !(coreAt s (12 * i + c)).stopped && decide (0 < creditAt (creditsOf (coreAt s (12 * i + c))) 0 false))

/-- Is a task assigned to core c of its slice (R271)? `sc` is where an S task goes; rows, seal and migration chunks come from the
hub, so no core produced a W task's data (log 142). -/
def assigned (sc : Option Nat) (dv core : Nat) (k : TaskKind) : Bool :=
  match k with
  | .score _ _ _ => sc == some core
  | .exps _ u => u % 12 == core
  | .accum _ u j _ => (u * (dv / 32) + j) % 12 == core
  | .column _ j => j % 12 == core
  | .write => true

/-! ## Work a fault stops (R311, R315) -/

/-- A page of a command has an X or A task on core c (R271): rows u0 …, J chains of each; or an S task of it went there. -/
def pageUsesCore (c : Cmd) (t : PageTask) (core : Nat) : Bool :=
  t.cores.contains core ||
  match taskCtx c t with
  | none => false
  | some tc =>
    let j := tc.x.dv / 32
    (List.range t.rows.length).any (fun r =>
      let u := t.u0 + r
      u % 12 == core || (List.range j).any (fun k => (u * j + k) % 12 == core))

/-- Commands with a task charged to frame n on the slice on the faulted core (R311). -/
def affectedBy (s : State) (i core n : Nat) : List Nat :=
  (sliceAt s i).work.filterMap (fun e =>
    match cmdAt s e.1 with
    | none => none
    | some c => if e.2.pages.any (fun t => t.frame == n && pageUsesCore c t core) then some e.1 else none)

/-- P of R185 for a STATE_STEP's sequence, 0 for other owners. -/
def rerunP (s : State) (cid : Nat) : Nat :=
  match cmdAt s cid with
  | some c => if c.hdr.opcode = opSTEP then
      (match c.snaps.head? with
       | some x => (x.x.map (fun y => stepP (partAt s c.hdr.part).solstice c.hdr y)).getD 0
       | none => 0) else 0
  | none => 0

/-- Completion and output frame an owner's work has without a stopped sequence: those another re-run of it keeps, its plan's, or
those of what it has pending. -/
def framesOf (s : State) (o : Nat) : Nat × Nat :=
  match s.adm.jobs.find? (fun e => e.2.kind == .rerun && e.2.cid == o && !e.2.acted) with
  | some e => e.2.frames
  | none =>
    match (cmdAt s o).bind (fun c => c.plan) with
    | some p => (p.cframe, p.outFrame)
    | none =>
      match s.adm.effs.find? (fun e => e.cid == o) with
      | some e => (e.frame - 1, 0)
      | none => (((jobAt s (o - 2 ^ 40)).bind (fun j => if o < 2 ^ 40 then none else j.granted)).getD 0, 0)

/-- Re-run one long sequence from its start as a node job (R315); one that is itself a re-run is planned anew. -/
def rerunSeq (s : State) (i : Nat) (q : SeqHold) : State :=
  let old := if q.owner < 2 ^ 40 then none else jobAt s (q.owner - 2 ^ 40)
  match old.map (fun j => (j.kind, j.cid)) with
  | some (JobKind.rerun, o) => holdOwner (abandonJob s (q.owner - 2 ^ 40)) o
  | _ =>
    holdOwner (addJob s { kind := .rerun, handle := 2 ^ 21, page := 0, slice := i, cid := q.owner, target := openFrame s,
                          granted := none, coded := [], summary := [], k := q.k, source := rerunP s q.owner,
                          frames := framesOf s q.owner }) q.owner

/-- Long sequences that run on the slice in the current base interval re-run from their start as node jobs (R315). -/
def rerunSeqs (s : State) (i : Nat) : State :=
  let b := s.time.bint
  forAll s ((sliceAt s i).seqs.filter (fun q => decide (q.first ≤ b) && decide (b ≤ q.last))) (fun s q => rerunSeq s i q)

/-! ## The fault (R283, R309–R311, R316) -/

/-- The record of Table 8-7. -/
def faultRecord (engine cause queue phys core : Nat) : Nat :=
  packFields [(37, 3, engine), (33, 4, cause), (30, 3, queue), (19, 6, phys), (0, 19, core)]

/-- A logical core faults: the record, the stop, the quarantine of its physical core, the spare promised for the next frame
start or the slice fenced, and the work it stops. -/
def faultCore (s : State) (l cause engine queue : Nat) : State :=
  let i := coreSlice l
  let n := coreStack l
  let g := coreGroup l
  let k := l % 48
  if !unitPresent s (.slice i) || (coreAt s l).stopped || sliceFenced s i s.time.frame then s
  else
    let m := spareAt s n g
    let p := physOf m k
    let u := RasUnit.core n g p
    let v := faultRecord engine cause queue p l
    let s := updStack s n (fun x => { x with coreFault := if x.coreFault = 0 then v else x.coreFault })
    let s := raise s 0x0301 none (unitId u) v
    let s := updCore s l (fun c => { c with stopped := true })
    let s := updSpare s n g (fun m => { m with testing := m.testing ||| 2 ^ p })
    let s := startQuar s u 0x07
    let s := match affectedBy s i (l % 12) s.time.frame with
      | [] => s
      | cids => { s with ras := { s.ras with replays := s.ras.replays ++ [⟨i, l % 12, s.time.frame, cids⟩] } }
    match freeSpare (spareAt s n g) with
    | none => fenceUnit (raise s 0x0303 none (unitId (.slice i)) g) (.slice i) 0x07 2 []
    | some q => rerunSeqs (updSpare s n g (fun m => { m with pendingBind := m.pendingBind ++ [(k, q)] })) i

/-- Merge-core groups of a hub. -/
def mergeGroups (s : State) (h : Nat) : SMap MergeGroup := if h = 1 then s.ras.merge1 else s.ras.merge0

def updMerge (s : State) (h g : Nat) (f : MergeGroup → MergeGroup) : State :=
  if h = 1 then { s with ras := { s.ras with merge1 := mupd s.ras.merge1 g MergeGroup.reset f } }
  else { s with ras := { s.ras with merge0 := mupd s.ras.merge0 g MergeGroup.reset f } }

/-- A merge core faults (R316): its unfinished merges re-run on the group's spare with the same bits; with the spare taken
the logical core stays stopped (DEDUCED, log 27). -/
def faultMerge (s : State) (h g p cause engine queue : Nat) : State :=
  let m := mgetD (mergeGroups s h) g MergeGroup.reset
  let served := if p = 32 then m.bound else if m.bound = some p then none else some p
  match served with
  | none => s
  | some c =>
    if m.failed.contains p || m.testing.contains p || m.passed.contains p then s
    else
      let u := RasUnit.merge h g p
      let s := raise s 0x0301 none (unitId u) (faultRecord engine cause queue p (4096 * h + 32 * g + c))
      let s := startQuar s u 0x08
      let spare := m.bound.isNone && m.pending.isNone && !m.failed.contains 32 && !m.testing.contains 32 && !m.passed.contains 32
      updMerge s h g (fun y => { y with testing := p :: y.testing, pending := if spare then some c else y.pending })

/-- CORE_FAULT (R283): a physical core that serves a logical core faults. Credit and deadlock faults do not occur in solstice
mode, and a barrier timeout only there (R280, R286). -/
def coreFault (u : RasUnit) (cause engine queue : Nat) (s : State) : State :=
  if !unitPresent s u || cause == 0 || decide (7 < cause) || decide (7 < engine) || decide (7 < queue) then s
  else match u with
    | .core n g p =>
      match placeServed (spareAt s n g) p with
      | none => s
      | some k =>
        let l := coreNo n g (k / 12) (k % 12)
        let sol := solsticeSlice s (coreSlice l)
        if (sol && decide (cause ≤ 3)) || (!sol && cause == 7) then s else faultCore s l cause engine queue
    | .merge h g p => faultMerge s h g p cause engine queue
    | _ => s

def execCoreFault (unit : RasUnit) (cause engine queue : Nat) (s : State) : Host.Outcome State Fault Refusal :=
  .next (coreFault unit cause engine queue s)

/-- A core holds an uncommitted task that is ready among those charged up to the current frame: it does not wait for another core,
nor for a replay (R282). -/
def holdsReady (s : State) (l : Nat) : Bool :=
  let i := coreSlice l
  (sliceAt s i).work.any (fun e =>
    match cmdAt s e.1 with
    | none => false
    | some c => !(s.ras.replays.any (fun r => r.slice == i && r.cids.contains e.1)) && e.2.pages.zipIdx.any (fun p =>
        match taskCtx c p.1 with
        | none => false
        | some tc =>
          decide (p.1.frame ≤ s.time.frame) && (pageTasks p.1 p.2 tc.x.dv).any (fun k =>
            let u := match k with
              | .score _ u _ => u
              | .exps _ u => u
              | .accum _ u _ _ => u
              | _ => 0
            assigned (scoreCore s i) tc.x.dv (l % 12) k && (match p.1.rows[u - p.1.u0]? with
              | some rt => taskReady e.2 p.1 rt (mgetD e.2.folds u (Fold.start tc.x.dv)) k
              | none => false))))

/-- A column of a state on the core has tokens left although its output frame has come. -/
def columnsLate (s : State) (l : Nat) : Bool :=
  (sliceAt s (coreSlice l)).states.any (fun e =>
    match cmdAt s e.1 with
    | none => false
    | some c => decide (c.planD.outFrame ≤ s.time.frame) && e.2.any (fun w =>
        w.done.zipIdx.any (fun d => d.2 % 12 == l % 12 && decide (d.1 < c.hdr.tok))))

/-- Tokens a core has run of its columns, and all of them. -/
def columnTokens (c : Cmd) (w : StateWork) (core : Nat) : Nat × Nat :=
  let mine := (w.done.zipIdx.filter (fun d => d.2 % 12 == core)).map (fun d => d.1)
  (mine.sum, c.hdr.tok * mine.length)

/-- A sequence on the core's slice is behind the chunk-times R68 planned for it up to the end of the current base interval: four in
every interval but its last (DESIGN CHOICE, log 144: tokens in proportion). -/
def seqBehind (s : State) (l : Nat) : Bool :=
  let x := sliceAt s (coreSlice l)
  x.seqs.any (fun q =>
    match cmdAt s q.owner with
    | none => false
    | some c =>
      !s.adm.jobs.any (fun e => e.2.kind == .rerun && e.2.cid == q.owner) &&
      let planned := if q.last ≤ s.time.bint then q.k else min q.k (4 * (s.time.bint + 1 - q.first))
      decide (q.first ≤ s.time.bint) && (mgetD x.states q.owner []).any (fun w =>
        let n := columnTokens c w (l % 12)
        decide (n.1 * q.k < n.2 * planned)))

/-- Has engine e of a core pending work: it is blocked on a counter, a queue into it holds entries, or, for FETCH, a ready task of the
core waits (R281)? -/
def enginePending (s : State) (l e : Nat) : Bool :=
  let c := coreAt s l
  mhas c.waits e || (if e = 0 then holdsReady s l
    else (List.range 6).any (fun q => queueTo q == e && decide (0 < creditAt (creditsOf c) q true)))

/-- Every engine of the core that has pending work is blocked on a counter of its own core, and there is one. -/
def allBlocked (s : State) (l : Nat) : Bool :=
  !(coreAt s l).waits.isEmpty && (List.range 5).all (fun e => !enginePending s l e || mhas (coreAt s l).waits e)

/-- DEADLOCK_DETECT (R281): it has been so for 256 cycles; the detector is off in solstice mode (R286). A scratchpad request does not
stay ungranted: the port grants one a cycle (R288). -/
def deadlockDetect (l : Nat) (s : State) : State :=
  if solsticeSlice s (coreSlice l) || !allBlocked s l then s else faultCore s l 3 7 7

def execDeadlockDetect (core : Nat) (s : State) : Host.Outcome State Fault Refusal := .next (deadlockDetect core s)

/-- FRAME_OVERRUN_WATCHDOG (R282): at the end of a frame, once its service window has closed, and for a long sequence at the end of
a base interval. -/
def overruns (s : State) (l : Nat) : Bool := (s.time.windowClosed && (holdsReady s l || columnsLate s l)) || seqBehind s l

def frameOverrunWatchdog (l : Nat) (s : State) : State := if overruns s l then faultCore s l 4 7 7 else s

def execFrameOverrunWatchdog (core : Nat) (s : State) : Host.Outcome State Fault Refusal := .next (frameOverrunWatchdog core s)

/-- SOLSTICE_BARRIER_TIMEOUT (R286). -/
def solsticeBarrierTimeout (l : Nat) (s : State) : State :=
  if solsticeSlice s (coreSlice l) then faultCore s l 7 7 7 else s

def execSolsticeBarrierTimeout (core : Nat) (s : State) : Host.Outcome State Fault Refusal :=
  .next (solsticeBarrierTimeout core s)

/-- CORE_FAULT_READ (R283): the read clears the register. -/
def coreFaultRead (n : Nat) (s : State) : State :=
  if n < stackCount s then updStack s n (fun x => { x with coreFault := 0 }) else s

def execCoreFaultRead (stack : Nat) (s : State) : Host.Outcome State Fault Refusal := .next (coreFaultRead stack s)

/-! ## Spares at a frame start (R309) -/

/-- Bind the spares promised in one group, show the cores fenced since (R308), and move back the cores that passed: on slices that
hold no long sequence in the base interval the frame starts with. -/
def bindGroup (s : State) (n g : Nat) : State :=
  let s := updSpare s n g (fun m => { m with failed := m.failed ||| m.failing, failing := 0 })
  let m := spareAt s n g
  let s := forAll s m.pendingBind (fun s b =>
    let l := coreNo n g (b.1 / 12) (b.1 % 12)
    let old := boundSpare (spareAt s n g) b.1
    let s := updSpare s n g (fun m =>
      let m := match old with
        | some q => bindSpare m q none
        | none => m
      { bindSpare m b.2 (some b.1) with pendingBind := m.pendingBind.filter (fun x => x != b) })
    raise (updCore s l (fun _ => Core.reset)) 0x0302 none (unitId (.core n g b.2)) l)
  forAll s ((List.range 50).filter (fun p => bit m.passed p)) (fun s p =>
    let clear := fun (s : State) => updSpare s n g (fun m => { m with passed := m.passed &&& (2 ^ 50 - 1 - 2 ^ p) })
    if 48 ≤ p then clear s
    else
      let i := 1024 * n + 4 * g + p / 12
      if (seqAt (sliceAt s i) (s.time.bint + b2n (!s.time.half))).isSome then s
      else
        let s := match boundSpare (spareAt s n g) p with
          | some q => updSpare s n g (fun m => bindSpare m q none)
          | none => s
        let l := coreNo n g (p / 12) (p % 12)
        raise (clear (updCore s l (fun _ => Core.reset))) 0x0302 none (unitId (.core n g p)) l)

/-- The same for a merge-core group (R316). -/
def bindMerge (s : State) (h g : Nat) : State :=
  let m := mgetD (mergeGroups s h) g MergeGroup.reset
  let s := match m.pending with
    | some c => raise (updMerge s h g (fun y => { y with bound := some c, pending := none })) 0x0302 none
        (unitId (.merge h g 32)) (4096 * h + 32 * g + c)
    | none => s
  forAll s m.passed (fun s p =>
    let s := updMerge s h g (fun y => { y with passed := y.passed.filter (fun q => q != p) })
    if p = 32 then s
    else raise (updMerge s h g (fun y => { y with bound := if y.bound = some p then none else y.bound })) 0x0302 none
      (unitId (.merge h g p)) (4096 * h + 32 * g + p))

/-- The spares that are bound, with the logical cores they serve (Table 8-15, R316). -/
def boundSpares (s : State) : List (RasUnit × Nat) :=
  let core := fun (n g p : Nat) (v : Bool) (u c : Nat) => if v then [(RasUnit.core n g p, coreNo n g u c)] else []
  let merge := fun (h : Nat) (m : SMap MergeGroup) => m.filterMap (fun e => e.2.bound.map (fun c => (RasUnit.merge h e.1 32, 4096 * h + 32 * e.1 + c)))
  s.dramStacks.flatMap (fun e => e.2.spare.flatMap (fun x =>
    core e.1 x.1 48 x.2.v0 x.2.bu0 x.2.core0 ++ core e.1 x.1 49 x.2.v1 x.2.bu1 x.2.core1)) ++
  merge 0 s.ras.merge0 ++ merge 1 s.ras.merge1

/-- The RAS record takes the bindings (R585). -/
def recordBinds (s : State) : State := { s with ras := { s.ras with binds := boundSpares s } }

/-- Spare bindings and moves back of every group, at a frame start. -/
def bindSpares (s : State) : State :=
  recordBinds <|
  let s := forAll s s.dramStacks (fun s e =>
    forAll s e.2.spare (fun s x => if x.2.pendingBind.isEmpty && x.2.passed == 0 && x.2.failing == 0 then s else bindGroup s e.1 x.1))
  let s := forAll s s.ras.merge0 (fun s e => bindMerge s 0 e.1)
  forAll s s.ras.merge1 (fun s e => bindMerge s 1 e.1)

/-! ## Work on slices: data, release, replay (R141, R311–R314) -/

/-- The raw page of a page task, read and checked in its slice (R246, R263): what fails otherwise. -/
def pageData (sl : Slice) (i key : Nat) (x : Stream) (t : PageTask) : Except Bad Bytes :=
  if t.ubounds.isSome then .ok []
  else
    let find := fun (j : Nat) => match mget sl.staging (8 * t.chunk + j) with
      | some y => some y
      | none => match readTaskSector sl i key x t j .none with
        | .ok y => some y.1
        | .error _ => none
    match taskBytes find x t with
    | .error j => .error (0x03, t.chunk + j / 8)
    | .ok l =>
      match taskRaw x t l with
      | none => .error (0x04, t.chunk)
      | some raw => .ok raw

/-- A page of a command whose data its slice cannot deliver: why, KV head and page. -/
def badPage (s : State) (i : Nat) (c : Cmd) (w : SliceWork) (n : Nat) : Option (Bad × Nat × Nat) :=
  w.pages.findSome? (fun t =>
    if n < t.frame || pageDone t then none
    else match taskCtx c t with
      | none => none
      | some tc => match pageData (sliceAt s i) i (partKey s c.hdr.part) tc.x t with
        | .ok _ => none
        | .error cause => some (cause, t.kvh, t.page))

/-- The data of every page task of a command on a slice. -/
def workData (s : State) (i : Nat) (c : Cmd) (t : PageTask) : Option Bytes :=
  match taskCtx c t with
  | none => none
  | some tc => match pageData (sliceAt s i) i (partKey s c.hdr.part) tc.x t with
    | .ok raw => some raw
    | .error _ => none

/-- A slice partial leaves when its last page is folded and the service frame has come (R141); late past it (R314). -/
def releaseWork (s : State) (cid i : Nat) (c : Cmd) : State :=
  match mget (sliceAt s i).work cid with
  | none => s
  | some w =>
    if w.released || !w.pages.all pageDone || s.time.frame < c.planD.service then s
    else
      let late := w.late || decide (c.planD.service < s.time.frame)
      let s := updSlice s i (fun x => { x with work := mset x.work cid { w with released := true, late := late } })
      if late then updCmd s cid (fun c => { c with late := true }) else s

/-- The close of a slice's part in a command: its partial leaves once it is complete and the service window of its service frame has
closed (R141, R274). -/
def releaseClosed (s : State) (cid i : Nat) : State :=
  match cmdAt s cid with
  | some c => if s.time.windowClosed || decide (c.planD.service < s.time.frame) then releaseWork s cid i c else s
  | none => s

/-- Run what is left of a command's work on a slice up to frame n; a page that cannot be read stops the command (R599). -/
def drainWork (s : State) (cid i n : Nat) : State :=
  match cmdAt s cid, mget (sliceAt s i).work cid with
  | some c, some w =>
    match badPage s i c w n with
    | some (b, k, p) => stopUnread s cid i k b p
    | none =>
      let w := finishPages c w (workData s i c) n
      releaseClosed (updSlice s i (fun x => pruneStaging s.time.frame { x with work := mset x.work cid w })) cid i
  | _, _ => s

/-- Multiply-adds of the uncommitted tasks of a page: 16 × d_k for a score block, 512 for an accumulation block. -/
def leftMadds (x : Stream) (t : PageTask) : Nat :=
  (t.rows.map (fun r => (if t.ubounds.isSome then 0 else (4 - r.sDone.length) * 16 * x.dk) +
    (r.aDone.map (fun k => ((if t.ubounds.isSome then 1 else 4) - k) * 512)).sum)).sum

/-- Merge-core cycles a replay takes (R313): 32 multiply-adds a cycle (R390). -/
def replayCycles (s : State) (r : Replay) : Nat :=
  ceilDiv ((r.cids.map (fun cid =>
    match cmdAt s cid, mget (sliceAt s r.slice).work cid with
    | some c, some w => ((w.pages.filter (fun t => decide (t.frame ≤ r.frame))).map (fun t =>
        match taskCtx c t with
        | some tc => leftMadds tc.x t
        | none => 0)).sum
    | _, _ => 0)).sum) 32

/-- Does a command wait for a replay on a slice? -/
def replayWaits (s : State) (i cid : Nat) : Bool := s.ras.replays.any (fun r => r.slice == i && r.cids.contains cid)

/-- CORE_REPLAY (R312, R313): the hub re-runs the abandoned tasks within its reserve, lowest slice first; a replay that does
not fit loses the slice for the commands it was for (cause 0x09). -/
def coreReplay (i core : Nat) (s : State) : State :=
  match s.ras.replays.find? (fun r => r.slice == i && r.core == core) with
  | none => s
  | some r =>
    let before := fun (q : Replay) => hubOfSlice q.slice == hubOfSlice i && decide (q.frame < s.time.frame) && decide (q.slice < i)
    if s.time.frame ≤ r.frame || s.ras.replays.any before then s
    else if sliceOut s i s.time.frame then
      forAll { s with ras := { s.ras with replays := s.ras.replays.filter (fun q => q != r) } } r.cids (fun s cid =>
        match cmdAt s cid with
        | some c => stopLost s cid c [i] 0x07
        | none => s)
    else
      let hub := hubOfSlice i
      let need := replayCycles s r
      let res := resAt s s.time.frame
      let used := if hub = 1 then res.replay1 else res.replay0
      let s := { s with ras := { s.ras with replays := s.ras.replays.filter (fun q => q != r) } }
      if used + need ≤ 16 * mergeCycles s.time.len then
        let s := updRes s s.time.frame (fun q =>
          if hub = 1 then { q with replay1 := used + need } else { q with replay0 := used + need })
        forAll s r.cids (fun s cid => drainWork s cid i r.frame)
      else forAll s r.cids (fun s cid =>
        match cmdAt s cid with
        | some c => stopLost s cid c [i] 0x09
        | none => s)

def execCoreReplay (slice core : Nat) (s : State) : Host.Outcome State Fault Refusal := .next (coreReplay slice core s)

end Sys2Proof.Machine
end

