-- ==== Sys2Proof/Machine/CmdAttend.lean ====
section
/-!
DEFINITION. The attending commands and STATE_STEP from their start to their records: what their slices are to do, the
sectors read, the tasks committed, the close of a service window, and the fold of the records (R140–R148, R155, R161, R162,
R180–R187, R192–R205, R259–R264, R270–R291, R621).
-/

namespace Sys2Proof.Machine

/-! ## What a slice is to do (R140, R192–R195, R204, R218, R219) -/

/-- A page as a command's slice takes it: bounds when it is omitted, its coded bytes when it is sealed. -/
structure Pick where
  p : PageView
  us : Option (List F32)
  coded : Nat
  deriving DecidableEq, Repr

/-- The summary of a page, from its home slice, under the stream that owns it (R562). -/
def pageSummary (s v : State) (p : PageView) : Option Bytes :=
  match streamAt v p.own with
  | some x => getSummary s p.slice x p.page p.ent
  | none => none

/-- Bounds of every row over a box (R193). -/
def boxBounds (c : Cmd) (x : Stream) (k : Nat) (lo hi : List F32) (norm : F32) : List F32 :=
  (List.range (rowsOf c.hdr x)).map (fun r => pageUpper (queryRow c x k r) lo hi norm c.hdr.scale2)

/-- Bounds from a page's own summary. -/
def sumBounds (c : Cmd) (x : Stream) (k : Nat) (sum : Bytes) : List F32 :=
  boxBounds c x k ((List.range x.dk).map (sumMin sum)) ((List.range x.dk).map (sumMax x.dk sum)) (sumNorm x.dk sum)

/-- Bounds from the index record of the stream that owns the page (R219), or those the lead has sent (R228). -/
def unionBounds (v : State) (cid : Nat) (c : Cmd) (x : Stream) (k own : Nat) : List F32 :=
  match (mgetD v.oboe.bounds cid []).find? (fun b => b.kvh == k && b.own == own) with
  | some b => (List.range (rowsOf c.hdr x)).map (fun r => b.us.getD r f32Nan)
  | none =>
  match indexOf v own with
  | some r => boxBounds c x k (r.mins.map f32OfBf16) (r.maxs.map f32OfBf16) r.norm
  | none => List.replicate (rowsOf c.hdr x) f32Nan

/-- A pick of a page that is attended, or omitted by its own summary; the page itself when its summary cannot be read. -/
def pickPage (s v : State) (c : Cmd) (x : Stream) (k : Nat) (p : PageView) (skip : Bool) : Except Nat Pick :=
  if p.opened then .ok ⟨p, none, 0⟩
  else match pageSummary s v p with
    | none => .error p.page
    | some sum => .ok ⟨p, if skip then some (sumBounds c x k sum) else none, sumCodedBytes sum⟩

/-- All of a list, or the first error. -/
def allOk {α : Type} (xs : List (Except Nat α)) : Except Nat (List α) :=
  xs.foldr (fun a acc => match a, acc with
    | .error e, _ => .error e
    | .ok _, .error e => .error e
    | .ok a, .ok l => .ok (a :: l)) (.ok [])

/-- ATTEND and VERIFY: every page is attended but those the miss policy omits. -/
def pickAttend (s v : State) (c : Cmd) (a : AttStream) : Except Nat (List Pick) :=
  allOk (a.pages.map (fun p => pickPage s v c a.x a.kvh p p.missing))

/-- Probes of the search that matched a page (R217). -/
def probeCount (s : State) (cid : Nat) (a : AttStream) (p : PageView) : Nat :=
  ((mgetD s.oboe.results cid []).filter (fun e =>
    e.key / 4 == a.kvh && e.stream == p.own && e.page == p.page && e.version == p.ent.version)).length

/-- The candidates of one slice (R218): matched pages by probe count, then by page, the first CAND_SLICE of them. -/
def candPages (s : State) (cid : Nat) (h : Hdr) (a : AttStream) (ps : List PageView) : List Nat :=
  ((sortBy (fun e => (4 - e.2) * 2 ^ 18 + e.1)
    ((ps.map (fun p => (p.page, probeCount s cid a p))).filter (fun e => decide (0 < e.2)))).take h.candSlice).map (fun e => e.1)

/-- SELECT on one slice of one stream (R192–R194, R215–R219): eligible pages `es`, ascending. A parked page that matches is a
candidate as any other, and is omitted (R204). -/
def pickSelect (s v : State) (cid : Nat) (c : Cmd) (a : AttStream) (es : List PageView) : Except Nat (List Pick) :=
  let h := c.hdr
  let n := sealedCount v a.h a.x
  let man := fun (p : PageView) => mandatory h n p.page && !p.missing
  let m := (es.filter man).length
  let pre := es.filter (fun p => !mandatory h n p.page && prefiltered v h p)
  let cand := candPages s cid h a pre
  let unscanned := fun (p : PageView) => !man p && !p.missing && prefiltered v h p && !cand.contains p.page
  let ranked := rankPages (es.filterMap (fun p =>
    if man p || p.missing || unscanned p then none
    else (pageSummary s v p).map (fun sum => (p.page, selKey (sumBounds c a.x a.kvh sum)))))
  let top := ranked.take (h.topj - m)
  allOk (es.map (fun p =>
    if unscanned p then .ok ⟨p, some (unionBounds v cid c a.x a.kvh p.own), 0⟩
    else pickPage s v c a.x a.kvh p (!man p && !top.contains p.page)))

/-- The picks of one stream, ascending by page. -/
def pickStream (s v : State) (cid : Nat) (c : Cmd) (a : AttStream) : Except Nat (List Pick) :=
  if c.hdr.isSelect then
    let es := a.pages.filter (fun p => p.eligible)
    let opens := (a.pages.filter (fun p => !p.eligible)).map (fun p => Except.ok (ε := Nat) (Pick.mk p none 0))
    let per := ((es.map (fun p => p.slice)).eraseDups).map (fun i => pickSelect s v cid c a (es.filter (fun p => p.slice == i)))
    match allOk per, allOk opens with
    | .ok ls, .ok os => .ok (sortBy (fun k => k.p.page) (ls.flatMap (fun l => l) ++ os))
    | .error e, _ => .error e
    | _, .error e => .error e
  else pickAttend s v c a

/-- Summary bytes scanned on a slice: those of the omitted pages (R197, R204), and for SELECT of every page it ranked. -/
def scanBytes (v : State) (c : Cmd) (a : AttStream) (ks : List Pick) (i : Nat) : Nat :=
  let n := sealedCount v a.h a.x
  let k := (ks.filter (fun k => k.p.slice == i && !k.p.opened && k.coded != 0 &&
    (if c.hdr.isSelect then !(mandatory c.hdr n k.p.page && !k.p.missing) else k.us.isSome))).length
  k * summaryZ a.x.dcode

/-- The frame in which chunk-time n (counted from 1) of a slice's reservations falls. -/
def frameAt (uses : List (Nat × Nat)) (n last : Nat) : Nat :=
  match uses with
  | [] => last
  | u :: r => if n ≤ u.2 then u.1 else frameAt r (n - u.2) u.1

/-- The page tasks of one stream on one slice; `u0` is its first row, `at'` the chunk-times charged before. -/
def streamTasks (sol : Bool) (c : Cmd) (a : AttStream) (uses : List (Nat × Nat)) (u0 at' : Nat) (ks : List Pick) :
    List PageTask × Nat :=
  let rows := rowsOf c.hdr a.x
  let kc := computeNeed sol a.x rows
  ks.foldl (fun acc k =>
    let cost := if k.us.isSome then 0 else if k.p.opened then max kc a.x.r else max kc a.x.chunksMax
    let n := acc.2 + cost
    (acc.1 ++ [{
      kvh := a.kvh, page := k.p.page, frame := frameAt uses n c.planD.start, ubounds := k.us, chunk := k.p.ent.chunk,
      nchunk := k.p.ent.nchunk + 1, version := k.p.ent.version, codedBytes := k.coded, opened := k.p.opened,
      live := if k.p.opened then min 64 (a.x.length - 64 * k.p.page) else 64, u0 := u0,
      rows := List.replicate rows (RowTask.start a.x.dv), cores := [] }], n)) ([], at')

/-- A command's work on slice i (R140). -/
def sliceTasks (sol : Bool) (v : State) (c : Cmd) (picks : List (AttStream × List Pick)) (i : Nat) : SliceWork :=
  let uses := mgetD c.planD.chunks i []
  let here := (picks.map (fun e => (e.1, e.2.filter (fun k => k.p.slice == i && !k.p.ent.openT0)))).filter (fun e => !e.2.isEmpty)
  let scans := picks.map (fun e => scanBytes v c e.1 e.2 i)
  let scan := ceilDiv scans.sum 4096
  let r := here.foldl (fun (acc : List PageTask × Nat × Nat) e =>
    let t := streamTasks sol c e.1 uses acc.2.1 acc.2.2 e.2
    (acc.1 ++ t.1, acc.2.1 + rowsOf c.hdr e.1.x, t.2)) ([], 0, scan)
  ⟨r.1, [], false, false⟩

/-- The open pages a command attends: those held in T0 as they stand, those in a slice by their place in its work. -/
def openSnaps (v : State) (picks : List (AttStream × List Pick)) (work : SMap SliceWork) : List OpenSnap :=
  picks.flatMap (fun e => (e.2.filter (fun k => k.p.opened)).map (fun k =>
    let live := min 64 (e.1.x.length - 64 * k.p.page)
    let full := decide (64 ≤ live)
    if k.p.ent.openT0 then
      let rs := match openRows v e.1.x k.p.own k.p.page k.p.ent k.p.slice live with
        | .ok rs => rs
        | .error _ => ([], [])
      ⟨e.1.kvh, k.p.page, full, none, rs.1, rs.2⟩
    else
      let g := ((mgetD work k.p.slice ⟨[], [], false, false⟩).pages.findIdx? (fun t => t.kvh == e.1.kvh && t.page == k.p.page)).getD 0
      ⟨e.1.kvh, k.p.page, full, some (k.p.slice, g), [], []⟩))

/-- Start an attending command: its work on every slice is laid out from its view (R25, R140). -/
def startAttend (op cid : Nat) (s : State) : State :=
  match actable s cid op with
  | none => s
  | some c =>
    let v := viewAt s c.planD.start
    let sol := (partAt v c.hdr.part).solstice
    let ss := attStreams v c
    let rs := ss.map (fun a => (a, pickStream s v cid c a))
    match rs.findSome? (fun e => match e.2 with
      | .error p => some (e.1.kvh, p)
      | .ok _ => none) with
    | some (k, p) =>
      stopCmd (acted s cid) cid ⟨stINTEGRITY, lossDetail false k 0x08 p, endFrame s cid, 0, 0, [], false⟩ true
    | none =>
      let picks := rs.filterMap (fun e => match e.2 with
        | .ok ks => some (e.1, ks)
        | .error _ => none)
      let slices := (picks.flatMap (fun e => e.2.filterMap (fun k => if k.p.ent.openT0 then none else some k.p.slice))).eraseDups
      let work : SMap SliceWork := slices.foldl (fun m i => mset m i (sliceTasks sol v c picks i)) []
      let omitted := (picks.map (fun e => (e.2.filter (fun k => k.us.isSome)).length)).sum
      let attended := (picks.map (fun e => (e.2.filter (fun k => k.us.isNone)).length)).sum
      let s := forAll s work (fun s e => updSlice s e.1 (fun x => { x with work := mset x.work cid e.2 }))
      let s := { s with oboe := { s.oboe with results := mdel s.oboe.results cid, bounds := mdel s.oboe.bounds cid } }
      updCmd s cid (fun c => { c with
        st := .acted, prog := progOf v c.hdr, omitted := omitted, attended := attended, opens := openSnaps v picks work })

/-- ATTEND (R25, R122–R128, R140). -/
def execAttend (cid : Nat) (s : State) : Host.Outcome State Fault Refusal := .next (startAttend opATTEND cid s)

/-- VERIFY (R157–R161): its provisional rows wait in the request context its admission made. -/
def execVerify (cid : Nat) (s : State) : Host.Outcome State Fault Refusal := .next (startAttend opVERIFY cid s)

/-- Has the search window run for a prefiltering SELECT (R221)? -/
def searchRun (s : State) (cid : Nat) : Bool :=
  match cmdAt s cid with
  | some c => !c.hdr.prefilter || mhas s.oboe.results cid || ((attStreams (viewAt s c.planD.start) c).all (fun a =>
      (searched (viewAt s c.planD.start) c.hdr a).isEmpty))
  | none => true

/-- SELECT (R190–R198). -/
def execSelect (cid : Nat) (s : State) : Host.Outcome State Fault Refusal :=
  .next (if searchRun s cid then startAttend opSELECT cid s else s)

/-! ## STATE_STEP (R180–R185) -/

/-- The blocks of a state as a view shows them: current half, other half, chunks, version. -/
def stateSrc (v : State) (h : Nat) (x : Stream) : List (Nat × Nat × Nat × Option Nat) :=
  let half := x.sealed % 2
  (entsIn (sliceAt v (homeSlice v h 0)) h).map (fun e =>
    let b := blockChunks x.stateChunks e.2.page
    (e.2.chunk + half * b, e.2.chunk + (1 - half) * b, b, if e.2.form = 1 then none else some e.2.version))

/-- Draw the versions of the half a committing step writes (R121). -/
def drawVersions (s : State) (i : Nat) (src : List (Nat × Nat × Nat × Option Nat)) : State × List Nat :=
  src.foldl (fun acc b =>
    let v := nextVersion 64 (sliceAt acc.1 i) b.2.1 b.2.2.1
    ({ acc.1 with slices := mset acc.1.slices i v.2 }, acc.2 ++ [v.1])) (s, [])

/-- STATE_STEP: each state's work is laid out on its slice; a committing step's change waits for its completion frame. -/
def stateStep (cid : Nat) (s : State) : State :=
  match actable s cid opSTEP with
  | none => s
  | some c =>
    let v := viewAt s c.planD.start
    forAll (acted s cid) (namedStreams v c.hdr) (fun s e =>
      let x := e.2.2
      let i := homeSlice v e.2.1 0
      let src := stateSrc v e.2.1 x
      let r := if c.hdr.commit then drawVersions s i src else (s, [])
      let w : StateWork :=
        { head := e.1, handle := e.2.1, cols := [], done := List.replicate x.dv 0, outs := List.replicate x.dv [],
          vers := r.2, src := src, loaded := false, written := false }
      let s := updSlice r.1 i (fun y => { y with states := mupd y.states cid [] (fun ws => ws ++ [w]) })
      if c.hdr.commit then addEff s (c.planD.cframe + 1) cid (.stateStep e.2.1 c.hdr.tok r.2) else s)

def execStateStep (cid : Nat) (s : State) : Host.Outcome State Fault Refusal := .next (stateStep cid s)

/-- The columns of the current half of a state, zeros for a block in open form; else the chunk in which a sector fails (R180). -/
def loadCols (sl : Slice) (i key : Nat) (x : Stream) (w : StateWork) : Except Nat (List (List F32)) :=
  let bs := w.src.foldl (fun (acc : Except Nat Bytes) b =>
    match acc with
    | .error e => .error e
    | .ok bs => match b.2.2.2 with
      | none => .ok (bs ++ zeros (4096 * b.2.2.1))
      | some v => (getObject sl i key b.1 ⟨kState, v, x.fmtVer, 0, 0⟩ (4096 * b.2.2.1)).map (fun d => bs ++ d)) (.ok [])
  bs.map (fun bs =>
    let rows := stateRows x.dk x.dv bs
    (List.range x.dv).map (fun j => rows.map (fun r => r.getD j f32Zero)))

/-- The stream of a state a step works on, as its view had it. -/
def stepStream (c : Cmd) (w : StateWork) : Option Stream := (c.snaps.find? (fun e => e.handle == w.handle)).bind (fun e => e.x)

/-- A state's work with its columns read; else the chunk that fails. -/
def loadState (s : State) (i : Nat) (c : Cmd) (w : StateWork) : Except Nat StateWork :=
  if w.loaded then .ok w
  else match stepStream c w with
    | none => .ok w
    | some x => (loadCols (sliceAt s i) i (partKey s c.hdr.part) x w).map (fun cs => { w with cols := cs, loaded := true })

/-- Write the other half of a state from its columns (R183, R185). -/
def writeState (s : State) (i : Nat) (c : Cmd) (x : Stream) (w : StateWork) : State :=
  let data := colsBytes x.dk w.cols
  (w.src.zip w.vers).zipIdx.foldl (fun s e =>
    updSlice s i (fun y => putObject y i (partKey s c.hdr.part) e.1.1.2.1 ⟨kState, e.1.2, x.fmtVer, 0, 0⟩
      (slice data (8 * 4096 * e.2) (4096 * e.1.1.2.2.1)))) s

/-- Replace one state of a command's on a slice. -/
def setState (s : State) (i cid g : Nat) (w : StateWork) : State :=
  updSlice s i (fun y => { y with states := mupd y.states cid [] (fun ws => ws.set g w) })

/-- Run what is left of a command's states on a slice, by its output frame; write the new half by its completion frame. -/
def drainStates (s : State) (i cid : Nat) : State :=
  match cmdAt s cid with
  | none => s
  | some c =>
    forAll s (List.range (mgetD (sliceAt s i).states cid []).length) (fun s g =>
      match (mgetD (sliceAt s i).states cid [])[g]? with
      | none => s
      | some w =>
        if s.time.frame < c.planD.outFrame then s
        else match loadState s i c w, stepStream c w with
          | .ok w, some x =>
            let w := finishState c x w
            if c.hdr.commit && !w.written && decide (c.planD.cframe ≤ s.time.frame) then
              setState (writeState s i c x w) i cid g { w with written := true }
            else setState s i cid g w
          | .error chunk, _ => stopUnread s cid i w.head (0x03, chunk) 0
          | _, none => s)

/-! ## Sectors read (R246, R259–R264) -/

/-- The staging buffer holds 16 chunks (Table 8-1). -/
def stagingFull (x : Slice) (chunk : Nat) : Bool :=
  let cs := (x.staging.map (fun e => e.1 / 8)).eraseDups
  !cs.contains chunk && decide (16 ≤ cs.length)

/-- The page tasks of a command on a slice that read a chunk. -/
def tasksReading (s : State) (r : SectorReq) : List PageTask :=
  (mgetD (sliceAt s r.slice).work r.cid ⟨[], [], false, false⟩).pages.filter (fun t =>
    t.ubounds.isNone && decide (t.chunk ≤ r.chunk) && decide (r.chunk < t.chunk + t.nchunk))

/-- The page task a sector is read for: charged to the current frame or an earlier one, with work left. -/
def taskReading (s : State) (r : SectorReq) : Option PageTask :=
  (tasksReading s r).find? (fun t => decide (t.frame ≤ s.time.frame) && !pageDone t)

/-- FETCH reads at most 8 chunks ahead of the oldest chunk still in use (R276): chunks of a command's uncommitted pages on a slice,
in order, behind the oldest of these pages, whose chunks are all in use (DESIGN CHOICE, log 145). -/
def withinFetch (s : State) (r : SectorReq) : Bool :=
  let ps := ((mgetD (sliceAt s r.slice).work r.cid ⟨[], [], false, false⟩).pages.filter (fun t => t.ubounds.isNone && !pageDone t))
  match ps with
  | [] => false
  | t :: rest =>
    let chunks := fun (t : PageTask) => (List.range t.nchunk).map (fun k => t.chunk + k)
    (chunks t ++ (rest.flatMap chunks).take 8).contains r.chunk

/-- What a read of slice i has met (Table 15-1, R264, R599): an error goes to Fife and stops the command; so does a correction, and
then the sector serves what asked for it. -/
def metRead (s : State) (r : SectorReq) (kvh page : Nat) (y : Except Nat (Sector × Bool)) (serve : State → Sector → State) : State :=
  match y with
  | .error e => stopCmd (report s (.rowGroup r.slice (r.chunk / 3)) e 0) r.cid
      ⟨stINTEGRITY, lossDetail false kvh 0x03 page, endFrame s r.cid, 0, 0, [], false⟩ true
  | .ok (d, fixed) =>
    let s := updSlice s r.slice (fun x => activate x r.chunk)
    serve (if fixed then report s (.rowGroup r.slice (r.chunk / 3)) 0x01 0 else s) d

/-- Does a command's plan touch a slice? -/
def planTouches (c : Cmd) (i : Nat) : Bool :=
  mhas c.planD.chunks i || c.planD.ords.contains i || c.planD.seqs.any (fun q => q.1 == i)

/-- A stored sector of a page or state block a command reads without a page task: its place in its object, what it must show, its
page. -/
def otherSector (s : State) (r : SectorReq) (c : Cmd) : Option (Nat × ObjId × Nat × Nat) :=
  let sl := sliceAt s r.slice
  match chunkOwner s r.slice r.chunk with
  | none => none
  | some (h, p) =>
    if !((mgetD sl.states r.cid []).any (fun w => w.handle == h) || c.snaps.any (fun x => owner s x.handle p == h)) then none
    else match (entsIn sl h).find? (fun e => e.2.page == p), streamAt s h with
      | some e, some x =>
        let b := blockChunks x.stateChunks p
        let base := if x.isState then e.2.chunk + b * (x.sealed % 2) else e.2.chunk
        if r.chunk < base || (x.isState && decide (base + b ≤ r.chunk)) || !mhas sl.sectors (8 * r.chunk + r.sector) then none
        else some (8 * (r.chunk - base) + r.sector, if x.isState then stateObj x e.2 else pageObj x e.2 0, kvhOf s h, if x.isState then 0 else p)
      | _, _ => none

/-- SECTOR_READ: a sector of the slice's tables is checked against the tree (R561), one of a page task is checked and staged, any
other is checked; one that fails stops the command it is for (R264, R599; of a table, DESIGN CHOICE, log 141). -/
def sectorRead (r : SectorReq) (f : DramFault) (s : State) : State :=
  let sl := sliceAt s r.slice
  match cmdAt s r.cid with
  | none => s
  | some c =>
    let pkey := partKey s c.hdr.part
    if sliceOut s r.slice s.time.frame || c.result.isSome then s
    else if tableChunk ≤ r.chunk then
      if planTouches c r.slice && decide (r.chunk < tableChunk + 160) then
        metRead s r c.hdr.kvh 0 (readTableSector sl r.slice s.crypto.ksys (8 * (r.chunk - tableChunk) + r.sector) f) (fun s _ => s)
      else s
    else match taskReading s r with
      | some t =>
        match taskCtx c t with
        | none => s
        | some tc =>
          let j := 8 * (r.chunk - t.chunk) + r.sector
          if s.time.windowClosed || !(taskSectors tc.x t).contains j || stagingFull sl r.chunk || !withinFetch s r then s
          else metRead s r t.kvh t.page (readTaskSector sl r.slice pkey tc.x t j f)
            (fun s d => updSlice s r.slice (fun x => { x with staging := mset x.staging (8 * r.chunk + r.sector) d }))
      | none =>
        if !(tasksReading s r).isEmpty then s
        else match otherSector s r c with
          | some (j, o, k, p) => metRead s r k p (checkSector sl r.slice pkey r.chunk r.sector j o f) (fun s _ => s)
          | none => s

def execSectorRead (r : SectorReq) (fault : DramFault) (s : State) : Host.Outcome State Fault Refusal :=
  .next (sectorRead r fault s)

/-! ## Tasks committed (R270–R291) -/

/-- One counter operation (R279, R285): the new value, or the cause of a fault. -/
def creditStep (sol : Bool) (x q n : Nat) (give : Bool) : Except Nat Nat :=
  if give then
    if x + n ≤ queueDepth q then .ok (x + n) else if sol then .ok (queueDepth q) else .error 2
  else if n ≤ x then .ok (x - n) else if sol then .ok 0 else .error 1

/-- How a task's credit operations end: all done, at an engine that waits, or in a fault (cause, queue, engine). -/
inductive CreditEnd where
  | done
  | blocked
  | fault (cause queue engine : Nat)
  deriving DecidableEq, Repr

/-- The engine that uses a counter (Table 8-6): the sender takes free entries and gives full ones, the receiver the other way. -/
def creditEngine (q : Nat) (full give : Bool) : Nat := if full == give then queueFrom q else queueTo q

/-- Set one counter of a queue. -/
def setCredit (cs : List Credits) (q : Nat) (full : Bool) (x : Nat) : List Credits :=
  match cs[q]? with
  | some c => cs.set q (if full then { c with full := x } else { c with free := x })
  | none => cs

/-- Is an engine still blocked on its counter? -/
def stillBlocked (cs : List Credits) (w : SMap (Nat × Bool × Nat)) (e : Nat) : Bool :=
  match mget w e with
  | some (q, full, n) => decide (creditAt cs q full < n)
  | none => false

/-- Run the credit operations of a task (R279): counters and blocked engines left, and how it ends. An engine whose counter is too
low at WAIT is blocked, and so are its later operations until the counter holds enough. -/
def runCredits (sol : Bool) (cs : List Credits) (ws : SMap (Nat × Bool × Nat)) (ops : List CreditOp) :
    List Credits × SMap (Nat × Bool × Nat) × CreditEnd :=
  ops.foldl (fun acc o =>
    match acc with
    | (cs, ws, .done) =>
      let a : Nat × Bool × Nat × Nat := match o with
        | .wait q f n => (q, f, n, creditEngine q f false)
        | .take q f n => (q, f, n, creditEngine q f false)
        | .give q f n => (q, f, n, creditEngine q f true)
      if stillBlocked cs ws a.2.2.2 then (cs, ws, .blocked)
      else
        let ws := mdel ws a.2.2.2
        match o with
        | .wait q f n => if creditAt cs q f < n then (cs, mset ws a.2.2.2 (q, f, n), .blocked) else (cs, ws, .done)
        | _ =>
          let give := match o with
            | .give _ _ _ => true
            | _ => false
          if 6 ≤ a.1 then (cs, ws, .done)
          else match creditStep sol (creditAt cs a.1 a.2.1) a.1 a.2.2.1 give with
            | .error e => (cs, ws, .fault e a.1 a.2.2.2)
            | .ok x => (setCredit cs a.1 a.2.1 x, ws, .done)
    | _ => acc) (cs, ws, .done)

/-- What the port of a scratchpad has come to: the core, requests not yet granted, each with its age, conflicts counted, and the
engine that read a word with more than one bit in error. -/
structure PadRun where
  core : Core
  queue : List (Nat × PadReq)
  conflicts : Nat
  bad : Option Nat

/-- Grant one request (R288, R289): the oldest, the lowest engine of equal ages. A read returns the word as it stands; a single bit
in error is corrected, more are a fault (R292). -/
def padGrant (p : PadRun) : PadRun :=
  match sortBy (fun e => 8 * e.1 + e.2.engine) p.queue with
  | [] => p
  | (_, w) :: rest =>
    let c := p.core
    if w.write then { p with queue := rest, core := { c with scratch := mset c.scratch w.word w.data } }
    else if 2 ≤ w.flips then { p with queue := rest, bad := some (p.bad.getD w.engine) }
    else { p with queue := rest, core := { c with padRead := mset c.padRead w.engine (mgetD c.scratch w.word 0) } }

/-- One cycle at the port: its requests arrive, one request is granted. Of those that write one word in the same cycle every engine
but the lowest-numbered has a conflict, and its write comes at its next grant (R290). -/
def padCycle (p : PadRun) (now : Nat) (ws : List PadReq) : PadRun :=
  let hit := fun (w : PadReq) => w.write && ws.any (fun v => v.write && v.word == w.word && decide (v.engine < w.engine))
  let hits := ws.filter hit
  let st := (List.range 5).map (fun j => p.core.spConflict.getD j false || hits.any (fun w => w.engine == j))
  padGrant { p with
    core := if hits.isEmpty then p.core else { p.core with spConflict := st }
    queue := p.queue ++ ws.map (fun w => (now, w))
    conflicts := p.conflicts + hits.length }

/-- Every cycle of a task at the port, and as many more as its requests need. -/
def padCycles (c : Core) (pad : List (List PadReq)) : PadRun :=
  (pad ++ List.replicate (pad.map (fun ws => ws.length)).sum ([] : List PadReq)).zipIdx.foldl
    (fun (p : PadRun) e => padCycle p e.2 e.1) ⟨c, [], 0, none⟩

/-- The scratchpad as a task of partition k finds it: words another partition's tasks have left are zero (R572). -/
def padFor (k : Nat) (c : Core) : Core :=
  if c.padPart = some k then c else { c with scratch := [], padRead := [], padPart := some k }

/-- The scratchpad accesses of a task of partition k, with the conflicts counted (R291), and the engine that met an uncorrectable
word. -/
def runPad (s : State) (l k : Nat) (pad : List (List PadReq)) : State × Option Nat :=
  if pad.isEmpty then (s, none)
  else
    let r := padCycles (padFor k (coreAt s l)) pad
    let n := coreStack l
    let j := coreSlice l % 1024
    let p := perfAdd (mgetD (stackAt s n).perf j 0) r.conflicts
    let s := updStack (updCore s l (fun _ => r.core)) n (fun x => if r.conflicts = 0 then x else { x with perf := mset x.perf j p.1 })
    (noteWrap s p.2 (0x01000000 + 0x100000 * n + 0x2000 + 8 * j), r.bad)

/-- Page index of a page task. -/
def taskPage (k : TaskKind) : Option Nat :=
  match k with
  | .score g _ _ => some g
  | .exps g _ => some g
  | .accum g _ _ _ => some g
  | _ => none

/-- A page task with what a task of it leaves beside its result: the core an S task went to, the tiles it read. -/
def noteTask (x : Slice) (cid core : Nat) (tx : Stream) (t : PageTask) (g : Nat) (raw : Option Bytes) (k : TaskKind) : Slice :=
  let x := match raw with
    | some raw => { x with tiles := layTiles (taskTiles tx t raw k) x.tiles }
    | none => x
  match k with
  | .score _ _ _ => { x with work := mmod x.work cid (fun w =>
      { w with pages := match w.pages[g]? with
          | some p => w.pages.set g { p with cores := if p.cores.contains core then p.cores else p.cores ++ [core] }
          | none => w.pages }) }
  | _ => x

/-- The task's result, committed whole (R272); chunks no uncommitted task uses leave the staging buffer, and a slice partial that is
complete in the drain leaves the bank unit (R274). -/
def commitTask (s : State) (l : Nat) (t : TaskOp) (c : Cmd) : State :=
  let i := coreSlice l
  let core := l % 12
  let sc := scoreCore s i
  match t.kind with
  | .write =>
    match (sliceAt s i).ordq.filter (fun w => w.cid == t.cid) with
    | w :: _ => runQueued (updSlice s i (fun x => { x with ordq := x.ordq.eraseP (fun y => y.cid == t.cid) })) i w .none
    | [] => s
  | .column g j =>
    match (mgetD (sliceAt s i).states t.cid [])[g]? with
    | none => s
    | some w =>
      if s.time.frame < c.planD.start || !assigned sc 0 core t.kind then s
      else match loadState s i c w, stepStream c w with
        | .ok w, some x => setState s i t.cid g (runC c x w j)
        | .error chunk, _ => stopUnread s t.cid i w.head (0x03, chunk) 0
        | _, none => s
  | k =>
    match mget (sliceAt s i).work t.cid, taskPage k with
    | some w, some g =>
      match w.pages[g]? with
      | none => s
      | some p =>
        match taskCtx c p with
        | none => s
        | some tc =>
          if s.time.frame < p.frame || !assigned sc tc.x.dv core k || boardFull (sliceAt s i) w k then s
          else
            let data := fun (q : PageTask) => (stagedBytes (sliceAt s i) tc.x q).bind (taskRaw tc.x q)
            let w2 := runTask c w data k
            if w2 = w then s
            else releaseClosed (updSlice s i (fun x =>
              pruneStaging s.time.frame (noteTask { x with work := mset x.work t.cid w2 } t.cid core tc.x p g (data p) k))) t.cid i
    | _, _ => s

/-- PICCOLO_TASK_COMMIT: the core's engines move their credits; one that must wait commits nothing yet, a counter fault or an
uncorrectable scratchpad word stops the core (R279, R280, R292), and else STORE commits the result. -/
def taskCommit (l : Nat) (t : TaskOp) (s : State) : State :=
  let i := coreSlice l
  match cmdAt s t.cid with
  | none => s
  | some c =>
    if !unitPresent s (.slice i) || (coreAt s l).stopped || sliceOut s i s.time.frame || replayWaits s i t.cid || c.result.isSome then s
    else
      let r := runCredits (solsticeSlice s i) (creditsOf (coreAt s l)) (coreAt s l).waits t.credits
      let moved := if t.credits.isEmpty then s else updCore s l (fun x => { x with credits := r.1, waits := r.2.1 })
      match r.2.2 with
      | .fault cause q e => faultCore s l cause e q
      | .blocked => moved
      | .done =>
        match runPad moved l c.hdr.part t.pad with
        | (s, some e) => faultCore s l 5 e 7
        | (_, none) => commitTask (runPad moved l c.hdr.part t.pad).1 l t c

def execPiccoloTaskCommit (core : Nat) (task : TaskOp) (s : State) : Host.Outcome State Fault Refusal :=
  .next (taskCommit core task s)

/-! ## The close of the service window and the end of the frame (R141, R274, R275) -/

/-- SERVICE_WINDOW_CLOSE: the drain begins, and slice partials due leave once they are complete. -/
def serviceWindowClose (s : State) : State :=
  let s := updTime s (fun t => { t with windowClosed := true })
  forAll s s.slices (fun s e => forAll s e.2.work (fun s w => if sliceOut s e.1 s.time.frame then s else releaseClosed s w.1 e.1))

/-- The end of a frame: everything charged to it is finished (R275), but what waits for a replay; the staging buffers keep the
chunks of that alone. -/
def closeFrame (s : State) : State :=
  let n := s.time.frame
  forAll (serviceWindowClose s) s.slices (fun s e =>
    let s := forAll s e.2.work (fun s w => if replayWaits s e.1 w.1 || sliceOut s e.1 n then s else drainWork s w.1 e.1 n)
    let s := forAll s e.2.states (fun s w => if sliceOut s e.1 n then s else drainStates s e.1 w.1)
    updSlice s e.1 (fun x => { pruneStaging n x with tiles := [] }))

def execServiceWindowClose (s : State) : Host.Outcome State Fault Refusal := .next (serviceWindowClose s)

/-! ## Records (R143–R148, R155, R161, R162) -/

/-- Slice partials of row r of a stream, ascending by slice (R143, place 1). -/
def slicePartials (s : State) (cid k r dv : Nat) : List Part :=
  s.slices.filterMap (fun e =>
    match mget e.2.work cid with
    | none => none
    | some w =>
      match w.pages.find? (fun t => t.kvh == k && !t.opened) with
      | some t => some (mgetD w.folds (t.u0 + r) (Fold.start dv)).part
      | none => none)

/-- Page partials of open pages for row r, ascending by page (R143, place 2). -/
def openPartials (s : State) (cid : Nat) (c : Cmd) (x : Stream) (k visible r : Nat) : List Part :=
  (sortBy (fun o => o.page) (c.opens.filter (fun o => o.kvh == k))).map (fun o =>
    match o.inSlice with
    | none => openPartial c x k visible r o.page o.rows o.trailer
    | some (i, g) =>
      match ((mgetD (sliceAt s i).work cid ⟨[], [], false, false⟩).pages[g]?).bind (fun t => t.rows[r]?) with
      | some rt => rt.part
      | none => identityPart x.dv)

/-- The request context of a VERIFY. -/
def ctxOf (s : State) (c : Cmd) : Option ReqCtx := mget (hubAt s (bits c.handle 31 31)).ctxs (bits c.handle 11 0)

/-- The place-3 part of a VERIFY's row (R161). -/
def provOf (s : State) (c : Cmd) (x : Stream) (k visible r : Nat) : List Part :=
  if c.hdr.isVerify then
    match ctxOf s c with
    | some y => let rs := y.rows.getD (k - c.hdr.kvh) ([], []); [provPartial c x k visible r rs.1 rs.2]
    | none => []
  else []

/-- This node's record of row r of a stream, with the flags of R146, R155 and R162. -/
def recordOf (s : State) (cid : Nat) (c : Cmd) (x : Stream) (k visible r : Nat) : Part :=
  let prov := provOf s c x k visible r
  let p := foldParts x.dv (slicePartials s cid k r x.dv ++ openPartials s cid c x k visible r ++ prov)
  let fl := (if c.opens.any (fun o => o.kvh == k && o.full) then flFullOpen else 0) |||
    (if prov.any (fun q => decide (0 < q.n)) then flProvisional else 0) ||| (if c.late then flLate else 0)
  { p with flags := p.flags ||| fl }

/-- QHEAD of row r of a stream. -/
def qheadOf (c : Cmd) (x : Stream) (k r : Nat) : Nat :=
  let head := k * x.group + r / c.hdr.rows
  if c.hdr.isVerify then qheadVerify head (r % c.hdr.rows) else qheadAttend head (r % c.hdr.rows)

/-- The rows of a command in payload order (R148): stream, KV head, visible length, row. -/
def rowList (c : Cmd) : List (Stream × Nat × Nat × Nat) :=
  c.snaps.flatMap (fun e => match e.x with
    | some x => (List.range (rowsOf c.hdr x)).map (fun r => (x, e.kvh, e.visible, r))
    | none => [])

/-- The records of a command on this node, in payload order. -/
def ownRecords (s : State) (cid : Nat) (c : Cmd) : List Part :=
  (rowList c).map (fun e => recordOf s cid c e.1 e.2.1 e.2.2.1 e.2.2.2)

/-- A board member's records read back from the body it sent (R147). -/
def peerParts (c : Cmd) (body : Bytes) : List Part :=
  ((rowList c).foldl (fun (acc : List Part × Bytes) e =>
    let n := recordSize c.hdr e.1.dv
    (acc.1 ++ [partOfRecord e.1.dv (acc.2.take n)], acc.2.drop n)) ([], body)).1

/-- The lead's records: every member's, its own included, in ascending board position (R144). -/
def mergedRecords (s : State) (c : Cmd) (own : List Part) (g : Nat) (peers : List PeerRecord) : List Part :=
  let per := (List.range g).map (fun b =>
    if b = s.hw.pos then own
    else ((peers.find? (fun p => p.pos == b)).map (fun p => peerParts c p.body)).getD [])
  (rowList c).zipIdx.map (fun e => foldParts e.1.1.dv (per.map (fun l => l.getD e.2 (identityPart e.1.1.dv))))

/-- The body of a result with records. -/
def recordsBody (c : Cmd) (ps : List Part) (extra : Nat) : Bytes :=
  ((rowList c).zip ps).flatMap (fun e => recordBytes e.2 (qheadOf c e.1.1 e.1.2.1 e.1.2.2.2) c.hdr.outBf16 (e.2.flags ||| extra))

/-- The final outcome of an attending command. -/
def attendOutcome (c : Cmd) (ps : List Part) (body : Bytes) : Outcome0 :=
  let om := ps.any (fun p => p.flags &&& flOmitted != 0)
  { status := if om then stOMITTED else stOK,
    detail := if c.hdr.isVerify then c.handle else if om then satTo 0xFFFFFFFF c.omitted else 0,
    cframe := c.planD.cframe, count0 := if body.isEmpty then 0 else ps.length, count1 := c.attended, body := body,
    late := c.late }

/-- The work of a command is gone from every slice. -/
def clearWork (s : State) (cid : Nat) : State :=
  { s with slices := s.slices.map (fun e => (e.1, { e.2 with work := mdel e.2.work cid, states := mdel e.2.states cid })) }

/-- The connection to a board position. -/
def boardConn (s : State) (pos : Nat) : Option Nat :=
  (s.conns.find? (fun e => e.2.opened && e.2.onBoard && some e.2.peerNode == s.hw.peerIds[pos]?)).map (fun e => e.1)

/-- Every slice partial of the command has left its bank unit. -/
def workReady (s : State) (cid : Nat) : Bool :=
  s.slices.all (fun e => match mget e.2.work cid with
    | some w => w.released
    | none => true)

/-- Board group of the streams a command attends: members, and this node's part in it. -/
def groupOfCmd (s : State) (c : Cmd) : Nat := (stripeOf s c.hdr.ctx c.hdr.layer).1

/-- The fold of an attending command (R143, R144). -/
def foldAttend (s : State) (cid : Nat) (c : Cmd) (peers : List PeerRecord) : State :=
  let g := groupOfCmd s c
  let late := c.late || peers.any (fun p => p.late)
  let gate := c.planD.service + 1 + b2n late
  let own := ownRecords s cid c
  if g ≤ 1 then
    finishWith (clearWork s cid) cid (attendOutcome c own (recordsBody c own 0)) gate true
  else if isLead s then
    if !(List.range g).all (fun b => b == s.hw.pos || peers.any (fun p => p.pos == b)) then s
    else
      let all := mergedRecords s c own g peers
      let c := { c with late := late }
      finishWith (clearWork s cid) cid (attendOutcome c all (recordsBody c all flPeer)) gate true
  else
    let body := statusRecord c.hdr c.chained false c.deferrals (attendOutcome c own (recordsBody c own 0)) ++ recordsBody c own 0
    let s := match boardConn s (leadPos s) with
      | some b => queueMsg s b 0 { resHdr c with av := false, answers := 0 } body c.hdr.part none false gate
      | none => s
    finishWith (clearWork s cid) cid (attendOutcome c own []) 0 true

/-- One output of a STATE_STEP (R184). -/
def stepOutput (c : Cmd) (w : StateWork) (tok : Nat) : Bytes :=
  let o := w.outs.map (fun os => (os.getD tok (f32Zero, false)).1)
  let bad := anyBad o || w.outs.any (fun os => (os.getD tok (f32Zero, false)).2)
  stepOutBytes w.head tok ((if bad then flNonfinite else 0) ||| (if c.late then flLate else 0)) o

/-- The outputs of a step in payload order: none while a state is unfinished. -/
def stepOutputs (s : State) (cid : Nat) (c : Cmd) : Option Bytes :=
  let ws := sortBy (fun w => w.head) (s.slices.flatMap (fun e => mgetD e.2.states cid []))
  if ws.length = c.hdr.nhead && ws.all (fun w => stepDone c w && w.loaded) then
    some (ws.flatMap (fun w => (List.range c.hdr.tok).flatMap (stepOutput c w)))
  else none

/-- Does the command wait for a re-run of a sequence (R315)? -/
def rerunWaits (s : State) (cid : Nat) : Bool := s.adm.jobs.any (fun e => e.2.kind == .rerun && e.2.cid == cid)

/-- Do its outputs wait for one whose output frame is not reached? -/
def outputsWait (s : State) (cid : Nat) : Bool :=
  s.adm.jobs.any (fun e => e.2.kind == .rerun && e.2.cid == cid && !e.2.acted)

/-- The outputs of a STATE_STEP leave in the gate after its output frame (R186). -/
def foldStep (s : State) (cid : Nat) (c : Cmd) : State :=
  match stepOutputs s cid c with
  | none => s
  | some body =>
    let p := c.planD
    let gate := p.outFrame + 1
    let n := c.hdr.nhead * c.hdr.tok
    if p.outFrame = p.cframe then
      if c.hdr.commit && s.slices.any (fun e => (mgetD e.2.states cid []).any (fun w => !w.written)) then s
      else finishWith (clearWork s cid) cid ⟨stOK, 0, p.cframe, n, 0, body, c.late⟩ gate true
    else
      updCmd (interim s cid stOK 0 p.outFrame body n gate) cid (fun c => { c with outSent := true })

/-- MERGE_FOLD. -/
def mergeFold (cid : Nat) (peers : List PeerRecord) (s : State) : State :=
  match cmdAt s cid with
  | none => s
  | some c =>
    if c.st != .acted || c.result.isSome then s
    else if [opATTEND, opVERIFY, opSELECT].contains c.hdr.opcode then
      if s.time.frame < c.planD.service || !workReady s cid then s else foldAttend s cid c peers
    else if c.hdr.opcode = opSTEP then
      if s.time.frame < c.planD.outFrame || c.outSent || outputsWait s cid then s else foldStep s cid c
    else s

def execMergeFold (cid : Nat) (peers : List PeerRecord) (s : State) : Host.Outcome State Fault Refusal :=
  .next (mergeFold cid peers s)

/-- PEER_RECORD_MISSING (R621): the lead lacks records of the named positions at the midpoint of the gate. -/
def peerRecordMissing (cid missing : Nat) (s : State) : State :=
  match cmdAt s cid with
  | none => s
  | some c =>
    let m := missing % 2 ^ groupOfCmd s c
    let low := ((List.range 4).find? (fun b => bit m b)).getD 0
    if c.st != .acted || c.result.isSome || m == 0 || bit m s.hw.pos || !isLead s || decide (s.time.frame ≤ c.planD.service) ||
        !workReady s cid || !([opATTEND, opVERIFY, opSELECT].contains c.hdr.opcode) then s
    else
      raise (stopCmd s cid ⟨stFENCED, fencedDetail 0x01 m, c.planD.cframe, 0, 0, [], false⟩ true) 0x0508 none
        (unitId (.blink (Nat.xor low s.hw.pos - 1))) m

def execPeerRecordMissing (cid missing : Nat) (s : State) : Host.Outcome State Fault Refusal :=
  .next (peerRecordMissing cid missing s)

/-- Committing steps whose change takes effect at the start of frame f complete without a body (R186, R187). -/
def stepsDone (s : State) (f : Nat) : State :=
  forAll s s.adm.cmds (fun s e =>
    if e.2.hdr.opcode = opSTEP && e.2.outSent && e.2.result.isNone && decide (e.2.planD.cframe < f) && !rerunWaits s e.1 then
      finish (clearWork s e.1) e.1 stOK 0 e.2.planD.cframe (e.2.hdr.nhead * e.2.hdr.tok) 0
    else s)

end Sys2Proof.Machine
end

