-- ==== Sys2Proof/Machine/OboeUnit.lean ====
section
/-!
DEFINITION. The Oboe unit and INDEX_UPDATE (R207–R237): search windows, update slots, index records, and the failure of a
cascade.
-/

namespace Sys2Proof.Machine

/-! ## Searches (R216, R217, R221) -/

/-- The keys of one stream of a SELECT (R216). -/
def streamKeys (c : Cmd) (a : AttStream) : List (Nat × Nat) :=
  searchKeys ((List.range (rowsOf c.hdr a.x)).map (queryRow c a.x a.kvh)) a.x.dk c.hdr.probes c.hdr.probeBits

/-- Matches of one stream in this node's table, each with its board position and its entry's address (R217, R225). -/
def streamMatches (s v : State) (c : Cmd) (a : AttStream) : List OboeMatch :=
  let ents := s.oboe.ents0 ++ s.oboe.ents1.map (fun e => (2 ^ 20 + e.1, e.2))
  (searched v c.hdr a).flatMap (fun own =>
    match indexOf v own with
    | none => []
    | some r =>
      (streamKeys c a).zipIdx.flatMap (fun k =>
        (ents.filter (fun e => e.2.tag == r.tag && sigMatches e.2.sig k.1)).map (fun e =>
          ⟨s.hw.pos, e.1, 4 * a.kvh + k.2, e.2.stream, e.2.page, e.2.version⟩)))

/-- The matches of a search over the board group's tables: by board position, then by entry address (R225). -/
def boardMatches (own peers : List OboeMatch) : List OboeMatch :=
  sortBy (fun m => m.pos * 2 ^ 21 + m.addr) (own ++ peers)

/-- The lead runs the searches of a striped stream (R228). -/
def searchesHere (s : State) (c : Cmd) : Bool := (groupOfCmd s c ≤ 1) || isLead s

/-- OBOE_SEARCH_WINDOW (R221): the searches of a SELECT whose span starts with the next frame. In cascade mode `peers` are the
matches in other members' tables (R225). On a member that does not lead a striped stream they are the candidates the lead
sends, with its union bounds (R228; how these lie in the board connection's message the manual does not say: DESIGN CHOICE,
log 91). -/
def oboeSearchWindow (cid : Nat) (peers : List OboeMatch) (bounds : List UnionBound) (s : State) : State :=
  match cmdAt s cid with
  | none => s
  | some c =>
    if c.st != .granted || !c.hdr.prefilter || !isA24F s || !s.oboe.en || c.planD.start != s.time.frame + 1 ||
        mhas s.oboe.results cid then s
    else
      let v := viewAt s c.planD.start
      let ss := attStreams v c
      let t := meter s c.hdr.part 4 (ss.map (fun a => c.hdr.probes * (searched v c.hdr a).length)).sum
      let others := peers.filter (fun m => s.oboe.casc && m.pos != s.hw.pos)
      let found := if searchesHere s c then boardMatches (ss.flatMap (streamMatches s v c)) others else boardMatches [] peers
      { t with oboe := { s.oboe with
        results := mset s.oboe.results cid found
        bounds := if searchesHere s c then s.oboe.bounds else mset s.oboe.bounds cid bounds } }

def execOboeSearchWindow (search : SearchOp) (s : State) : Host.Outcome State Fault Refusal :=
  .next (oboeSearchWindow search.cid search.peers search.bounds s)

/-! ## Index records (R209, R210) -/

/-- The smaller or larger of two BF16 codes; NaN when either is (R210). -/
def unionMin (a b : Nat) : Nat := bf16Of .nearest (f32Min (f32OfBf16 a) (f32OfBf16 b))
def unionMax (a b : Nat) : Nat := bf16Of .nearest (f32Max (f32OfBf16 a) (f32OfBf16 b))

/-- A page's summary merged into the union box. -/
def mergeUnion (r : IndexRec) (dk : Nat) (sum : Bytes) : IndexRec :=
  let lo := (List.range dk).map (fun c => leAt sum (28 + 2 * c) 2)
  let hi := (List.range dk).map (fun c => leAt sum (28 + 2 * dk + 2 * c) 2)
  let n := sumNorm dk sum
  if r.mins.isEmpty then { r with mins := lo, maxs := hi, norm := n }
  else { r with
    mins := (r.mins.zip lo).map (fun e => unionMin e.1 e.2)
    maxs := (r.maxs.zip hi).map (fun e => unionMax e.1 e.2)
    norm := f32Max r.norm n }

def updIndex (s : State) (hub idx : Nat) (f : IndexRec → IndexRec) : State :=
  updHub s hub (fun y => { y with index := mmod y.index idx f })

/-- Put an entry in the half of a hub, or in the other when that is full. -/
def addEntry (s : State) (hub : Nat) (e : OboeEnt) : State :=
  let half := if (if hub = 1 then s.oboe.ents1 else s.oboe.ents0).length < 1048576 then hub else 1 - hub
  let put := fun (m : SMap OboeEnt) => mset m ((mfree m (m.length + 1) 0).getD 0) e
  if half = 1 then { s with oboe := { s.oboe with ents1 := put s.oboe.ents1 } }
  else { s with oboe := { s.oboe with ents0 := put s.oboe.ents0 } }

/-- Take out the entries that name a page. -/
def dropEntries (s : State) (stream page : Nat) : State :=
  let f := fun (m : SMap OboeEnt) => mfilter m (fun _ e => !(e.stream == stream && e.page == page))
  { s with oboe := { s.oboe with ents0 := f s.oboe.ents0, ents1 := f s.oboe.ents1 } }

/-! ## The commands (R233–R235) -/

/-- Queue bulk inserts for pages, each with its summary; the page whose summary cannot be read otherwise. -/
def queueBulk (s : State) (cid h : Nat) (x : Stream) (r : IndexRec) (ps : List PageView) : Except Nat State :=
  ps.foldl (fun (acc : Except Nat State) p =>
    match acc with
    | .error e => .error e
    | .ok s => match getSummary s p.slice x p.page p.ent with
      | none => .error p.page
      | some sum => .ok { s with oboe := { s.oboe with updates := s.oboe.updates ++
          [.insert (hubOfHandle h) r.tag h p.page p.ent.version (sumSig x.dk sum) sum true cid] } }) (.ok s)

/-- Inserts for the pages of the stream whose seals were coded before the index became complete (R210). -/
def queueSeals (s : State) (h : Nat) (x : Stream) (r : IndexRec) : State :=
  forAll s (s.adm.jobs.filter (fun e => e.2.kind == .seal && e.2.left.isNone && e.2.handle == h && !s.oboe.updates.any (isInsertOf h e.2.page) &&
      !hasEntry s h e.2.page)) (fun s e =>
    let d := sealDraw s e.1
    let s := d.1
    let v := d.2
    { s with oboe := { s.oboe with updates := s.oboe.updates ++
        [.insert (hubOfHandle h) r.tag h e.2.page v (sumSig x.dk e.2.summary) e.2.summary false e.1] } })

/-- Bulk inserts of a command still to come. -/
def bulkLeft (s : State) (cid : Nat) : Bool :=
  s.oboe.updates.any (fun u => match u with
    | .insert _ _ _ _ _ _ _ b c => b && c == cid
    | _ => false)

/-- Z bytes of reserve credit for the summaries of pages sealed since the command was admitted (R233): planned from the next
frame as a job of the node; none while they do not fit. -/
def chargeLate (s : State) (cid : Nat) (x : Stream) (ps : List PageView) : Option State :=
  let nd := { Need.zero x.part with
    node := true
    ord := ps.foldl (fun m p => addTo m p.slice (summaryZ x.dcode)) [] }
  let n := s.adm.closed + 1
  match (if lenAt s n = s.time.len && !s.adm.stopped then planNeed s (fun _ => true) (2 ^ 41 + cid) nd n else none) with
  | none => none
  | some pl =>
    if withinCaps s [] 2 nd pl && otherFits s (windowSlots s pl.start) nd pl then
      some (updCmd (reserve s nd pl) cid (fun c => { c with plan := c.plan.map (fun p => { p with cframe := max p.cframe pl.cframe }) }))
    else none

/-- An index or grow command with no insert left, once the reads it is charged for are over: pages sealed meanwhile are read
and inserted too; with none lacking, the index is complete and the command completes in this frame (R233, R234). `aux` holds
the stream and the entries inserted. -/
def finishIndex (s : State) (cid : Nat) : State :=
  match cmdAt s cid with
  | none => s
  | some c =>
    if c.hdr.opcode != opINDEX || c.st != .waiting || c.result.isSome || bulkLeft s cid || decide (s.time.frame < c.planD.cframe) then s
    else
      let h := c.aux.getD 0 0
      let cf := s.time.frame
      let done := fun (s : State) (r : Nat) => finish s cid stOK 0 cf (c.aux.getD 1 0) r
      match streamAt s h, indexOf s h with
      | some x, some r =>
        if r.complete then done s r.reserve
        else
          let ps := lackingPages s s h x
          if ps.isEmpty then
            done (updIndex (queueSeals s h x r) (hubOfHandle h) (idxOfHandle h) (fun r => { r with complete := true })) r.reserve
          else match chargeLate s cid x ps with
            | none => s
            | some s => match queueBulk s cid h x r ps with
            | .ok s => s
            | .error p => stopCmd s cid ⟨stINTEGRITY, lossDetail false x.kvh 0x08 p, endFrame s cid, 0, 0, [], false⟩ true
      | _, _ => done s 0

/-- Start an index or grow command: inserts for every page its admission charged, in its view. -/
def startIndex (s v : State) (cid h : Nat) (x : Stream) : State :=
  let s := updCmd s cid (fun c => { c with st := .waiting, aux := [h, 0] })
  match indexOf s h with
  | none => s
  | some r =>
    match (if r.complete then .ok s else queueBulk s cid h x r (lackingPages s v h x)) with
    | .ok s => finishIndex s cid
    | .error p => stopCmd s cid ⟨stINTEGRITY, lossDetail false x.kvh 0x08 p, endFrame s cid, 0, 0, [], false⟩ true

/-- INDEX_UPDATE index (R233). `tag` is the tag the lead of a board group assigned, for its other members (R228). -/
def indexUpdateIndex (cid tag : Nat) (s : State) : State :=
  match actable s cid opINDEX with
  | none => s
  | some c =>
    if c.hdr.indexOp != 0 then s
    else
      let v := viewAt s c.planD.start
      match oneStream v c.hdr with
      | none => s
      | some (h, x) =>
        let member := decide (1 < groupOfCmd s c) && !isLead s
        let t := if member then some tag else freeTag s
        match t with
        | none => finish (acted s cid) cid stNOBUDGET 0 c.planD.cframe 0 0
        | some t =>
          let r : IndexRec :=
            { stream := h, tag := t, complete := false, offAt := 0, reserve := c.hdr.reserve, count := 0, mins := [],
              maxs := [], norm := f32Zero, part := x.part }
          let s := updHub s (hubOfHandle h) (fun y => { y with index := mset y.index (idxOfHandle h) r })
          let s := updPart s x.part (fun p => { p with idxReserved := p.idxReserved + r.reserve })
          let s := takeT0 { s with oboe := { s.oboe with tags := s.oboe.tags ++ [t] } } x.part (hubOfHandle h) 1
          startIndex s v cid h x

def execIndexUpdateIndex (cid tag : Nat) (s : State) : Host.Outcome State Fault Refusal := .next (indexUpdateIndex cid tag s)

/-- INDEX_UPDATE grow (R234). -/
def indexUpdateGrow (cid : Nat) (s : State) : State :=
  match actable s cid opINDEX with
  | none => s
  | some c =>
    if c.hdr.indexOp != 2 then s
    else
      let v := viewAt s c.planD.start
      match oneStream v c.hdr with
      | none => s
      | some (h, x) =>
        match indexOf s h with
        | none => s
        | some r =>
          let s := updPart s x.part (fun p => { p with idxReserved := p.idxReserved + (c.hdr.reserve - r.reserve) })
          startIndex (updIndex s (hubOfHandle h) (idxOfHandle h) (fun r => { r with reserve := c.hdr.reserve })) v cid h x

def execIndexUpdateGrow (cid : Nat) (s : State) : Host.Outcome State Fault Refusal := .next (indexUpdateGrow cid s)

/-- INDEX_UPDATE unindex (R235). -/
def indexUpdateUnindex (cid : Nat) (s : State) : State :=
  match actable s cid opINDEX with
  | none => s
  | some c =>
    if c.hdr.indexOp != 1 then s
    else match oneStream (viewAt s c.planD.start) c.hdr with
      | none => s
      | some (h, _) =>
        match indexOf s h with
        | none => s
        | some r =>
          let s := addEff (acted s cid) (c.planD.cframe + 1) cid (.indexOff (hubOfHandle h) r.tag)
          finish s cid stOK 0 c.planD.cframe 0 r.reserve

def execIndexUpdateUnindex (cid : Nat) (s : State) : Host.Outcome State Fault Refusal := .next (indexUpdateUnindex cid s)

/-! ## Update slots (R211–R214, R223) -/

/-- Update slots of a frame (Table 6-8). -/
def updateSlots (step len : Nat) : Nat :=
  let w := [4, 3, 2, 1].getD step 1
  w * ([192, 704, 1728, 3776].getD len 704)

/-- The INDEX_UPDATE a bulk insert is of. -/
def bulkOf (u : OboeUpd) : Option Nat :=
  match u with
  | .insert _ _ _ _ _ _ _ b c => if b then some c else none
  | _ => none

/-- May a bulk insert run now: the last of a command waits for the frame in which its charged reads end, its completion
frame (R233). -/
def bulkReady (s : State) (u : OboeUpd) : Bool :=
  match bulkOf u with
  | none => true
  | some cid =>
    decide (1 < (s.oboe.updates.filter (fun q => bulkOf q == some cid)).length) ||
    (match cmdAt s cid with
     | some c => decide (c.planD.cframe ≤ s.time.frame)
     | none => true)

/-- The update a slot takes: the oldest that is not a bulk insert, else the oldest bulk insert that may run (R223). -/
def nextUpdate (s : State) : Option Nat :=
  match s.oboe.updates.findIdx? (fun u => (bulkOf u).isNone) with
  | some i => some i
  | none => s.oboe.updates.findIdx? (bulkReady s)

/-- The index is full (R213): no entry is made and `COMPLETE` goes; from the frame after the seal's completion the stream
counts as not indexed. -/
def indexFull (s : State) (hub idx page : Nat) (r : IndexRec) (bulk : Bool) : State :=
  let s := updIndex s hub idx (fun r => { r with complete := false, offAt := if bulk then r.offAt else page + 1 })
  raise s 0x0602 (some r.part) r.stream r.reserve

/-- Run one insert (R210). -/
def runInsert (s : State) (hub tag stream page version sig : Nat) (sum : Bytes) (bulk : Bool) (cid : Nat) : State :=
  let idx := idxOfHandle stream
  match mget (hubAt s hub).index idx, streamAt s stream with
  | some r, some x =>
    if r.tag != tag || (!bulk && !r.complete) then s
    else if r.reserve ≤ r.count then
      let s := indexFull s hub idx page r bulk
      if bulk then
        let s := { s with oboe := { s.oboe with updates := s.oboe.updates.filter (fun u => match u with
          | .insert _ _ _ _ _ _ _ b c => !(b && c == cid)
          | _ => true) } }
        match cmdAt s cid with
        | some c => finish s cid stOK 0 (max c.planD.cframe s.time.frame) (c.aux.getD 1 0) r.reserve
        | none => s
      else s
    else
      let s := addEntry (dropEntries s stream page) hub ⟨tag, sig, version, stream, page⟩
      let s := updIndex s hub idx (fun r => mergeUnion { r with count := r.count + 1 } x.dk sum)
      if bulk then finishIndex (updCmd s cid (fun c => { c with aux := [c.aux.getD 0 0, c.aux.getD 1 0 + 1] })) cid else s
  | _, _ => s

/-- Is a search window open: some search of it has run and another is still to run (R221)? No update takes a slot in it. -/
def searchWaits (s : State) : Bool :=
  let mine := s.adm.cmds.filter (fun e => e.2.st == .granted && e.2.hdr.prefilter && e.2.planD.start == s.time.frame + 1)
  mine.any (fun e => mhas s.oboe.results e.1) && mine.any (fun e => !mhas s.oboe.results e.1)

/-- The stream an update is of. -/
def updStreamOf : OboeUpd → Nat
  | .insert _ _ stream _ _ _ _ _ _ => stream
  | .rewrite _ _ stream _ _ => stream
  | .remove _ _ stream _ => stream

/-- OBOE_UPDATE_SLOT (R223). -/
def oboeUpdateSlot (s : State) : State :=
  if !isA24F s || searchWaits s || decide (updateSlots s.oboe.step s.time.len ≤ s.oboe.slotsUsed) then s
  else match nextUpdate s with
    | none => s
    | some i =>
      match s.oboe.updates[i]? with
      | none => s
      | some u =>
        let s := meter s (((streamAt s (updStreamOf u)).map (fun x => x.part)).getD 128) 4 1
        let s := { s with oboe := { s.oboe with updates := s.oboe.updates.eraseIdx i, slotsUsed := s.oboe.slotsUsed + 1 } }
        match u with
        | .insert hub tag stream page version sig sum bulk cid => runInsert s hub tag stream page version sig sum bulk cid
        | .rewrite _ _ stream page version => setAssoc s stream page version
        | .remove hub tag stream page =>
          let n := ((oboeEnts s).filter (fun e => e.tag == tag && e.stream == stream && e.page == page)).length
          let s := dropEntries s stream page
          let idx := idxOfHandle stream
          let s := match mget (hubAt s hub).index idx with
            | some r => if r.tag = tag then updIndex s hub idx (fun r => { r with count := r.count - n }) else s
            | none => s
          sweepOld s hub

def execOboeUpdateSlot (s : State) : Host.Outcome State Fault Refusal := .next (oboeUpdateSlot s)

/-- At a frame start: the slots of the frame before are gone, index commands whose inserts are over complete, and retired
records that hold nothing are freed. -/
def oboeFrame (s : State) : State :=
  let s := { s with oboe := { s.oboe with slotsUsed := 0 } }
  let s := forAll s s.adm.cmds (fun s e => if e.2.hdr.opcode = opINDEX && e.2.st == .waiting then finishIndex s e.1 else s)
  sweepOld (sweepOld s 0) 1

/-! ## Cascade failure (R229) -/

/-- CASCADE_FAIL: the line of a position, or the member there, has failed; searches stop on every member. -/
def cascadeFail (pos : Nat) (s : State) : State :=
  if !isA24F s || !s.oboe.casc || decide (s.hw.gsize < pos) then s
  else
    let s := raise { s with oboe := { s.oboe with en := false } } 0x0A02 none pos 0
    forAll s s.adm.cmds (fun s e =>
      if e.2.st == .granted && e.2.hdr.prefilter && !mhas s.oboe.results e.1 then
        stopCmd s e.1 ⟨stFENCED, fencedDetail 0x02 0, e.2.planD.cframe, 0, 0, [], false⟩ true
      else s)

def execCascadeFail (pos : Nat) (s : State) : Host.Outcome State Fault Refusal := .next (cascadeFail pos s)

end Sys2Proof.Machine
end

