-- ==== Sys2Proof/Machine/CmdStruct.lean ====
section
/-!
DEFINITION. Streams made and ended, score programs, and QUERY_CAPS (R80–R82, R102–R104, R112–R120, R177–R180, R300–R305,
R412, Table 5-14).
-/

namespace Sys2Proof.Machine

/-! ## Opening (R80–R82, R102–R104, R177–R179) -/

/-- The stream entry a STREAM_OPEN makes, at base b and home hub hm, in page format version pfv. -/
def newStream (pfv : Nat) (h : Hdr) (state : Bool) (b w hm : Nat) : Stream where
  ctx := h.ctx
  layer := h.layer
  kvh := h.kvh
  layout := if state then 3 else h.dLayout
  fmt := if state then h.dDv else h.dFmt
  dcode := if state then h.dDk else h.dDcode
  group := if state then 0 else h.dGroup
  openPol := if state then 0 else h.openPol
  home := hm
  part := h.part
  fmtVer := pfv
  length := 0
  sealed := 0
  window := if state then 0 else h.dWindow
  base := b
  width := w
  chunksMax := 0
  parent := 0
  forkPages := 0
  depth := 0
  children := 0
  state := 0

/-- Reserve every block of a state, both halves, in open form on a slice (R179, R180). -/
def openState (s : State) (h : Nat) (x : Stream) (i : Nat) : Option State :=
  (List.range (ceilDiv x.stateChunks 8)).foldl (fun o k =>
    match o with
    | none => none
    | some s =>
      let sl := sliceAt s i
      if (dirFind sl h).isNone && (dirFree sl h).isNone then none
      else
        let b := blockChunks x.stateChunks k
        match freeEnt sl, allocRun sl (2 * b) with
        | some e, some (c, sl) =>
          some { s with slices := mset s.slices i (linkEnt s i sl h e ⟨0, false, k, noEntry, 0, 0, 1, 2 * b - 1, c⟩) }
        | _, _ => none) (some s) |>.map (fun s => nearFullCheck s i)

/-- A stream opened anew is no longer lost (R359). -/
def forgetIdent (s : State) (x : Stream) : State :=
  let f := fun (y : Hub) => { y with lostIds := y.lostIds.filter (fun j => j != identKey s x.part x.ctx x.layer x.kvh) }
  updHub (updHub s 0 f) 1 f

/-- STREAM_OPEN: base from the hint or the rotor, home hub, handle, entry from the frame after completion. -/
def openStream (cid : Nat) (state : Bool) (s : State) : State :=
  match actable s cid opOPEN with
  | none => s
  | some c =>
    let h := c.hdr
    if h.recurrent != state then s
    else
      let s := takeBases s cid h.part
      let xs := partList s h.part
      let w := if state then 1 else openWidth xs.length h.dWindow h.hintWidth
      let b := c.aux.headD (openBase s h)
      let hm := if h.hintHome = 0 then hubOfSlice (placeOf xs b w 0) else h.hintHome - 1
      let cf := c.planD.cframe
      let a := acted s cid
      match freeIndex a hm with
      | none => finish a cid stNOBUDGET 0 cf 0 0
      | some idx =>
        let hd := handleOf hm idx
        let x := newStream (ownPfv s) h state b w hm
        match (if state then openState a hd x (placeOf xs b 1 0) else some a) with
        | none => finish a cid stNOBUDGET 0 cf 0 0
        | some s =>
          let s := if c.aux.isEmpty then setRotor s h.part (rotorAfter s h) else s
          finish (addEff (forgetIdent s x) (cf + 1) cid (.create hd x)) cid stOK hd cf 0 0

/-- STREAM_OPEN (R80, R102). -/
def execStreamOpen (cid : Nat) (s : State) : Host.Outcome State Fault Refusal := .next (openStream cid false s)

/-- STREAM_OPEN of a recurrent state (R177–R180). -/
def execStreamOpenRecurrent (cid : Nat) (s : State) : Host.Outcome State Fault Refusal := .next (openStream cid true s)

/-! ## Rows copied from a page, whatever its form (R113, R118) -/

/-- The first k rows of page p of stream h in a view, with its scale block, or why they cannot be read; those of a
page that a ring stream has freed cannot (DEDUCED, log 126). -/
def firstRows (s v : State) (h : Nat) (x : Stream) (p k : Nat) : Except (Option Nat × Bad) (List Bytes × Bytes) :=
  match pageView v h p with
  | none => .error (none, (0x03, 0))
  | some q =>
    if q.opened then
      match openRows v x q.own p q.ent q.slice k with
      | .error c => .error (some q.slice, (0x03, c))
      | .ok r => .ok r
    else
      match loadPage s q.slice ((streamAt v q.own).getD x) p q.ent with
      | .error e => .error (some q.slice, e)
      | .ok (bs, n) =>
        match expand x n (pageKinds (sliceAt s q.slice) q.ent n) bs with
        | none => .error (some q.slice, (0x04, q.ent.chunk))
        | some raw => .ok ((pageRows x.fmt x.dcode raw).take k, pageTrailer x.fmt x.dcode raw)

/-- Write the rows of a page just opened: into T0, or among the slice's ordinary writes. -/
def fillOpen (s : State) (cid cf h : Nat) (x : Stream) (i : Nat) (e : PageEnt) (rows : List Bytes) (trailer : Bytes) : State :=
  if e.openT0 then updT0 s h e.page (fun _ => some ⟨rows, trailer, false, none, 0⟩)
  else queueRows s i cid cf x.part e x.fmtVer x.fmt x.dcode 0 rows trailer

/-! ## FORK (R112–R115, Table 5-14) -/

/-- Why a structural command stops: a status and a detail, and the slice, cause and page of a read that failed. -/
structure Halt where
  status : Nat
  detail : Nat
  read : Option (Nat × Bad × Nat) := none
  deriving DecidableEq, Repr

/-- No room. -/
def Halt.room : Halt := { status := stNOBUDGET, detail := 0 }

/-- A page that cannot be read (R599). -/
def Halt.unread (kvh page : Nat) (e : Option Nat × Bad) : Halt :=
  { status := stINTEGRITY, detail := lossDetail false kvh e.2.1 page, read := e.1.map (fun i => (i, e.2, page)) }

/-- End a command so stopped: nothing of it stands, and Fife hears of the read (R264). -/
def halt (s : State) (cid cf : Nat) (h : Halt) : State :=
  finish (match h.read with
    | some r => reportBad s r.1 r.2.1 r.2.2
    | none => s) cid h.status h.detail cf 0 0

/-- The child of a stream at point p (R112). -/
def childOf (h : Hdr) (parent : Nat) (x : Stream) : Stream :=
  { x with
    ctx := h.childCtx
    length := h.forkP
    forkPages := h.forkP / 64
    sealed := min x.sealed (h.forkP / 64)
    parent := parent
    depth := x.depth + 1
    children := 0
    state := 0 }

/-- Fork one stream: the child's entry from the frame after completion, its partial page at once on the page's home slice. -/
def forkStream (s v : State) (cid cf : Nat) (h : Hdr) (par : Nat) (x : Stream) : Except Halt (State × Nat) :=
  match freeIndex s x.home with
  | none => .error Halt.room
  | some idx =>
    let hd := handleOf x.home idx
    let y := childOf h par x
    let s := addEff s (cf + 1) cid (.create hd y)
    let p := h.forkP / 64
    let k := h.forkP % 64
    if k = 0 || !holdsPage v x.ctx x.layer p then .ok (s, 0)
    else match firstRows s v par x p k with
      | .error e => .error (Halt.unread x.kvh p e)
      | .ok (rows, tr) =>
        let i := placeOf (partList v x.part) x.base x.width p
        match openPage s hd y i p (opensInT0 s y) with
        | none => .error Halt.room
        | some s =>
          match entIn (sliceAt s i) hd p with
          | none => .error Halt.room
          | some e => .ok (fillOpen s cid cf hd y i e.2 rows tr, k)

/-- Copy the current halves of a state's blocks to another state's (Table 5-14). -/
def copyHalves (s v : State) (h hd : Nat) (x : Stream) (i j : Nat) : Except Halt State :=
  let half := x.sealed % 2
  (entsIn (sliceAt v i) h).foldl (fun (acc : Except Halt State) e =>
    match acc with
    | .error e => .error e
    | .ok s =>
      let b := blockChunks x.stateChunks e.2.page
      match entIn (sliceAt s j) hd e.2.page with
      | none => .error Halt.room
      | some d =>
        if e.2.form = 1 then .ok s
        else match getObject (sliceAt s i) i (partKey s x.part) (e.2.chunk + half * b) (stateObj x e.2) (4096 * b) with
          | .error ch => .error (Halt.unread x.kvh 0 (some i, (0x03, ch)))
          | .ok bs =>
            let c := d.2.chunk + half * b
            let n := nextVersion 64 (sliceAt s j) c b
            let s := { s with slices := mset s.slices j (putObject n.2 j (partKey s x.part) c ⟨kState, n.1, x.fmtVer, 0, 0⟩ bs) }
            .ok (updEnt s j d.1 (fun y => { y with form := 2, version := n.1 }))) (.ok s)

/-- Fork one recurrent state: its own base, which its admission has taken from the rotor, the current halves copied, no parent. -/
def forkState (s v : State) (cid cf : Nat) (h : Hdr) (par : Nat) (x : Stream) (base : Nat) : Except Halt (State × Nat) :=
  let j := placeOf (partList s x.part) base 1 0
  match freeIndex s x.home with
  | none => .error Halt.room
  | some idx =>
    let hd := handleOf x.home idx
    let y := { x with ctx := h.childCtx, base := base, width := 1, children := 0, state := 0 }
    match openState s hd y j with
    | none => .error Halt.room
    | some s =>
      match copyHalves s v par hd x (homeSlice v par 0) j with
      | .error e => .error e
      | .ok s => .ok (addEff s (cf + 1) cid (.create hd y), 0)

/-- The base kept for the copy of a state of KV head k. -/
def forkBase (c : Cmd) (ss : List (Nat × Nat × Stream)) (k : Nat) : Nat :=
  c.aux.getD ((ss.filter (fun e => e.2.2.isState && decide (e.1 < k))).length) 0

/-- FORK: every stream of the range, or none. -/
def fork (cid : Nat) (s : State) : State :=
  match actable s cid opFORK with
  | none => s
  | some c =>
    let v := viewAt s c.planD.start
    let cf := c.planD.cframe
    let a := acted s cid
    let ss := namedStreams v c.hdr
    let r := ss.foldl (fun (acc : Except Halt (State × Nat)) e =>
      match acc with
      | .error h => .error h
      | .ok (s, n) =>
        match (if e.2.2.isState then forkState s v cid cf c.hdr e.2.1 e.2.2 (forkBase c ss e.1) else forkStream s v cid cf c.hdr e.2.1 e.2.2) with
        | .error h => .error h
        | .ok (s, k) => .ok (s, n + k)) (.ok (a, 0))
    match r with
    | .error h => halt a cid cf h
    | .ok (s, n) => finish s cid stOK 0 cf ss.length n

def execFork (cid : Nat) (s : State) : Host.Outcome State Fault Refusal := .next (fork cid s)

/-! ## DROP and STREAM_CLOSE (R116–R120) -/

/-- Pages from a up that a stream holds itself, in a view. -/
def ownPages (v : State) (h : Nat) (x : Stream) (a : Nat) : Nat :=
  let lo := max x.forkPages a
  ((List.range (max x.pages (x.sealed + 1) - lo)).filter (fun j =>
    (entIn (sliceAt v (homeSlice v h (lo + j))) h (lo + j)).isSome)).length

/-- Drop one stream to position q: the pages freed. -/
def dropStream (s v : State) (cid cf : Nat) (h q : Nat) (x : Stream) : Except Halt (State × Nat) :=
  if q = x.length then .ok (s, 0)
  else if x.isState then .ok (addEff s (cf + 1) cid (.dropTo h 0 none), 0)
  else
    let p := q / 64
    let freed := ownPages v h x (ceilDiv q 64)
    if q % 64 = 0 || !holdsPage v x.ctx x.layer p then .ok (addEff s (cf + 1) cid (.dropTo h q none), freed)
    else match firstRows s v h x p (q % 64) with
      | .error e => .error (Halt.unread x.kvh p e)
      | .ok (rows, tr) =>
        let i := homeSlice v h p
        let t0 := opensInT0 s x
        match reservePage (sliceAt s i) h x.part p (if t0 then x.r else 2 * x.r) (summarySize x.dcode) t0 with
        | none => .error Halt.room
        | some (idx, ent, sl) =>
          let s := { s with slices := mset s.slices i sl }
          let s := updSlice s i (fun y => { y with held := y.held ++ [⟨cf + 1, x.part, [], [idx], [], none⟩] })
          let s := if t0 then takeT0 s x.part x.home x.r else fillOpen s cid cf h x i ent rows tr
          .ok (addEff (nearFullCheck s i) (cf + 1) cid (.dropTo h q (some ⟨i, idx, ent, rows, tr⟩)), freed)

/-- DROP: every stream of the range, or none. -/
def drop (cid : Nat) (s : State) : State :=
  match actable s cid opDROP with
  | none => s
  | some c =>
    let v := viewAt s c.planD.start
    let cf := c.planD.cframe
    let a := acted s cid
    let ss := namedStreams v c.hdr
    let r := ss.foldl (fun (acc : Except Halt (State × Nat)) e =>
      match acc with
      | .error h => .error h
      | .ok (s, n) =>
        match dropStream s v cid cf e.2.1 c.hdr.dropQ e.2.2 with
        | .error h => .error h
        | .ok (s, k) => .ok (s, n + k)) (.ok (a, 0))
    match r with
    | .error h => halt a cid cf h
    | .ok (s, n) => finish s cid stOK 0 cf ss.length n

def execDrop (cid : Nat) (s : State) : Host.Outcome State Fault Refusal := .next (drop cid s)

/-- STREAM_CLOSE: the streams end at the start of the frame after completion. -/
def streamClose (cid : Nat) (s : State) : State :=
  match actable s cid opCLOSE with
  | none => s
  | some c =>
    let ss := namedStreams (viewAt s c.planD.start) c.hdr
    let cf := c.planD.cframe
    let s := forAll (acted s cid) ss (fun s e => addEff s (cf + 1) cid (.close e.2.1))
    finish s cid stOK 0 cf ss.length 0

def execStreamClose (cid : Nat) (s : State) : Host.Outcome State Fault Refusal := .next (streamClose cid s)

/-! ## Score programs (R300–R305) -/

/-- Take or give back places in the program stores of a partition's dies (R302). -/
def useProg (s : State) (k : Nat) (f : Nat → Nat) : State :=
  forAll s (partStacks s k) (fun s n => updStack s n (fun x => { x with progUsed := f x.progUsed }))

/-- PROG_LOAD (R303, R305). -/
def progLoad (cid : Nat) (s : State) : State :=
  match actable s cid opPROG with
  | none => s
  | some c =>
    if c.hdr.progClear then s
    else
      let img := progParse c.hdr.ninst c.payload
      let cf := c.planD.cframe
      let s := useProg (acted s cid) c.hdr.part (fun n => n + 1)
      finish (addEff s (cf + 1) cid (.setProg c.hdr.part c.hdr.progSlot (some img))) cid stOK (b2n img.maskOnly) cf 0 0

def execProgLoad (cid : Nat) (s : State) : Host.Outcome State Fault Refusal := .next (progLoad cid s)

/-- PROG_LOAD with CLEAR: the slot is empty from the next frame (R303). -/
def progLoadClear (cid : Nat) (s : State) : State :=
  match actable s cid opPROG with
  | none => s
  | some c =>
    if !c.hdr.progClear then s
    else
      let cf := c.planD.cframe
      finish (addEff (acted s cid) (cf + 1) cid (.setProg c.hdr.part c.hdr.progSlot none)) cid stOK 0 cf 0 0

def execProgLoadClear (cid : Nat) (s : State) : Host.Outcome State Fault Refusal := .next (progLoadClear cid s)

/-- Retiring images whose last service frame has passed are freed (R304). -/
def progFrame (s : State) : State :=
  forAll s s.parts (fun s e =>
    forAll s e.2.progs (fun s g =>
      match g.2.retiring with
      | some r =>
        if r.2 ≤ s.time.frame then
          useProg (updPart s e.1 (fun p =>
            { p with progs := if g.2.cur.isNone then mdel p.progs g.1 else mset p.progs g.1 { g.2 with retiring := none } })) e.1 (fun n => n - 1)
        else s
      | none => s))

/-! ## QUERY_CAPS (R412, Table 10-22) -/

/-- `GLOBAL.CAPS` (Table 18-4). -/
def capsWord (s : State) : Nat :=
  packFields [(16, 48, s.hw.mac), (4, 1, b2n (isA24F s)), (3, 1, b2n (isA24F s)), (2, 1, b2n (hub1Present s)), (0, 2, s.hw.variant)]

/-- Epoch of the map in force. -/
def mapEpoch (s : State) : Nat :=
  match s.maps.cur with
  | some m => m.epoch
  | none => 0

/-- Transport generation of a connection. -/
def tgenOf (s : State) (conn : Nat) : Nat :=
  match mget s.conns conn with
  | some c => c.gen
  | none => 0

def grantsOf (s : State) (conn : Nat) : SMap Nat :=
  match mget s.conns conn with
  | some c => c.grants
  | none => []

/-- The body of QUERY_CAPS. -/
def capsBody (s : State) (c : Cmd) : Bytes :=
  leBytes 8 (capsWord s) ++ leBytes 8 s.time.frame ++ leBytes 4 (mapEpoch s) ++ leBytes 4 (fwVer s) ++
  leBytes 1 (2 ^ hverMax s - 1) ++ leBytes 1 (tgenOf s c.conn) ++ leBytes 1 (ownPfv s) ++ leBytes 1 s.time.len ++
  leBytes 1 (packFields [(0, 2, s.hw.pos), (2, 2, s.hw.gsize), (4, 1, b2n (isLead s))]) ++
  leBytes 1 (b2n (match s.maps.cur with
    | some m => m.mixed
    | none => false)) ++
  leBytes 1 (packFields [(0, 4, rightsIn s c.conn c.hdr.part), (7, 1, b2n (mgmtConn s c.conn))]) ++ zeros 1 ++
  leBytes 16 ((grantsOf s c.conn).foldl (fun n e => if e.2 = 0 then n else n ||| 2 ^ e.1) 0) ++ zeros 16

/-- QUERY_CAPS completes in the frame in which it is accepted. -/
def queryCaps (cid : Nat) (s : State) : State :=
  match cmdAt s cid with
  | none => s
  | some c =>
    if c.hdr.opcode != opCAPS || c.st != .queued || c.result.isSome then s
    else finishWith s cid ⟨stOK, 0, s.time.frame, 0, 0, capsBody s c, false⟩ 0 false

def execQueryCaps (cid : Nat) (s : State) : Host.Outcome State Fault Refusal := .next (queryCaps cid s)

end Sys2Proof.Machine
end

