-- ==== Sys2Proof/Machine/Maint.lean ====
section
/-!
DEFINITION. Requested maintenance (R615–R618), maintenance slots (R614), meter snapshots (R544), and the writes of a
partition's registers (Table 18-3, R55, R375, R396, R480, R499, R508).
-/

namespace Sys2Proof.Machine

/-! ## Fields of MAINT_REQ (Table 15-13) -/

def mrStatus (p : Part0) : Nat := bits p.maintReq.toNat 55 48

/-- Set `STATUS` and `GO`. -/
def mrSet (s : State) (k st go : Nat) : State :=
  updPart s k (fun p => { p with maintReq := BitVec.ofNat 64 (putField (putField p.maintReq.toNat 48 8 st) 36 1 go) })

/-- A request is pending or running. -/
def mrBusy (p : Part0) : Bool := mrStatus p == 1 || mrStatus p == 2

/-- A slice of partition k. -/
def sliceOfPart (s : State) (k i : Nat) : Bool := (partsOfSlice s i).contains k

/-- A unit is fenced or in quarantine, from now or soon. -/
def unitBusy (s : State) (u : RasUnit) : Bool :=
  s.ras.fences.any (fun f => f.unit == u) || (quarOf s u).isSome

/-- The same of a slice, itself or with its stack. -/
def sliceBusy (s : State) (i : Nat) : Bool := unitBusy s (.slice i) || unitBusy s (.stack (stackOf i))

/-! ## The four requests (R616, R617) -/

/-- Frames a slice test takes (R616). -/
def testFrames (len : Nat) : Nat := ceilDiv 98304 (frameNs len)

/-- The last frame in which a slice holds a reservation. -/
def lastReserved (s : State) (i : Nat) : Nat :=
  let a := (s.adm.res.filter (fun e => decide (0 < mgetD e.2.chunks i 0) || decide (0 < mgetD e.2.grants i 0))).foldl
    (fun m e => max m e.1) 0
  let b := (sliceAt s i).seqs.foldl (fun m q => max m (frameOf s.time q.last)) a
  max b (if (sliceAt s i).ordq.isEmpty then 0 else (sliceAt s i).ordEnd.1)

/-- The first n frames from f that partition k owns (R617). -/
def ownedFrames (s : State) (k f n : Nat) : List Nat :=
  if (partAt s k).tsgEn then ((List.range (n * 4096)).map (fun j => f + j)).filter (fun g => ownsFrame s k g) |>.take n
  else (List.range n).map (fun j => f + j)

/-- Commands of partition k that hold reservations on slice i in the frames of a test complete with `FENCED`, reason 5; jobs
and copies on the slice are admitted again (R617). -/
def withdrawSlice (s : State) (k i f : Nat) : State :=
  let on := fun j => i == j
  let s := forAll s s.adm.cmds (fun s e =>
    if e.2.hdr.part = k && holdsOn s e.1 e.2 on f then
      stopCmd s e.1 ⟨stFENCED, fencedDetail 5 i, s.time.frame, 0, 0, [], false⟩ true
    else s)
  let s := forAll s s.adm.jobs (fun s e => if e.2.slice = i && e.2.kind != .zero then returnJob s e.1 else s)
  returnCopies s on

/-- A slice test: at once when immediate, else from the first frame from which nothing is reserved. -/
def requestSliceTest (s : State) (k i : Nat) (now : Bool) : State :=
  let f := if now then openFrame s else max (openFrame s) (lastReserved s i + 1)
  let frames := ownedFrames s k f (testFrames s.time.len)
  let f := frames.headD f
  let s := if now then withdrawSlice s k i f else s
  let s := { s with ras := { s.ras with quar := s.ras.quar ++ [⟨.slice i, 0, f, false, some k, none, frames⟩] } }
  let s := if f ≤ s.time.frame + 1 then raise s 0x0307 (some k) (unitId (.slice i)) f else s
  mrSet s k 1 1

/-- A logical core test: a spare takes the core at once, and its home core is tested. -/
def requestCoreTest (s : State) (k l : Nat) : State :=
  let n := coreStack l
  let g := coreGroup l
  let p := l % 48
  let m := spareAt s n g
  match freeSpare m with
  | none => mrSet s k 5 0
  | some q =>
    let s := updSpare s n g (fun m => { bindSpare m q (some p) with testing := m.testing ||| 2 ^ p })
    let s := raise (recordBinds s) 0x0302 none (unitId (.core n g q)) l
    let s := { s with ras := { s.ras with quar := s.ras.quar ++ [⟨.core n g p, 0, s.time.frame, false, some k, none, []⟩] } }
    mrSet s k 2 1

/-- May a merged window lie on base interval b for the slices of partition k in stack n: its frame's admission is open, no
long sequence holds them, and no more is reserved than the window leaves (R41, R617). -/
def windowFits (s : State) (k n b : Nat) : Bool :=
  let f := frameOf s.time b
  decide (s.adm.closed < f) && ((partList s k).filter (fun i => stackOf i == n)).all (fun i =>
    let g := bintBudget s i b true
    let g := if s.time.len = 0 then g else bintBudget s i b false
    let w := mergedBudget s.time.len 8 (s.time.len != 0 && refreshDue (modeAt s n b).1 b) g
    (seqAt (sliceAt s i) b).isNone && decide (mgetD (resAt s f).chunks i 0 ≤ sliceBudget s i f - (g - w)))

/-- A stack recalibration: 8 slots merged in each of two cycles when immediate, else one lane group per slot for 16. -/
def requestRecal (s : State) (k n : Nat) (now : Bool) : State :=
  if now then
    let b0 := s.time.bint / 16 * 16 + 15
    let bs := ((List.range 256).map (fun j => b0 + 16 * j)).filter (fun b => windowFits s k n b) |>.take 2
    let s := updStack s n (fun x => { x with recal := x.recal ++ bs.map (fun b => (b, k)) })
    mrSet s k 2 1
  else mrSet (updPart s k (fun p => { p with maintLeft := 16 })) k 2 1

/-- A row-group test, admitted for the next frame whose admission is open. -/
def requestRowTest (s : State) (k i g : Nat) : State :=
  let u := RasUnit.rowGroup i g
  let s := { s with ras := { s.ras with quar := s.ras.quar ++ [⟨u, 0, openFrame s, false, some k, none, []⟩] } }
  let s := addJob s { kind := .rowTest, handle := 0, page := g, slice := i, cid := 0, target := openFrame s, granted := none,
                      coded := [], summary := [], k := 18, source := 2 }
  mrSet s k 2 1

/-- The target is partition k's, and neither it nor what holds it is fenced or in quarantine (R615). -/
def mrTargetOk (s : State) (k kind target group : Nat) : Bool :=
  match kind with
  | 0 => sliceOfPart s k target && !sliceBusy s target
  | 1 => sliceOfPart s k (coreSlice target) && !sliceBusy s (coreSlice target) &&
      !unitBusy s (.core (coreStack target) (coreGroup target) (target % 48)) &&
      (boundSpare (spareAt s (coreStack target) (coreGroup target)) (target % 48)).isNone
  | 2 => (partList s k).any (fun i => stackOf i == target) && !unitBusy s (.stack target)
  | 3 => sliceOfPart s k target && !sliceBusy s target && !unitBusy s (.rowGroup target group)
  | _ => false

/-- A write of `PART[k].MAINT_REQ` (R615): nothing while a request is under way; with `GO` the request starts, or is refused
at once. -/
def writeMaintReq (s : State) (k value : Nat) : State :=
  if mrBusy (partAt s k) then s
  else
    let s := updPart s k (fun p =>
      { p with maintReq := BitVec.ofNat 64 (packFields [(0, 36, bits value 35 0), (48, 8, mrStatus p)]) })
    if !bit value 36 then s
    else
      let target := bits value 18 0
      let group := bits value 31 19
      let kind := bits value 34 32
      let now := bit value 35
      if !mrTargetOk s k kind target group then mrSet s k 5 0
      else match kind with
        | 0 => requestSliceTest s k target now
        | 1 => requestCoreTest s k target
        | 2 => requestRecal s k target now
        | _ => requestRowTest s k target group

/-! ## Ignored writes (R692) -/

/-- Record a write that a rule makes the node ignore. -/
def noteIgnored (s : State) (addr : Nat) : State :=
  { s with irq := { s.irq with ignCount := satTo 65535 (s.irq.ignCount + 1), ignAddr := addr % 2 ^ 28 } }

/-- Byte address of an offset in `PART[k]` (Table 18-1). -/
def partAddr (k off : Nat) : Nat := 0x8000000 + 0x10000 * k + off

/-- A request row's write: a write of `MAINT_REQ` of the row's kind with `GO` set; a free partition's is ignored (R688). -/
def maintRow (kind k value : Nat) (s : State) : State :=
  if 128 ≤ k || bits value 34 32 != kind || !bit value 36 then s
  else if (partAt s k).state = 0 then noteIgnored s (partAddr k 0x48)
  else writeMaintReq s k value

/-- MAINT_SLICE_TEST (R616, R617). -/
def execMaintSliceTest (part value _path : Nat) (s : State) : Host.Outcome State Fault Refusal := .next (maintRow 0 part value s)

/-- MAINT_CORE_TEST (R617). -/
def execMaintCoreTest (part value _path : Nat) (s : State) : Host.Outcome State Fault Refusal := .next (maintRow 1 part value s)

/-- MAINT_STACK_RECAL (R614, R617). -/
def execMaintStackRecal (part value _path : Nat) (s : State) : Host.Outcome State Fault Refusal := .next (maintRow 2 part value s)

/-- MAINT_ROW_GROUP_TEST (R610, R617). -/
def execMaintRowGroupTest (part value _path : Nat) (s : State) : Host.Outcome State Fault Refusal := .next (maintRow 3 part value s)

/-! ## Maintenance slots (R39, R614) -/

/-- A failed lane group of a stack that no spare serves yet: the stack's one spare group takes its place (Table 15-9;
the lowest failed group first: DESIGN CHOICE, log 166). -/
def laneSwitch (s : State) (n : Nat) (x : Stack) : Option Nat :=
  match x.laneSpare with
  | some g => some g
  | none => (List.range 16).find? (fun g => fencedAt s (.laneGroup n g) s.time.frame)

/-- One stack's slot: every sixteenth calibrates, the others retrain the next lane group of the 16 that carry traffic and
the spare; the spare group is switched in for a failed one. -/
def stackSlot (s : State) (n : Nat) (y : Stack) : Stack :=
  let x := { y with laneSpare := laneSwitch s n y }
  if x.slots % 16 = 15 then { x with slots := x.slots + 1 }
  else { x with slots := x.slots + 1, laneNext := (x.laneNext + 1) % 17, laneGroups := x.laneGroups + 1 }

/-- A slot of a stack recalibration that runs one lane group per slot; the last one completes the request. -/
def recalSlot (s : State) : State :=
  forAll s s.parts (fun s e =>
    if e.2.maintLeft = 0 then s
    else
      let s := updPart s e.1 (fun p => { p with maintLeft := p.maintLeft - 1 })
      if e.2.maintLeft = 1 then maintDone s e.1 3 else s)

/-- MAINTENANCE_SLOT: at the end of a base interval with index mod 16 = 15 (R39). -/
def maintenanceSlot (s : State) : State :=
  if s.time.bint % 16 = 15 then
    recalSlot (forAll s (List.range (stackCount s)) (fun s n => if fencedAt s (.stack n) s.time.frame then s else updStack s n (stackSlot s n)))
  else s

def execMaintenanceSlot (s : State) : Host.Outcome State Fault Refusal := .next (maintenanceSlot s)

/-- At a base interval start, merged windows that have passed are gone, and a request whose last one has completes. -/
def recalFrame (s : State) : State :=
  let b := s.time.bint
  let ended := s.dramStacks.flatMap (fun e => (e.2.recal.filter (fun r => decide (r.1 < b))).map (fun r => r.2))
  let s := { s with dramStacks := s.dramStacks.map (fun e => (e.1, { e.2 with recal := e.2.recal.filter (fun r => decide (b ≤ r.1)) })) }
  forAll s ended.eraseDups (fun s k =>
    if s.dramStacks.any (fun e => e.2.recal.any (fun r => r.2 == k)) then s else maintDone s k 3)

/-! ## Meter snapshots (R544) -/

/-- METER_SNAP: bit 0 asks for a copy of the meters at the next frame start. -/
def meterSnap (k value : Nat) (s : State) : State :=
  if 128 ≤ k then s
  else if (partAt s k).state = 0 then noteIgnored s (partAddr k 0x50)
  else if bit value 0 then updPart s k (fun p => { p with snapWanted := true })
  else s

def execMeterSnap (part value : Nat) (s : State) : Host.Outcome State Fault Refusal := .next (meterSnap part value s)

/-- Copies asked for are taken, after the meters have advanced at the frame start. -/
def snapFrame (s : State) : State :=
  { s with parts := s.parts.map (fun e =>
      if e.2.snapWanted then
        (e.1, { e.2 with snapWanted := false, shot := (List.range 16).map (fun i => e.2.meters.getD i 0), shotFrame := s.time.frame % 2 ^ 32 })
      else e) }

/-! ## The registers of a partition (Tables 2-12, 8-8, 10-6, 10-16, 12-1, 12-6, 13-3) -/

/-- `PART[k].ADMIT` (Table 2-12, R55). -/
def writeAdmit (s : State) (k v : Nat) : State :=
  updPart s k (fun p => { p with deferNote := bit v 16, share := bits v 15 8, deferMax := bits v 7 0 })

/-- `PART[k].QUEUE_CTL` (Table 10-6, R375). -/
def writeQueueCtl (s : State) (k v : Nat) : State :=
  let d := bits v 26 16
  updPart s k (fun p => { p with depth := if d = 0 ∨ 1024 < d then 1024 else d, queueEn := bits v 15 0 })

/-- Blocks of a hub's partition area (R508). -/
def quotaBlocks : Nat := 40960

/-- `PART[k].T0_QUOTA` (Table 13-3, R508): each field on its own; one that would overcommit its hub keeps its value. -/
def writeQuota (s : State) (k v : Nat) : State :=
  let q0 := bits v 15 0
  let q1 := bits v 47 32
  let other := fun (f : Part0 → Nat) => ((s.parts.filter (fun e => e.1 != k)).map (fun e => f e.2)).sum
  let ok0 := decide (other (fun p => p.quota0) + q0 ≤ quotaBlocks)
  let ok1 := hub1Present s && decide (other (fun p => p.quota1) + q1 ≤ quotaBlocks)
  let s := updPart s k (fun p =>
    { p with quota0 := if ok0 then q0 else p.quota0, quota1 := if ok1 then q1 else p.quota1 })
  if ok0 && ok1 then s else noteIgnored s (partAddr k 0x18)

/-- `PART[k].CHAIN_CTL` (Table 10-16, R396). -/
def writeChainCtl (s : State) (k v : Nat) : State :=
  let ev := bits v 48 32
  let en := bits v 18 0
  let other := fun (f : Part0 → Nat) => ((s.parts.filter (fun e => e.1 != k)).map (fun e => f e.2)).sum
  let p := partAt s k
  if ev < p.evUsed ∨ en < p.entUsed ∨ 65536 < other (fun p => p.evMax) + ev ∨ 262144 < other (fun p => p.entMax) + en then
    noteIgnored s (partAddr k 0x20)
  else updPart s k (fun p => { p with evMax := ev, entMax := en })

/-- `PART[k].CORE_CTL` (Table 8-8, R284). -/
def writeCoreCtl (s : State) (k v : Nat) : State :=
  if (partAt s k).state = 3 then updPart s k (fun p => { p with solstice := bit v 0 }) else noteIgnored s (partAddr k 0x30)

/-- R480: a class below 3 is stored as 3, one above 7 as 7. -/
def clampClass (x : Nat) : Nat := max 3 (min 7 x)

/-- `PART[k].EG_MAP` (Table 12-1). -/
def writeEgMap (s : State) (k v : Nat) : State :=
  updPart s k (fun p =>
    { p with egBody := clampClass (bits v 11 8), egFwd := clampClass (bits v 7 4), egStat := clampClass (bits v 3 0) })

/-- `PART[k].EGRESS` (Table 12-6): stored now, in force at the next frame start (R499). -/
def writeEgress (s : State) (k v : Nat) : State :=
  updPart s k (fun p =>
    { p with egWeight := max 1 (bits v 39 32), egChg := bit v 31, egBurst := max 1 (bits v 23 16), egRate := bits v 10 0 })

/-- Does an offset of the block hold a register, and is it one that software writes? -/
def partRegKind (off : Nat) : Option Bool :=
  if off % 8 ≠ 0 then none
  else if [0x08, 0x10, 0x18, 0x20, 0x30, 0x38, 0x40, 0x48, 0x50].contains off then some true
  else if off = 0 ∨ off = 0x28 ∨ off = 0x58 ∨ (0x100 ≤ off ∧ off < 0x300) ∨ (0x300 ≤ off ∧ off < 0x400) then some false
  else none

/-- A write of a register of partition k, which is not free, by its own rule. -/
def writePartReg (s : State) (k off v : Nat) : State :=
  if off = 0x08 then writeAdmit s k v
  else if off = 0x10 then writeQueueCtl s k v
  else if off = 0x18 then writeQuota s k v
  else if off = 0x20 then writeChainCtl s k v
  else if off = 0x30 then writeCoreCtl s k v
  else if off = 0x38 then writeEgMap s k v
  else if off = 0x40 then writeEgress s k v
  else if off = 0x48 then writeMaintReq s k v
  else if off = 0x50 then meterSnap k v s
  else s

end Sys2Proof.Machine
end

