-- ==== Sys2Proof/Machine/PartReset.lean ====
section
/-!
DEFINITION. Resetting a partition and zeroing what it held (R522–R526, R357, R358, R552), and the rows PARTITION_FAULT and
ZEROING_COMPLETE.
-/

namespace Sys2Proof.Machine

/-! ## What a partition has -/

/-- Handles of a partition's streams, those that are to be made included. -/
def partHandles (s : State) (k : Nat) : List Nat :=
  ((allStreams s).filter (fun e => e.2.part == k)).map (fun e => e.1) ++
    s.adm.effs.filterMap (fun e => match e.eff with
      | .create h x => if x.part = k then some h else none
      | _ => none)

/-- Acceptance numbers of a partition's commands; those of `PART_CTL` stand outside it (R511). -/
def partCmds (s : State) (k : Nat) : List Nat :=
  (s.adm.cmds.filter (fun e => decide (0 < e.2.acc) && e.2.hdr.opcode != opPART && e.2.hdr.part == k)).map (fun e => e.1)

/-- Does a pending change belong to partition k, whose streams have the handles hs? -/
def effOfPart (k : Nat) (hs : List Nat) (tags : List Nat) (e : Eff) : Bool :=
  match e with
  | .addLength h _ => hs.contains h
  | .create h _ => hs.contains h
  | .close h => hs.contains h
  | .dropTo h _ _ => hs.contains h
  | .stateStep h _ _ => hs.contains h
  | .stateSet h _ _ => hs.contains h
  | .sealedForm h _ _ _ _ _ => hs.contains h
  | .openInSlice h _ _ => hs.contains h
  | .parked h _ => hs.contains h
  | .restored h _ _ _ _ => hs.contains h
  | .migCopied h _ => hs.contains h
  | .setProg j _ _ => j == k
  | .indexOff _ t => tags.contains t
  | .indexFull _ t => tags.contains t
  | .partState j _ => j == k
  | .resetPart j _ => j == k
  | .mapAdopt => false

/-! ## Abandoning its work (R522) -/

/-- Chunk-times and sequences that the partition's commands, jobs and copies have reserved from frame r on are given back. -/
def returnPlans (s : State) (cids owners : List Nat) (r : Nat) : State :=
  let s := forAll s cids (fun s cid =>
    match (cmdAt s cid).bind (fun c => c.plan) with
    | none => s
    | some p => forAll s p.chunks (fun s e => forAll s e.2 (fun s f =>
        if f.1 < r then s
        else updRes s f.1 (fun x => { x with chunks := mupd x.chunks e.1 0 (fun n => n - f.2) }))))
  { s with slices := s.slices.map (fun e =>
      (e.1, { e.2 with seqs := e.2.seqs.filter (fun q => !owners.contains q.owner) })) }

/-- Work in progress and queued writes of the partition leave its slices. -/
def clearSliceWork (n k : Nat) (cids : List Nat) (x : Slice) : Slice :=
  pruneStaging n { x with
    work := mfilter x.work (fun c _ => !cids.contains c)
    states := mfilter x.states (fun c _ => !cids.contains c)
    ordq := x.ordq.filter (fun w => w.part != k && !cids.contains w.cid)
    reads := x.reads.filter (fun q => !cids.contains q.1) }

/-- The number under which chunks of partition k wait for their zeros. -/
def zeroHold (k : Nat) : Nat := 2 ^ 48 + k

/-- The partition's tables leave a slice; its chunks stay taken until they are zeroed (R525). -/
def wipeTables (i key k : Nat) (hs : List Nat) (more : List (Nat × Nat)) (x : Slice) : Slice :=
  let mine := (x.dir.filter (fun d => hs.contains d.2.stream)).flatMap (fun d => entsIn x d.2.stream)
  let sums := (x.sums.filter (fun e => e.2.part == k)).map (fun e => (e.1, 1))
  let runs := (mine.filter (fun e => e.2.form != 3)).map (fun e => (e.2.chunk, e.2.nchunk + 1)) ++ sums ++ more
  let y := { x with
    ents := mfilter x.ents (fun i _ => !mine.any (fun e => e.1 == i))
    dir := mfilter x.dir (fun _ d => !hs.contains d.stream)
    sums := mfilter x.sums (fun _ e => e.part != k) }
  let y := metaSync i key x y
  let held := y.held.map (fun h => if h.part = k then { h with job := none } else h)
  if runs.isEmpty then { y with held := held } else { y with held := held ++ [⟨zeroHold k, k, runs, [], [], none⟩] }

/-- Runs of chunks that pending changes have reserved and no entry shows yet. -/
def pendingRuns (s : State) (hs : List Nat) : List (Nat × (Nat × Nat)) :=
  s.adm.effs.filterMap (fun e => match e.eff with
    | .restored h p _ c n => if hs.contains h then some (homeSlice s h p, (c, n)) else none
    | .dropTo h _ (some re) => if hs.contains h then some (re.slice, (re.ent.chunk, re.ent.nchunk + 1)) else none
    | _ => none)

/-- The partition's parked images, and the NAND work for them, are void (R357). -/
def wipeFtl (k : Nat) (hs cids : List Nat) (y : Ftl) : Ftl :=
  let staged := (y.images.filter (fun e => e.2.part == k && e.2.staged)).map (fun e => parkBytes e.2)
  { y with
    images := mfilter y.images (fun _ m => m.part != k)
    reads := y.reads.filter (fun q => !cids.contains q.1)
    programs := y.programs.filter (fun q => !hs.contains q.1)
    parkStage := y.parkStage - staged.sum
    restStage := mfilter y.restStage (fun _ m => m.part != k) }

/-- The partition's streams and pages leave a hub's tables. -/
def wipeHub (k : Nat) (hs : List Nat) (hub : Nat) (y : Hub) : Hub :=
  let mine := fun i => hs.contains (handleOf hub i)
  { y with
    streams := mfilter y.streams (fun _ x => x.part != k)
    migs := mfilter y.migs (fun i _ => !mine i)
    t0 := mfilter y.t0 (fun t _ => !hs.contains (t / 2 ^ 18))
    heldT0 := y.heldT0.filter (fun e => e.2.1 != k)
    lostPages := mfilter y.lostPages (fun t _ => !hs.contains (t / 2 ^ 18)) }

/-- What the partition's searches found is void; its entries go by removals, in update slots (R214). -/
def wipeOboe (cids : List Nat) (o : Oboe) : Oboe :=
  { o with
    results := mfilter o.results (fun c _ => !cids.contains c)
    bounds := mfilter o.bounds (fun c _ => !cids.contains c) }

/-- Every index record of the partition on a hub is retired: its entries, and with them its tag and reservation, go by
removals (R214, R235). -/
def retireIndexes (s : State) (k hub : Nat) : State :=
  forAll s (hubAt s hub).index (fun s e => if e.2.part = k then retireIndex s hub e.1 else s)

/-- Streams of the partition with a parked page enter the lost-identity table (R358). -/
def loseParked (s : State) (k : Nat) (hs : List Nat) : State :=
  forAll s hs (fun s h =>
    match streamAt s h with
    | none => s
    | some x =>
      let parked := (ftlAt s (hubOfHandle h)).images.any (fun e => e.1 / 2 ^ 18 == h && e.2.part == k) ||
        s.slices.any (fun e => (entsIn e.2 h).any (fun p => p.2.form == 3))
      if parked then loseIdent s (hubOfHandle h) x else s)

/-- Chunks of partition k that wait for zeros on a slice. -/
def zeroOwed (x : Slice) (k : Nat) : Nat :=
  ((x.held.filter (fun h => h.free == zeroHold k)).flatMap (fun h => h.extents.map (fun e => e.2))).sum

/-- A zeroing job for each slice that holds something, fenced slices left out (R594). -/
def addZeroing (s : State) (k : Nat) : State :=
  forAll s (partList s k) (fun s i =>
    let n := zeroOwed (sliceAt s i) k
    if n = 0 || sliceFenced s i s.time.frame then s
    else addJob s { kind := .zero, handle := k, page := 0, slice := i, cid := 0, target := s.time.frame, granted := none,
                    coded := [], summary := [], k := n, source := 0 })

/-- Draw a session key for a partition, or leave it to wait for the DRBG (R522, R552). -/
def drawKey (s : State) (k : Nat) : State :=
  if s.crypto.drbgOk then
    let s := { s with crypto := { s.crypto with draws := s.crypto.draws + 1 } }
    updPart s k (fun p => { p with key := s.crypto.draws, waitDraw := false })
  else updPart s k (fun p => { p with key := 0, waitDraw := true })

/-- Blocks a connection's incomplete messages hold of a partition's quota on a hub (R438). -/
def reassembly (k hub : Nat) (c : Conn) : Nat :=
  ((c.inMsgs.filter (fun m => m.2.hdr.part == k && m.2.hub == hub)).map (fun m => m.2.blocks)).sum

/-- T0 blocks still held: those of the headers and payloads of commands whose record has not left, of incomplete messages, and
of index records whose entries are still to be removed (R209, R214). -/
def recountT0 (s : State) (k : Nat) : State :=
  let held := fun (hub : Nat) => ((s.adm.cmds.filter (fun e =>
    e.2.hdr.opcode != opPART && e.2.hdr.part == k && e.2.hub == hub)).map (fun e => e.2.blocks)).sum +
    (s.conns.map (fun e => reassembly k hub e.2)).sum + ((hubAt s hub).oldIndex.filter (fun r => r.part == k)).length
  updPart s k (fun p => { p with used0 := held 0, used1 := held 1 })

/-- R523's outcome of a command when its partition is reset. -/
def resetOutcome (s : State) (c : Cmd) : Outcome0 :=
  ⟨if c.hdr.opcode = opACCEPT ∨ c.hdr.opcode = opRESTORE then stCTXLOST else stFENCED, 4, s.time.frame, 0, 0, [], false⟩

/-- The reset's clearing of every table but the slices' chunks: streams, contexts, work, programs, chains (R522–R524). -/
def clearPart (s : State) (k : Nat) : State :=
  let r := s.time.frame
  let hs := partHandles s k
  let cids := partCmds s k
  let jobs := (s.adm.jobs.filter (fun e => e.2.kind != .zero && e.2.kind != .rowTest &&
    (hs.contains e.2.handle || cids.contains e.2.cid || e.2.left.any (fun l => l.2.part == k)))).map (fun e => e.1)
  let owners := cids ++ jobs.map jobOwner ++ hs.flatMap (fun h => (migOf s h).elim [] (fun m => m.copies.map (fun c => migOwner h c.1)))
  let tags := (s.hub0.index ++ s.hub1.index).filterMap (fun e => if e.2.part = k then some e.2.tag else none)
  let more := pendingRuns s hs
  let s := loseParked s k hs
  let s := returnPlans s cids owners r
  let s := { s with adm := { s.adm with
    effs := s.adm.effs.filter (fun e => !effOfPart k hs tags e.eff)
    jobs := mfilter s.adm.jobs (fun n _ => !jobs.contains n) } }
  let wipe := fun (e : Nat × Slice) =>
    (e.1, wipeTables e.1 s.crypto.ksys k hs ((more.filter (fun m => m.1 == e.1)).map (fun m => m.2)) (clearSliceWork s.time.frame k cids e.2))
  let s := { s with slices := s.slices.map wipe }
  let left := s.ras.replays.map (fun y => { y with cids := y.cids.filter (fun c => !cids.contains c) })
  let s := { s with
    ras := { s.ras with replays := left.filter (fun y => !y.cids.isEmpty) }
    oboe := wipeOboe cids s.oboe
    ftl0 := wipeFtl k hs cids s.ftl0
    ftl1 := wipeFtl k hs cids s.ftl1 }
  let s := retireIndexes (retireIndexes s k 0) k 1
  let s := { s with hub0 := wipeHub k hs 0 s.hub0, hub1 := wipeHub k hs 1 s.hub1 }
  let s := forAll s cids (fun s cid =>
    match cmdAt s cid with
    | none => s
    | some c => finishWith s cid (resetOutcome s c) 0 false)
  let s := forAll s s.hub0.ctxs (fun s e => if e.2.part = k then releaseCtx s 0 e.1 (some 4) else s)
  let s := forAll s s.hub1.ctxs (fun s e => if e.2.part = k then releaseCtx s 1 e.1 (some 4) else s)
  let progs := ((partAt s k).progs.map (fun g => b2n g.2.cur.isSome + b2n g.2.retiring.isSome)).sum
  let s := updPart (useProg s k (fun n => n - progs)) k (fun p => { p with progs := [] })
  let s := forAll s s.chains.ents (fun s e => if e.2.part = k then freeChain s e.1 else s)
  let s := forAll s s.chains.events (fun s e =>
    if e.2.part = k && e.2.live then freeEvent s (packFields [(25, 7, k), (16, 9, e.2.gen), (0, 16, e.1)]) else s)
  let s := updChains s (fun c => { c with fwd := c.fwd.map (fun f => if f.part = k then { f with part := 128, event := 0 } else f) })
  recountT0 s k

/-- A quiesce that still waits ends with the reset (R511). -/
def endQuiesce (s : State) (k : Nat) : State :=
  match (partAt s k).quiesce with
  | none => s
  | some (cid, _) =>
    finishWith (updPart s k (fun p => { p with quiesce := none })) cid ⟨stFENCED, 4, s.time.frame, 0, 0, [], false⟩ 0 false

/-- A reset of partition k at the start of the current frame (R522); cause 0 management, 1 a fault, 2 a destroy. -/
def resetPart (s : State) (k cause : Nat) : State :=
  if (partAt s k).state = 0 then s
  else
    let s := endQuiesce (clearPart s k) k
    let s := updPart s k (fun p =>
      { p with
        state := if cause = 2 ∨ p.destroying then 5 else 4
        destroying := p.destroying || cause == 2
        resets := satTo 65535 (p.resets + 1) })
    let s := raise (drawKey s k) 0x0901 (some k) k (if cause = 1 then 1 else 0)
    addZeroing s k

/-! ## Zeroing (R525, R526) -/

/-- Every zeroing job of the partition has had its chunk-times. -/
def zeroed (s : State) (k : Nat) : Bool :=
  s.adm.jobs.all (fun e => e.2.kind != .zero || e.2.handle != k ||
    (match e.2.granted with
     | some f => decide (f ≤ s.time.frame)
     | none => false))

/-- The zeroed chunks hold no object and are free from the next frame start. -/
def freeZeroed (s : State) (k : Nat) : State :=
  let done := fun (x : Slice) =>
    let runs := (x.held.filter (fun h => h.free == zeroHold k)).flatMap (fun h => h.extents)
    if runs.isEmpty then x
    else { x with
      sectors := mfilter x.sectors (fun a _ => !runs.any (fun r => decide (8 * r.1 ≤ a) && decide (a < 8 * (r.1 + r.2))))
      held := x.held.map (fun h => if h.free = zeroHold k then { h with free := s.time.frame + 1 } else h) }
  { s with
    slices := s.slices.map (fun e => (e.1, done e.2))
    adm := { s.adm with jobs := mfilter s.adm.jobs (fun _ (j : Job) => !(j.kind == .zero && j.handle == k)) } }

/-- Release a partition's slice set, quotas and grants (R526): it is free; its meters and its count of resets stay. A
member of a group with other members leaves its calendar at the switch frame its destroy named. -/
def freePart (s : State) (k : Nat) : State :=
  let p := partAt s k
  let s := { s with conns := s.conns.map (fun e => (e.1, { e.2 with grants := mdel e.2.grants k })) }
  let s :=
    if !p.tsgEn then s
    else
      let g := groupAt s p.tsg
      match g.pending with
      | some (f, j, _, _) =>
        if j = k then { s with maps := { s.maps with groups := mset s.maps.groups p.tsg { g with ghosts := g.ghosts ++ [(k, p.tsWeight, f)] } } }
        else s
      | none => s
  updPart s k (fun p => { Part0.reset with meters := p.meters, resets := p.resets })

/-- Complete the destroys that wait for the partition's zeroing. -/
def endDestroys (s : State) (k : Nat) : State :=
  forAll s s.adm.cmds (fun s e =>
    if e.2.hdr.opcode = opPART && e.2.hdr.part = k && e.2.hdr.pcOp = 0x02 && e.2.st = .waiting && e.2.result.isNone then
      finish s e.1 stOK 0 s.time.frame 0 0
    else s)

/-- ZEROING_COMPLETE: the partition returns to active, or to free after a destroy (R525). -/
def zeroingComplete (k : Nat) (s : State) : State :=
  let p := partAt s k
  if !(p.state == 4 || p.state == 5) || p.waitDraw || !zeroed s k then s
  else
    let s := freeZeroed s k
    if p.destroying then endDestroys (freePart (raise s 0x0902 (some k) k 0) k) k
    else raise (updPart s k (fun p => { p with state := 1, actFrom := s.time.frame + 1 })) 0x0902 (some k) k 0

def execZeroingComplete (part : Nat) (s : State) : Host.Outcome State Fault Refusal := .next (zeroingComplete part s)

/-- PARTITION_FAULT (R522): the reset acts at the frame after the fault's detection. -/
def partitionFault (k : Nat) (s : State) : State :=
  if [1, 2, 3].contains (partStateLast s k) then addEff s (s.time.frame + 1) 0 (.resetPart k 1) else s

def execPartitionFault (part : Nat) (s : State) : Host.Outcome State Fault Refusal := .next (partitionFault part s)

end Sys2Proof.Machine
end

