-- ==== Sys2Proof/Machine/CmdPart.lean ====
section
/-!
DEFINITION. PART_CTL on partitions (R507–R521, R526, R527, Tables 13-5 to 13-7), QUIESCE_COMPLETE and TIME_SLICE_SWITCH.
-/

namespace Sys2Proof.Machine

/-! ## Conditions (Table 13-7) -/

/-- The granted `PART_CTL` of an operation, with the frame it acts in. -/
def pcTake (s : State) (cid op : Nat) : Option (Cmd × Nat) :=
  match actable s cid opPART with
  | none => none
  | some c => if c.hdr.pcOp = op then some (c, c.planD.start) else none

/-- A `PART_CTL` whose conditions fail (R512). -/
def pcFail (s : State) (cid n sub : Nat) : State := finish (acted s cid) cid stMALFORMED (stepDetail 10 sub) n 0 0

/-- The range words of a payload as (first slice, slices); none when an RSVD bit is set. -/
def rangeWords (a : Nat) (payload : Bytes) : Option (List (Nat × Nat)) :=
  let ws := (List.range a).map (fun i => leAt payload (4 * i) 4)
  if ws.any (fun w => bits w 31 30 != 0) then none else some (ws.map (fun w => (bits w 14 0, bits w 29 15 + 1)))

/-- Ranges are present, in ascending order and disjoint (R507). -/
def rangesOk (s : State) (from' : Nat) (rs : List (Nat × Nat)) : Bool :=
  match rs with
  | [] => true
  | r :: rest => decide (from' ≤ r.1) && decide (r.1 + r.2 ≤ sliceCount s) && rangesOk s (r.1 + r.2) rest

/-- Two sets of ranges share a slice. -/
def rangesMeet (a b : List (Nat × Nat)) : Bool :=
  a.any (fun x => b.any (fun y => decide (x.1 < y.1 + y.2) && decide (y.1 < x.1 + x.2)))

/-- Members of a group other than k, those whose frames stay empty until a switch included. -/
def otherMembers (s : State) (k g : Nat) : Bool :=
  s.parts.any (fun e => e.1 != k && e.2.state != 0 && e.2.tsgEn && e.2.tsg == g) ||
    (groupAt s g).ghosts.any (fun e => e.1 != k)

/-- Sub-code of a slice set for partition k of group g (none: no group): 0x02, 0x03, or 0. -/
def setFault (s : State) (k : Nat) (g : Option Nat) (rs : List (Nat × Nat)) : Nat :=
  if !rangesOk s 0 rs then 2
  else if s.parts.any (fun e => e.1 != k && e.2.state != 0 &&
      (if e.2.tsgEn && g == some e.2.tsg then e.2.ranges != rs else rangesMeet e.2.ranges rs)) then 3
  else 0

/-- The switch frame a `PART_CTL` names, when it may be used (sub-code 0x05). -/
def switchFrame (s : State) (g n b : Nat) : Option Nat :=
  match targetFrame s.time.frame (b % 2 ^ 32) with
  | none => none
  | some f =>
    if (groupAt s g).pending.isSome || decide (f < (n + 1024 : Nat)) || decide (((n + 65536 : Nat) : Int) < f) then none
    else some f.toNat

/-- Does partition k hold a stream entry? -/
def holdsStream (s : State) (k : Nat) : Bool := !(partHandles s k).isEmpty

def updGroup (s : State) (g : Nat) (f : TsGroup → TsGroup) : State :=
  { s with maps := { s.maps with groups := mupd s.maps.groups g ⟨0, none, []⟩ f } }

/-! ## Create, destroy, reset -/

/-- The partition a create makes (R512): registers at reset but for the meters, active from the next frame. -/
def createPart (s : State) (k n : Nat) (h : Hdr) (rs : List (Nat × Nat)) : State :=
  let old := partAt s k
  let p : Part0 := { Part0.reset with
    state := 1, actFrom := n + 1, tsWeight := h.pcWeight, tsgEn := h.pcTsgEn, tsg := h.pcTsg, ranges := rs,
    meters := old.meters, resets := old.resets, idxMax := old.idxMax }
  drawKey { s with parts := mset s.parts k p } k

/-- PART_CTL create (R507, R512, R516, R520). A seventeenth member has no sub-code of its own: the value is free. -/
def partCtlCreate (cid : Nat) (s : State) : State :=
  match pcTake s cid 0x01 with
  | none => s
  | some (c, n) =>
    let h := c.hdr
    let k := h.part
    let g := h.pcTsg
    let others := h.pcTsgEn && otherMembers s k g
    if partStateLast s k != 0 then pcFail s cid n 1
    else match rangeWords h.pcA c.payload with
      | none => pcFail s cid n 2
      | some rs =>
        let f := setFault s k (if h.pcTsgEn then some g else none) rs
        if f != 0 then pcFail s cid n f
        else if others && decide (16 ≤ (groupMembers s g (2 ^ 60)).length) then
          pcFail (bumpFree s) cid n ((Config.freeValue (freshNo s)).toNat % 256)
        else
          let done := fun (s : State) => finish (createPart (acted s cid) k n h rs) cid stOK 0 n 0 0
          if others then
            match switchFrame s g n h.p1 with
            | none => pcFail s cid n 5
            | some fr => done (updGroup s g (fun x => { x with pending := some (fr, k, h.pcWeight, 2) }))
          else if h.pcTsgEn then done (updGroup s g (fun _ => ⟨n, none, []⟩))
          else done s

def execPartCtlCreate (cid : Nat) (s : State) : Host.Outcome State Fault Refusal := .next (partCtlCreate cid s)

/-- PART_CTL destroy (R526): a reset, after whose zeroing the partition is free; its group's calendar changes at the switch
frame it names. -/
def partCtlDestroy (cid : Nat) (s : State) : State :=
  match pcTake s cid 0x02 with
  | none => s
  | some (c, n) =>
    let k := c.hdr.part
    let p := partAt s k
    let st := partStateLast s k
    let wait := fun (s : State) =>
      let s := updCmd s cid (fun c => { c with st := .waiting })
      if st = 5 then s else addEff s n cid (.resetPart k 2)
    if st = 0 then pcFail s cid n 1
    else if st != 5 && p.tsgEn && otherMembers s k p.tsg then
      match switchFrame s p.tsg n c.hdr.p1 with
      | none => pcFail s cid n 5
      | some f => wait (updGroup s p.tsg (fun x => { x with pending := some (f, k, p.tsWeight, 0) }))
    else wait s

def execPartCtlDestroy (cid : Nat) (s : State) : Host.Outcome State Fault Refusal := .next (partCtlDestroy cid s)

/-- PART_CTL reset (R522). -/
def partCtlReset (cid : Nat) (s : State) : State :=
  match pcTake s cid 0x05 with
  | none => s
  | some (c, n) =>
    let k := c.hdr.part
    if !([1, 2, 3].contains (partStateLast s k)) then pcFail s cid n 1
    else finish (addEff (acted s cid) n cid (.resetPart k 0)) cid stOK 0 n 0 0

def execPartCtlReset (cid : Nat) (s : State) : Host.Outcome State Fault Refusal := .next (partCtlReset cid s)

/-! ## Quiesce and restart (R513) -/

/-- An admitted command that has not sent its final record; waiters and fences keep waiting (R411, R513). -/
def admittedNow (k : Nat) (c : Cmd) : Bool :=
  decide (0 < c.acc) && c.hdr.opcode != opPART && c.hdr.part == k &&
    (c.plan.isSome || ((c.hdr.opcode == opPOST || c.hdr.opcode == opARM || c.hdr.opcode == opFENCE) &&
      c.st != .queued && c.st != .waiting))

/-- PART_CTL quiesce (R513). -/
def partCtlQuiesce (cid : Nat) (s : State) : State :=
  match pcTake s cid 0x03 with
  | none => s
  | some (c, n) =>
    let k := c.hdr.part
    if partStateLast s k != 1 then pcFail s cid n 1
    else
      let count := (s.adm.cmds.filter (fun e => admittedNow k e.2)).length
      let s := updPart (addEff s n cid (.partState k 2)) k (fun p => { p with quiesce := some (cid, count) })
      updCmd s cid (fun c => { c with st := .waiting })

def execPartCtlQuiesce (cid : Nat) (s : State) : Host.Outcome State Fault Refusal := .next (partCtlQuiesce cid s)

/-- R513's conditions: no admitted command, no seal or write-back job, no dirty page, no copy in flight. -/
def quiesceMet (s : State) (k : Nat) : Bool :=
  let hs := partHandles s k
  s.adm.cmds.all (fun e => !admittedNow k e.2) &&
  s.adm.jobs.all (fun e => !((hs.contains e.2.handle || e.2.left.any (fun l => l.2.part == k)) && [JobKind.code, .upload, .seal, .writePart].contains e.2.kind)) &&
  (s.hub0.t0 ++ s.hub1.t0).all (fun t => !(t.2.dirty && hs.contains (t.1 / 2 ^ 18))) &&
  hs.all (fun h => match migOf s h with
    | some m => m.copies.all (fun c => c.2)
    | none => true)

/-- QUIESCE_COMPLETE: at the end of the first frame in which the conditions hold. -/
def quiesceComplete (k : Nat) (s : State) : State :=
  let p := partAt s k
  match p.quiesce with
  | none => s
  | some (cid, count) =>
    if p.state != 2 || !quiesceMet s k then s
    else finish (updPart s k (fun p => { p with state := 3, quiesce := none })) cid stOK 0 s.time.frame count 0

def execQuiesceComplete (part : Nat) (s : State) : Host.Outcome State Fault Refusal := .next (quiesceComplete part s)

/-- PART_CTL restart: active from the next frame. -/
def partCtlRestart (cid : Nat) (s : State) : State :=
  match pcTake s cid 0x04 with
  | none => s
  | some (c, n) =>
    let k := c.hdr.part
    if partStateLast s k != 3 then pcFail s cid n 1
    else finish (updPart (acted s cid) k (fun p => { p with state := 1, actFrom := n + 1 })) cid stOK 0 n 0 0

def execPartCtlRestart (cid : Nat) (s : State) : Host.Outcome State Fault Refusal := .next (partCtlRestart cid s)

/-! ## Resize, grant, weight, registers -/

/-- PART_CTL resize (R515): a new slice set, the rotor at 0. The program images move with it (R302). -/
def partCtlResize (cid : Nat) (s : State) : State :=
  match pcTake s cid 0x06 with
  | none => s
  | some (c, n) =>
    let k := c.hdr.part
    let p := partAt s k
    if partStateLast s k != 3 then pcFail s cid n 1
    else match rangeWords c.hdr.pcA c.payload with
      | none => pcFail s cid n 2
      | some rs =>
        let f := setFault s k none rs
        if f != 0 then pcFail s cid n f
        else if holdsStream s k || (p.tsgEn && otherMembers s k p.tsg) then pcFail s cid n 4
        else
          let images := (p.progs.map (fun g => b2n g.2.cur.isSome + b2n g.2.retiring.isSome)).sum
          let s := useProg (acted s cid) k (fun m => m - images)
          let s := updPart s k (fun p => { p with ranges := rs, rotor := 0 })
          finish (useProg s k (fun m => m + images)) cid stOK 0 n 0 0

def execPartCtlResize (cid : Nat) (s : State) : Host.Outcome State Fault Refusal := .next (partCtlResize cid s)

/-- PART_CTL grant (R527): rights of 0 revoke. -/
def partCtlGrant (cid : Nat) (s : State) : State :=
  match pcTake s cid 0x07 with
  | none => s
  | some (c, n) =>
    let k := c.hdr.part
    let conn := c.hdr.pcA
    if !([1, 2, 3].contains (partStateLast s k)) then pcFail s cid n 1
    else match mget s.conns conn with
      | none => pcFail s cid n 9
      | some x =>
        if !x.opened || x.mgmt then pcFail s cid n 9
        else
          let r := bits c.hdr.p1 3 0
          let s := updConn (acted s cid) conn (fun x =>
            { x with grants := if r = 0 then mdel x.grants k else mset x.grants k r })
          finish s cid stOK 0 n 0 0

def execPartCtlGrant (cid : Nat) (s : State) : Host.Outcome State Fault Refusal := .next (partCtlGrant cid s)

/-- PART_CTL set weight (R520): at the switch frame in a group with other members, else at once. -/
def partCtlSetWeight (cid : Nat) (s : State) : State :=
  match pcTake s cid 0x08 with
  | none => s
  | some (c, n) =>
    let k := c.hdr.part
    let p := partAt s k
    let w := c.hdr.pcWeight
    if !([1, 2, 3].contains (partStateLast s k)) then pcFail s cid n 1
    else if p.tsgEn && otherMembers s k p.tsg then
      match switchFrame s p.tsg n c.hdr.p1 with
      | none => pcFail s cid n 5
      | some f => finish (updGroup (acted s cid) p.tsg (fun x => { x with pending := some (f, k, w, 1) })) cid stOK 0 n 0 0
    else finish (updPart (acted s cid) k (fun p => { p with tsWeight := w })) cid stOK 0 n 0 0

def execPartCtlSetWeight (cid : Nat) (s : State) : Host.Outcome State Fault Refusal := .next (partCtlSetWeight cid s)

/-- PART_CTL register write (R511): as a write through the service endpoint. -/
def partCtlRegisterWrite (cid : Nat) (s : State) : State :=
  match pcTake s cid 0x09 with
  | none => s
  | some (c, n) =>
    let k := c.hdr.part
    if partStateLast s k = 0 then pcFail s cid n 1
    else if partRegKind c.hdr.pcA != some true then pcFail s cid n 0x0A
    else finish (writePartReg (acted s cid) k c.hdr.pcA c.hdr.p1) cid stOK 0 n 0 0

def execPartCtlRegisterWrite (cid : Nat) (s : State) : Host.Outcome State Fault Refusal := .next (partCtlRegisterWrite cid s)

/-! ## The switch frame (R517, R520) -/

/-- TIME_SLICE_SWITCH: from its switch frame a group's pending change is its calendar. -/
def timeSliceSwitch (g : Nat) (s : State) : State :=
  match (groupAt s g).pending with
  | none => s
  | some (f, k, w, kind) =>
    if s.time.frame < f then s
    else
      let s := updGroup s g (fun x =>
        { origin := f, pending := none, ghosts := x.ghosts.filter (fun e => !(kind == 0 && e.1 == k)) })
      if kind = 0 then updPart s k (fun p => if p.tsgEn && p.tsg == g && p.destroying then { p with tsgEn := false } else p)
      else updPart s k (fun p => if p.tsgEn && p.tsg == g then { p with tsWeight := w } else p)

def execTimeSliceSwitch (group : Nat) (s : State) : Host.Outcome State Fault Refusal := .next (timeSliceSwitch group s)

end Sys2Proof.Machine
end

