-- ==== Sys2Proof/Machine/Wire.lean ====
section
/-!
DEFINITION. Packets on the wire: the path of a packet (R455, R460), its fields (R413, R418, R420), its charged length
(R482) and the port counters, the control packets the node sends, and the checks every arriving packet passes
(R414, R419–R424, R466, R504).
-/

namespace Sys2Proof.Machine

/-! ## Port counters (Tables 18-3, 18-7) -/

/-- Address of a register of a fabric port or board link. -/
def portReg (p off : Nat) : Nat := if p < 16 then 0x4000000 + p * 0x10000 + off else 0x4200000 + (p - 16) * 0x10000 + off

/-- Advance a port's counter of bytes sent, of bytes received or of retransmitted packets; the management port has none. -/
def countTx (s : State) (p n : Nat) : State :=
  if 20 ≤ p then s
  else
    let r := perfAdd (portAt s p).txBytes n
    noteWrap (updPort s p (fun x => { x with txBytes := r.1 })) r.2 (portReg p 0x200)

def countRx (s : State) (p n : Nat) : State :=
  if 20 ≤ p then s
  else
    let r := perfAdd (portAt s p).rxBytes n
    noteWrap (updPort s p (fun x => { x with rxBytes := r.1 })) r.2 (portReg p 0x208)

def countRetx (s : State) (p : Nat) : State :=
  if 20 ≤ p then s
  else
    let r := perfAdd (portAt s p).retx 1
    noteWrap (updPort s p (fun x => { x with retx := r.1 })) r.2 (portReg p 0x210)

/-! ## Paths (R455, R460) -/

/-- The pair a packet with sequence number j takes, as port × 16 + address index, and its path label. In ordered mode it is
the connection's one pair, label 0, or the first of the list once that pair has died. -/
def pathOf (s : State) (x : Conn) (j : Nat) : Option (Nat × Nat) :=
  let pl := (pairList s x).map (fun e => e.1 * 16 + e.2)
  if x.ordered then
    if pl.contains x.ordPair then some (x.ordPair, 0) else pl.head?.map (fun k => (k, 0))
  else pl[j % pl.length]?.map (fun k => (k, j / pl.length % 16))

/-- The path of a retransmission: another pair than the last one used, when one exists (R442). -/
def retxPath (s : State) (x : Conn) (j last : Nat) : Option (Nat × Nat) :=
  match pathOf s x j with
  | none => none
  | some r => if r.1 = last && !x.ordered then pathOf s x (j + 1) else some r

/-! ## Sending -/

/-- Charged length of a packet with `t` bytes of type header (R482): Ethernet 14, IPv6 40, UDP 8, base header 16, tag 16,
frame check 4, and the port's overhead. -/
def pktLen (ov t payload : Nat) : Nat := (((98 + t + payload : Nat) : Int) + sext 8 ov).toNat

/-- The DSCP of a class (R481). -/
def dscpOf (s : State) (tc : Nat) : Nat := bits s.eg.dscp (6 * tc + 5) (6 * tc)

/-- Is a packet type reliable (Table 11-3)? -/
def reliableType (pt : Nat) : Bool := pt == 0x01 || pt == 0x04

/-- Packets of a counter sent within the last `MAX_AGE` frames: reliable or control (R425). -/
def sentLately (s : State) (rel : Bool) (x : Conn) : Nat :=
  (x.sends.map (fun e => if s.time.frame < e.1 + 16 * s.eg.maxAge then (if rel then e.2.1 else e.2.2) else 0)).sum

/-- One more packet of either counter may be sent (R425). -/
def mayCount (s : State) (rel : Bool) (x : Conn) : Bool := decide (sentLately s rel x < 2 ^ 30)

/-- Count a packet sent in this frame, and forget the frames before the last `MAX_AGE`. -/
def countSend (s : State) (rel : Bool) (x : Conn) : Conn :=
  let n := s.time.frame
  let old := x.sends.filter (fun e => decide (n < e.1 + 16 * s.eg.maxAge) && e.1 != n)
  let now := ((x.sends.find? (fun e => e.1 == n)).map (fun e => e.2)).getD (0, 0)
  { x with sends := old ++ [(n, if rel then (now.1 + 1, now.2) else (now.1, now.2 + 1))] }

/-- Put one packet of a connection on the wire, on a pair and label: in clear as the model reads it, and as the frame's
bytes (R413, R422). -/
def putWire (s : State) (c : Nat) (x : Conn) (pair label tc ptype psn keyno t : Nat) (fields : List Nat)
    (msg : Option MsgHdr) (payload : Bytes) : State :=
  let p := pair / 16
  let len := pktLen (portAt s p).overhead t payload.length
  let dst := x.peerAddrs.getD (pair % 16) 0
  let head := baseBytes ⟨s.time.frame % 2 ^ 32, psn % 2 ^ 32, x.peerId, keyno % 2, x.ordered, tc, x.gen, ptype⟩ ++
    typeBytes ptype msg fields
  let body := head ++ sealPayload x.txKeys keyno (if reliableType ptype then psn else 2 ^ 63 + psn) head payload
  let k : TxPkt :=
    { conn := c, port := p, dst := dst, tc := tc, ptype := ptype, label := label, flow := c % 4096,
      sport := s.eg.sportBase + label, dport := s.eg.udpPort, ect := reliableType ptype, dscp := dscpOf s tc,
      sframe := s.time.frame % 2 ^ 32, psn := psn % 2 ^ 32, dcid := x.peerId, keyno := keyno, ord := x.ordered,
      tgen := x.gen, fields := fields, msg := msg, payload := payload, charged := len
      frame := ethFrame s p dst (dscpOf s tc) (if reliableType ptype then 2 else 0) (c % 4096) label (s.eg.sportBase + label)
        s.eg.udpPort body }
  countTx { s with out := { s.out with wire := s.out.wire ++ [k] } } p len

/-- The key number of the latest reliable PSN sent (R420). -/
def txKey (x : Conn) : Nat := (x.txPsn - 1) / 2 ^ 32

/-- Send a control packet on a named path; it takes the next CSN and leaves at once in class 1 (DEDUCED, log 28). One that
would break R425 is not sent (DEDUCED, log 150). -/
def sendOn (s : State) (c : Nat) (x : Conn) (pair label ptype t : Nat) (fields : List Nat) : State :=
  if !mayCount s false x then s
  else
    putWire (updConn s c (fun x => countSend s false { x with txCsn := x.txCsn + 1 })) c x pair label 1 ptype x.txCsn (txKey x) t
      fields none []

/-- Send a control packet; with no live pair it cannot leave. -/
def sendCtl (s : State) (c ptype t : Nat) (fields : List Nat) : State :=
  match mget s.conns c with
  | none => s
  | some x =>
    match pathOf s x x.txCsn with
    | none => s
    | some r => sendOn s c x r.1 r.2 ptype t fields

/-- Close a connection from the node's side: send `CLOSE` with the reason (R470). -/
def closeByNode (s : State) (c reason : Nat) : State :=
  closeConn (sendCtl s c 0x08 8 [0, 0, reason, 0]) c reason

/-- The fabric ports that are up, as the `LIVE` set of Table 11-14. -/
def liveSet (s : State) : Nat :=
  ((List.range 16).map (fun p => if portPresent s p && (portAt s p).up then 2 ^ p else 0)).sum

/-- PATHS_SEND (R457): on every open connection of generation 2 (R471), after a port has gone down or up. -/
def sendPaths (s : State) : State :=
  forAll s s.conns (fun s e =>
    if e.2.opened && e.2.gen == 2 then
      let n := (e.2.ownPseq + 1) % 2 ^ 32
      sendCtl (updConn s e.1 (fun x => { x with ownPseq := n })) e.1 0x06 8 [liveSet s, 0, 0, n]
    else s)

/-! ## Receiving (R414, R419–R424) -/

/-- A frame the node does not drop under R414, on a port that is up. -/
def rxFrame (s : State) (p : RxBase) : Bool :=
  p.frameOk && p.dport == s.eg.udpPort && portPresent s p.port && (portAt s p.port).up

/-- Widen an arriving sequence number against the highest authenticated (R419). -/
def rxSeq (high : Option Nat) (w : Nat) : Option Nat :=
  match widenSeq (high.getD 0) w with
  | some v => if 0 ≤ v then some v.toNat else none
  | none => none

/-- The current key number of a receive direction. -/
def curKey (c : Conn) : Nat := c.rxPsn.getD 0 / 2 ^ 32

/-- The key number of a control packet (R420). -/
def ctlKey (c : Conn) (keyph : Nat) : Option Nat :=
  let kr := curKey c
  if keyph = kr % 2 then some kr
  else if 2 ^ 31 ≤ c.rxPsn.getD 0 % 2 ^ 32 then some (kr + 1)
  else if kr = 0 then none else some (kr - 1)

/-- The key number a packet is checked under; none when `KEYPH` disagrees or the key is not held (R420, R421). -/
def rxKey (c : Conn) (rel : Bool) (q keyph : Nat) : Option Nat :=
  match (if rel then (if keyph = q / 2 ^ 32 % 2 then some (q / 2 ^ 32) else none) else ctlKey c keyph) with
  | none => none
  | some k => if c.keyLow ≤ k && decide (k ≤ curKey c + 1) then some k else none

/-- Raise the highest authenticated number, deriving the key after the current one, and discarding the older key at the
middle of a key's numbers (R421). -/
def raiseSeen (rel : Bool) (q : Nat) (c : Conn) : Conn :=
  if rel then
    let h := max q (c.rxPsn.getD 0)
    let low := if 2 ^ 31 ≤ h % 2 ^ 32 then h / 2 ^ 32 else max c.keyLow (h / 2 ^ 32 - 1)
    { c with rxPsn := some h, keyLow := low, rxKeys := c.rxKeys.hold low (h / 2 ^ 32 + 1) }
  else { c with rxCsn := some (max q (c.rxCsn.getD 0)) }

/-- The packet's age is within R424. -/
def ageOk (s : State) (sframe : Nat) : Bool :=
  match widenFrame s.time.frame sframe with
  | none => false
  | some f => decide ((s.time.frame : Int) - 16 * s.eg.maxAge ≤ f) && decide (f ≤ (s.time.frame : Int) + 2)

/-- R424 is checked on a connection, but not while the node still joins fabric time over it: its own frame number then
says nothing (R635–R637; DEDUCED, log 32). -/
def aged (s : State) (i : Nat) (c : Conn) : Bool :=
  !(s.life.state == 0 && !s.time.joined && (c.onBoard || s.time.joinConn == some i))

/-- Receive a packet on an open connection: count it, find its connection and key, check its tag and its age. The answer
carries the widened sequence number of a packet that passes. -/
def rxAuth (s : State) (p : RxBase) (rel : Bool) : State × Option Nat :=
  if !rxFrame s p then (s, none)
  else
    let s := countRx s p.port p.wireBytes
    match (if p.rsvd then none else mget s.conns p.dcid) with
    | none => (s, none)
    | some c =>
      if !c.opened then (s, none)
      else match rxSeq (if rel then c.rxPsn else c.rxCsn) p.psn with
        | none => (s, none)
        | some q =>
          match rxKey c rel q p.keyph with
          | none => (s, none)
          | some k =>
            if p.tagKey ≠ some k then (updConn s p.dcid (fun c => { c with authFails := c.authFails + 1 }), none)
            else (updConn s p.dcid (raiseSeen rel q), if !aged s p.dcid c || ageOk s p.sframe then some q else none)

/-- Count a packet dropped by policing (R505). -/
def countDrop (s : State) : State :=
  let r := perfAdd s.eg.drops 1
  noteWrap { s with eg := { s.eg with drops := r.1 } } r.2 0x60018

/-- Receive a control packet, within the limit of R504. -/
def rxControl (s : State) (p : RxBase) : State × Option Nat :=
  match rxAuth s p false with
  | (s, none) => (s, none)
  | (s, some q) =>
    match mget s.conns p.dcid with
    | none => (s, none)
    | some c =>
      if 4 * s.eg.ctlMax ≤ c.ctlCount then
        (countDrop (updConn s p.dcid (fun c => { c with polDrops := c.polDrops + 1 })), none)
      else (updConn s p.dcid (fun c => { c with ctlCount := c.ctlCount + 1 }), some q)

/-- INGRESS_POLICE (R503): charge a `DATA` or `FLUSH` packet to its connection's policer; false when it is dropped. A
management connection has none, and a rate of 0 turns policing off. -/
def police (s : State) (p : RxBase) : State × Bool :=
  match mget s.conns p.dcid with
  | none => (s, false)
  | some c =>
    if c.mgmt || c.policer.rate == 0 then (s, true)
    else if c.policer.credit < 0 then
      (countDrop (updConn s p.dcid (fun c => { c with polDrops := c.polDrops + 1 })), false)
    else
      (updConn s p.dcid (fun c => { c with policer := { c.policer with credit := c.policer.credit - p.wireBytes } }), true)

/-- Receive a reliable packet, noting its CE mark for the next `ACK` (Table 11-8). -/
def rxReliable (s : State) (p : RxBase) : State × Option Nat :=
  match rxAuth s p true with
  | (s, none) => (s, none)
  | (s, some q) =>
    (if p.ce then updConn s p.dcid (fun c => { c with ceSeen := satTo 65535 (c.ceSeen + 1) }) else s, some q)

end Sys2Proof.Machine
end

