-- ==== Sys2Proof/Machine/Transport.lean ====
section
/-!
DEFINITION. The Swinus transport on an open connection: placing messages (R426–R438), acknowledgement, loss and
retransmission (R439–R449), flushes (R450–R454), paths (R455–R458), ordered mode (R459–R462) and `CLOSE` (R470).
-/

namespace Sys2Proof.Machine

/-! ## Replies -/

/-- Send a `NAK` (Table 11-9). -/
def sendNak (s : State) (c psn reason msn pindex : Nat) : State :=
  sendCtl s c 0x03 16 [psn % 2 ^ 32, msn, pindex, reason]

/-- Send an `ACK` (Table 11-8): newest PSN received, bitmap of the 256 up to it, floor, CE marks and delay. -/
def sendAck (s : State) (c now : Nat) : State :=
  match mget s.conns c with
  | none => s
  | some x =>
    let newest := x.seenPsn.foldl max 0
    let bitmap := (x.seenPsn.map (fun q => 2 ^ (newest - q))).sum
    let s := sendCtl s c 0x02 48 [newest % 2 ^ 32, bitmap, x.floor, x.ceSeen, satTo 65535 (now - x.newestAt)]
    updConn s c (fun x => { x with owedAck := 0, ceSeen := 0 })

/-- A reliable packet has been accepted, or dropped under rows 1 and 4: an `ACK` is owed, and sent at the 16th (R439). -/
def oweAck (s : State) (p : RxBase) (q : Nat) : State :=
  let s := updConn s p.dcid (fun x =>
    let newest := x.seenPsn.foldl max 0
    let top := max q newest
    { x with
      seenPsn := if x.seenPsn.contains q then x.seenPsn else (q :: x.seenPsn).filter (fun r => decide (top < r + 256))
      newestAt := if newest ≤ q then p.now else x.newestAt
      owedAck := x.owedAck + 1 })
  match mget s.conns p.dcid with
  | some x => if 16 ≤ x.owedAck then sendAck s p.dcid p.now else s
  | none => s

/-- ACK_TIMER (R439). -/
def ackTimer (conn now : Nat) (s : State) : State :=
  match mget s.conns conn with
  | some x => if x.opened && decide (0 < x.owedAck) then sendAck s conn now else s
  | none => s

def execAckTimer (conn now : Nat) (s : State) : Host.Outcome State Fault Refusal := .next (ackTimer conn now s)

/-! ## Handing messages on (R429, R430, R452, R454) -/

/-- Record a command that fails step 1 because its message names another partition (R430). -/
def rejectCmd (s : State) (d : Delivery) (body : Bytes) : State :=
  let h := parseHdr body
  finish (putCmd s (newCmd s d (acceptHub s h) h (body.drop 64) false)) s.adm.nextCid stMALFORMED (stepDetail 1 0)
    s.time.frame 0 0

/-- Count a message no consumer takes (R429). -/
def dropMessage (s : State) : State := { s with eg := { s.eg with dropped := s.eg.dropped + 1 } }

/-- A `TRIG` message (R429): it needs SYNC rights in its partition, and fires the entry it names. -/
def handTrig (s : State) (c msn : Nat) (h : MsgHdr) (body : Bytes) : State :=
  if !bit (rightsIn s c h.part) 3 then raise s 0x0801 (some h.part) h.chainh 2
  else fireChain s ⟨2, h.part, wholeCmd body, none, s.time.frame, body, c, msn, h.region, h.rgen, h.addr⟩ h.chainh

/-- The answer to the node's own `QUERY_CAPS` (R637): `FRAME` of Table 10-22 after the 32 bytes of the record. Any other
`RES` is dropped. -/
def takeReply (s : State) (c : Nat) (body : Bytes) : State :=
  if s.time.joinConn = some c && (byteAt body 5).toNat == opCAPS && recStatus body == stOK then
    updTime s (fun t => { t with joinFrame := some (leAt body 40 8) })
  else dropMessage s

/-- Hand a completed message to its consumer. -/
def handOver (s : State) (c msn : Nat) (h : MsgHdr) (body : Bytes) : State :=
  if h.kind = 1 then
    let d : Delivery := ⟨c, msn, h.region, h.rgen, h.addr, false, false, none, none⟩
    if 64 ≤ body.length && (parseHdr body).part != h.part then rejectCmd s d body else acceptBody s d body
  else if h.kind = 4 then handTrig s c msn h body
  else if h.kind = 2 && h.av then
    match forwardReply s c h.answers body with
    | some s => s
    | none => takeReply s c body
  else dropMessage s

/-- The bytes of a message whose packets are all placed. -/
def msgBody (m : InMsg) : Bytes := m.bytes.flatMap (fun e => e.2)

/-- Does the message hold a `FLUSH` command (R454)? -/
def holdsFlush (m : InMsg) : Bool := m.hdr.kind == 1 && (parseHdr (msgBody m)).opcode == opFLUSH

/-- Give back the T0 space an incomplete message held (R438). -/
def releaseMsg (s : State) (m : InMsg) : State := releaseT0 s m.hdr.part m.hub m.blocks

/-- Take a completed message out of the connection's store and hand it on. -/
def handMsg (s : State) (c msn : Nat) : State :=
  match (mget s.conns c).bind (fun x => mget x.inMsgs msn) with
  | none => s
  | some m =>
    let s := updConn s c (fun x => { x with inMsgs := mdel x.inMsgs msn, held := x.held.filter (fun h => h != msn) })
    handOver (releaseMsg s m) c msn m.hdr (msgBody m)

/-- Hand on the held `FLUSH` commands whose earlier messages have all retired, in MSN order (R454). -/
def handHeld (s : State) (c : Nat) : State :=
  match mget s.conns c with
  | none => s
  | some x =>
    let due := sortBy (fun m => (m + 2 ^ 31 + 2 ^ 32 - x.floor) % 2 ^ 32) (x.held.filter (fun m => serialLt m x.floor))
    forAll s due (fun s m => handMsg s c m)

/-- Answer the transport `FLUSH`es whose messages have all retired and been handed on (R452). -/
def answerFlushes (s : State) (c : Nat) : State :=
  match mget s.conns c with
  | none => s
  | some x =>
    let ready := x.flushes.filter (fun f => !serialLt x.floor f.1 && !x.held.any (fun m => serialLt m f.1))
    let s := updConn s c (fun x => { x with flushes := x.flushes.filter (fun f => !ready.contains f) })
    forAll s ready (fun s f => sendCtl s c 0x05 8 [f.1, f.2])

/-- Move the floor past every message that has completed or failed (R448). -/
def advanceFloor (fuel : Nat) (c : Conn) : Conn :=
  match fuel with
  | 0 => c
  | n + 1 =>
    if mhas c.states c.floor then
      advanceFloor n { c with states := mdel c.states c.floor, floor := (c.floor + 1) % 2 ^ 32 }
    else c

/-- A message of the window has retired with a state: 1 completed, 0x100 + the reason when it failed. -/
def retireMsn (s : State) (c msn st : Nat) : State :=
  updConn s c (fun x =>
    let x := { x with states := mset x.states msn st }
    advanceFloor x.states.length x)

/-- After the floor may have moved. -/
def afterFloor (s : State) (c : Nat) : State := answerFlushes (handHeld s c) c

/-! ## DATA (Table 11-6) -/

/-- The reason a failed message was logged with (R447). -/
def loggedReason (c : Conn) (msn : Nat) : Option Nat := (c.failLog.find? (fun e => e.1 == msn)).map (fun e => e.2)

/-- The message fields a packet carries. -/
def dataFields (d : DataHdr) : MsgHdr :=
  ⟨d.kind, d.part, d.mlen, d.pcount, d.region, d.rgen, d.addr, d.answers, d.av, d.chainh⟩

/-- A packet's own fields follow R426. -/
def dataOk (x : Conn) (d : DataHdr) (payload : Bytes) : Bool :=
  decide (1 ≤ d.mlen) && decide (d.mlen ≤ 16777280) && d.pcount == ceilDiv d.mlen x.mps && decide (d.pindex < d.pcount) &&
  d.offset == d.pindex * x.mps && payload.length == min x.mps (d.mlen - d.offset) &&
  d.last == (d.pindex + 1 == d.pcount) && [1, 2, 3, 4].contains d.kind && !(d.kind == 4 && x.gen == 1)

/-- A packet's fields agree with its message's; `ADDR` may differ in a placed `RES` (R426). -/
def sameFields (m h : MsgHdr) : Bool := m == (if m.kind = 2 && m.region != 0 then { h with addr := m.addr } else h)

/-- The home hub of a connection (R468). -/
def connHub (s : State) (c : Nat) : Nat := if hub1Present s && bit c 15 then 1 else 0

/-- T0 blocks a message takes from its first packet (R438): none on a management connection, whose commands take no quota
(R511), and none in a free partition, which has no quota to charge (DEDUCED, log 29). -/
def msgBlocks (s : State) (x : Conn) (d : DataHdr) : Nat :=
  if (d.kind = 1 ∨ d.kind = 4) ∧ !x.mgmt ∧ (partAt s d.part).state ≠ 0 then ceilDiv d.mlen 4096 else 0

/-- Room for a new incomplete message (R438). -/
def hasRoom (s : State) (c : Nat) (x : Conn) (d : DataHdr) : Bool :=
  decide (x.inMsgs.length < 256 + x.held.length) && decide (msgBlocks s x d ≤ quotaLeft s d.part (connHub s c))

/-- A message fails (R437). -/
def failMsg (s : State) (c q reason : Nat) (d : DataHdr) : State :=
  let s := match (mget s.conns c).bind (fun x => mget x.inMsgs d.msn) with
    | some m => releaseMsg s m
    | none => s
  let s := updConn s c (fun x =>
    { x with
      inMsgs := mdel x.inMsgs d.msn
      failLog := (x.failLog ++ [(d.msn, reason)]).drop (x.failLog.length + 1 - 256)
      ordNext := ((d.msn + 1) % 2 ^ 32, 0) })
  afterFloor (sendNak (retireMsn s c d.msn (0x100 + reason)) c q reason d.msn d.pindex) c

/-- Place a packet (R427) and complete its message at the last index (R428). -/
def placeData (s : State) (p : RxBase) (q : Nat) (x : Conn) (d : DataHdr) (payload : Bytes) : State :=
  let c := p.dcid
  let isNew := !mhas x.inMsgs d.msn
  let blocks := msgBlocks s x d
  let hub := connHub s c
  let s := if isNew then takeT0 s d.part hub blocks else s
  let m0 := mgetD x.inMsgs d.msn ⟨dataFields d, [], [], blocks, hub⟩
  let m := { m0 with placed := m0.placed ++ [d.pindex], bytes := mset m0.bytes d.pindex payload }
  let done := m.placed.length == m.hdr.pcount
  let s := updConn s c (fun x =>
    { x with
      inMsgs := mset x.inMsgs d.msn m
      ordNext := if done then ((d.msn + 1) % 2 ^ 32, 0) else (d.msn, d.pindex + 1) })
  let s := oweAck s p q
  if !done then s
  else if holdsFlush m then
    afterFloor (retireMsn (updConn s c (fun x => { x with held := x.held ++ [d.msn] })) c d.msn 1) c
  else afterFloor (handMsg (retireMsn s c d.msn 1) c d.msn) c

/-- Handle an authenticated `DATA` packet by the first row of Table 11-6 whose condition holds (R436). The node keeps no
region table (R432), so row 7 takes every placed `RES` and row 8 none. -/
def handleData (s : State) (p : RxBase) (q : Nat) (d : DataHdr) (payload : Bytes) : State :=
  match mget s.conns p.dcid with
  | none => s
  | some x =>
    let c := p.dcid
    let top := (x.floor + 4096) % 2 ^ 32
    if serialLt d.msn x.floor then
      match loggedReason x d.msn with
      | some r => sendNak s c q r d.msn d.pindex
      | none => oweAck s p q
    else if d.msn = top ∨ serialLt top d.msn then sendNak s c q 0x10 d.msn d.pindex
    else if 0x100 ≤ mgetD x.states d.msn 0 then sendNak s c q (mgetD x.states d.msn 0 - 0x100) d.msn d.pindex
    else if mhas x.states d.msn || (mget x.inMsgs d.msn).any (fun m => m.placed.contains d.pindex) then oweAck s p q
    else if x.ordered && x.ordNext != (d.msn, d.pindex) then sendNak s c q 0x12 x.ordNext.1 x.ordNext.2
    else if !dataOk x d payload || !(mget x.inMsgs d.msn).all (fun m => sameFields m.hdr (dataFields d)) then
      failMsg s c q 0x0D d
    else if d.kind = 2 ∧ d.region ≠ 0 then failMsg s c q 0x0E d
    else if !mhas x.inMsgs d.msn && !hasRoom s c x d then sendNak s c q 0x11 d.msn d.pindex
    else placeData s p q x d payload

/-- Meter 7: charged bytes of the `CMD` and `TRIG` packets of a partition's issuers (Table 13-16). -/
def meterIngress (s : State) (p : RxBase) (d : DataHdr) : State :=
  match mget s.conns p.dcid with
  | some x => if (d.kind = 1 ∨ d.kind = 4) ∧ !x.mgmt then meter s d.part 7 p.wireBytes else s
  | none => s

/-- DATA_RECEIVE (R436). -/
def dataReceive (p : RxBase) (d : DataHdr) (payload : Bytes) (s : State) : State :=
  match rxReliable s p with
  | (s, none) => s
  | (s, some q) =>
    match police s p with
    | (s, true) => handleData (meterIngress s p d) p q d payload
    | (s, false) => sendNak s p.dcid q 0x11 d.msn d.pindex

def execDataReceive (p : RxBase) (d : DataHdr) (payload : Bytes) (s : State) : Host.Outcome State Fault Refusal :=
  .next (dataReceive p d payload s)

/-- FLUSH_PACKET (R452, R453). -/
def flushPacket (p : RxBase) (fmsn ftag : Nat) (s : State) : State :=
  match rxReliable s p with
  | (s, none) => s
  | (s, some q) =>
    match police s p with
    | (s, false) => sendNak s p.dcid q 0x11 fmsn 0
    | (s, true) =>
      match mget s.conns p.dcid with
      | none => s
      | some x =>
        if serialLt ((x.floor + 4096) % 2 ^ 32) fmsn then sendNak s p.dcid q 0x10 fmsn 0
        else
          let s := oweAck s p q
          answerFlushes (updConn s p.dcid (fun x =>
            { x with flushes := if x.flushes.contains (fmsn, ftag) then x.flushes else x.flushes ++ [(fmsn, ftag)] })) p.dcid

def execFlushPacket (p : RxBase) (fmsn ftag : Nat) (s : State) : Host.Outcome State Fault Refusal :=
  .next (flushPacket p fmsn ftag s)

/-- FLUSH_ACK_RECEIVE (R452): it is authenticated and accepted; the node sends no `FLUSH`, so nothing waits for it. -/
def flushAckReceive (p : RxBase) (_fmsn _ftag : Nat) (s : State) : State := (rxControl s p).1

def execFlushAckReceive (p : RxBase) (fmsn ftag : Nat) (s : State) : Host.Outcome State Fault Refusal :=
  .next (flushAckReceive p fmsn ftag s)

/-! ## Acknowledgement and loss, as sender -/

/-- Change a packet of an outgoing message. -/
def updPkt (s : State) (c key idx : Nat) (f : SendPkt → SendPkt) : State :=
  updConn s c (fun x => { x with out := mmod x.out key (fun m => { m with pkts := mmod m.pkts idx f }) })

/-- Note a loss in the history of the last 64 packets of a pair; a second loss among them marks the pair bad for 256
frames (R456). -/
def notePairLoss (frame pair psn : Nat) (x : Conn) : Conn :=
  let h := (mgetD x.pairLost pair []).map (fun e => if e / 2 = psn then psn * 2 + 1 else e)
  if 2 ≤ (h.filter (fun e => e % 2 == 1)).length then
    { x with pairLost := mdel x.pairLost pair, pairBad := mset x.pairBad pair (frame + 256), probes := mdel x.probes pair }
  else { x with pairLost := mset x.pairLost pair h }

/-- Declare a packet lost (R441): it waits to be resent in its class; a packet already sent 16 times closes its connection
(R443). -/
def declareLost (s : State) (c key idx : Nat) (k : SendPkt) : State :=
  if 15 ≤ k.tries then closeByNode s c 0x01
  else
    updConn (updPkt s c key idx (fun k => { k with lost := true, windowed := false })) c (notePairLoss s.time.frame k.pair k.psn)

/-- The packets of a connection that have been sent, with their message keys and indexes. -/
def sentPkts (x : Conn) : List (Nat × Nat × SendPkt) := x.out.flatMap (fun m => m.2.pkts.map (fun k => (m.1, k.1, k.2)))

/-- Forget an outgoing message; the record of a command that had not wholly left is lost with it. -/
def forgetMsg (s : State) (c key : Nat) : State :=
  match (mget s.conns c).bind (fun x => mget x.out key) with
  | none => s
  | some m =>
    let s := updConn s c (fun x => { x with out := mdel x.out key })
    match m.cid with
    | some cid => if m.final && decide (m.next < m.hdr.pcount) then retireCmd s cid else s
    | none => s

/-- Take the peer's floor: messages below it retire (R444), and packets that waited for the window are resent. -/
def takeFloor (s : State) (c floor : Nat) : State :=
  match mget s.conns c with
  | none => s
  | some x =>
    if !serialLt x.peerFloor floor || serialLt (x.nextMsn % 2 ^ 32) floor then s
    else
      let old := (x.out.filter (fun m => decide (0 < m.2.next) && serialLt m.2.msn floor)).map (fun m => m.1)
      let s := forAll s old (fun s key => forgetMsg s c key)
      let unwait := fun (k : SendPkt) => if k.windowed then { k with lost := !k.shown, windowed := false } else k
      updConn s c (fun x =>
        { x with
          peerFloor := floor
          out := x.out.map (fun m => (m.1, { m.2 with pkts := m.2.pkts.map (fun k => (k.1, unwait k.2)) })) })

/-- The PSNs an `ACK` shows, newest first, and whether it shows one. -/
def ackShows (newest : Nat) (a : AckHdr) (psn : Nat) : Bool := decide (psn ≤ newest) && bit a.bitmap (newest - psn)

/-- Process an `ACK`: floor, packets shown, losses by distance (R441) and CE marks (R501). A `NEWEST` that R9 does not order, or
that no packet sent carries, shows none. -/
def applyAck (s : State) (c : Nat) (a : AckHdr) : State :=
  let s := takeFloor s c a.floor
  match mget s.conns c with
  | none => s
  | some x =>
    let newest := match widenSeq x.txPsn a.newest with
      | some v => if 0 ≤ v && v < (x.txPsn : Int) then some v.toNat else none
      | none => none
    let mark := fun (k : SendPkt) => if newest.any (fun n => ackShows n a k.psn) then { k with shown := true, lost := false, windowed := false } else k
    let s := updConn s c (fun x =>
      { x with
        ceFrame := x.ceFrame || decide (0 < a.ce)
        out := x.out.map (fun m => (m.1, { m.2 with pkts := m.2.pkts.map (fun k => (k.1, mark k.2)) })) })
    match mget s.conns c with
    | none => s
    | some x =>
      let gone := (sentPkts x).filter (fun e => !e.2.2.shown && !e.2.2.lost && newest.any (fun n => decide (e.2.2.psn + s.eg.reorder ≤ n)))
      forAll s gone (fun s e => declareLost s c e.1 e.2.1 e.2.2)

/-- ACK_RECEIVE (R444). -/
def ackReceive (p : RxBase) (a : AckHdr) (s : State) : State :=
  match rxControl s p with
  | (s, none) => s
  | (s, some _) => applyAck s p.dcid a

def execAckReceive (p : RxBase) (a : AckHdr) (s : State) : Host.Outcome State Fault Refusal := .next (ackReceive p a s)

/-- The key of the outgoing message that has taken an MSN. -/
def keyOfMsn (x : Conn) (msn : Nat) : Option Nat :=
  (x.out.find? (fun m => decide (0 < m.2.next) && m.2.msn == msn)).map (fun m => m.1)

/-- Mark every packet sent from the pair (MSN, index) on, and not shown, to be resent (R460, R461). -/
def resendFrom (msn pindex : Nat) (x : Conn) : Conn :=
  let late := fun (m : OutMsg) (i : Nat) => serialLt msn m.msn || (m.msn == msn && decide (pindex ≤ i))
  let f := fun (m : OutMsg) =>
    { m with pkts := m.pkts.map (fun k => (k.1, if late m k.1 && !k.2.shown then { k.2 with lost := true } else k.2)) }
  { x with out := x.out.map (fun m => (m.1, f m.2)) }

/-- NAK_RECEIVE (R445, Table 11-11). -/
def nakReceive (p : RxBase) (n : NakHdr) (s : State) : State :=
  match rxControl s p with
  | (s, none) => s
  | (s, some _) =>
    match mget s.conns p.dcid with
    | none => s
    | some x =>
      match keyOfMsn x n.msn with
      | none => s
      | some key =>
        if [0x0A, 0x0D, 0x0E].contains n.reason then
          raise (forgetMsg s p.dcid key) 0x0702 none p.dcid (packFields [(0, 32, n.msn), (32, 8, n.reason)])
        else if n.reason = 0x10 then updPkt s p.dcid key n.pindex (fun k => { k with windowed := !k.shown })
        else if n.reason = 0x12 && x.ordered then updConn s p.dcid (resendFrom n.msn n.pindex)
        else s

def execNakReceive (p : RxBase) (n : NakHdr) (s : State) : Host.Outcome State Fault Refusal := .next (nakReceive p n s)

/-- RETRANSMIT_TIMEOUT (R441): RTO × 2^j has passed since the packet was sent. -/
def retransmitTimeout (conn msn pindex now : Nat) (s : State) : State :=
  match mget s.conns conn with
  | none => s
  | some x =>
    match (keyOfMsn x msn).bind (fun key => (mget x.out key).bind (fun m => (mget m.pkts pindex).map (fun k => (key, k)))) with
    | none => s
    | some (key, k) =>
      if k.shown || k.lost || decide (now < k.sent + k.rto * 256 * 2 ^ min k.tries 6) then s
      else declareLost s conn key pindex k

def execRetransmitTimeout (conn msn pindex now : Nat) (s : State) : Host.Outcome State Fault Refusal :=
  .next (retransmitTimeout conn msn pindex now s)

/-! ## Paths and closing -/

/-- PATHS_RECEIVE (R458). -/
def pathsReceive (p : RxBase) (pseq live : Nat) (s : State) : State :=
  match rxControl s p with
  | (s, none) => s
  | (s, some _) =>
    updConn s p.dcid (fun x =>
      if x.peerPseq.all (fun q => serialLt q pseq) then { x with peerPseq := some pseq, peerLive := live } else x)

def execPathsReceive (p : RxBase) (pseq live : Nat) (s : State) : Host.Outcome State Fault Refusal :=
  .next (pathsReceive p pseq live s)

/-- PROBE_RECEIVE: answer a probe on the path it came by, or take the answer to the node's own, which returns its pair to
the list (R456). -/
def probeReceive (p : RxBase) (echo label : Nat) (resp : Bool) (s : State) : State :=
  match rxControl s p with
  | (s, none) => s
  | (s, some _) =>
    match mget s.conns p.dcid with
    | none => s
    | some x =>
      if resp then
        updConn s p.dcid (fun x =>
          let back := (x.probes.filter (fun e => e.2 == echo)).map (fun e => e.1)
          { x with
            probes := mfilter x.probes (fun k _ => !back.contains k)
            pairBad := mfilter x.pairBad (fun k _ => !back.contains k) })
      else
        match (x.peerAddrs.findIdx? (fun a => a == p.src)) with
        | none => s
        | some i => sendOn s p.dcid x (p.port * 16 + i) label 0x07 8 [0, 1, label, echo]

def execProbeReceive (p : RxBase) (echo label : Nat) (resp : Bool) (s : State) : Host.Outcome State Fault Refusal :=
  .next (probeReceive p echo label resp s)

/-- PAIR_BAD_EXPIRY (R456): the 256 frames of a bad pair have passed, so a `PROBE` goes out on it while its port and peer
address are live. -/
def pairBadExpiry (conn pair : Nat) (s : State) : State :=
  match mget s.conns conn with
  | none => s
  | some x =>
    match mget x.pairBad pair with
    | none => s
    | some f =>
      if s.time.frame < f || !(portAt s (pair / 16)).up || !bit x.peerLive (pair % 16) then s
      else
        let echo := x.txCsn % 2 ^ 32
        sendOn (updConn s conn (fun x => { x with probes := mset x.probes pair echo })) conn x pair 0 0x07 8 [0, 0, 0, echo]

def execPairBadExpiry (conn pair : Nat) (s : State) : Host.Outcome State Fault Refusal := .next (pairBadExpiry conn pair s)

/-- CLOSE (R470). -/
def closeReceive (p : RxBase) (reason : Nat) (s : State) : State :=
  match rxControl s p with
  | (s, none) => s
  | (s, some _) => closeConn s p.dcid reason

def execClose (p : RxBase) (reason : Nat) (s : State) : Host.Outcome State Fault Refusal := .next (closeReceive p reason s)

end Sys2Proof.Machine
end

