-- ==== Sys2Proof/Machine/Egress.lean ====
section
/-!
DEFINITION. Egress (12_egress): the choice of the next packet of a port (R484–R493), its start (R455, R481, R482, R497),
gate lists (R493–R496), the calendar wheel (R498), and what a frame start does to shapers, policers, connection rates and
event queues (R473, R478, R483, R499–R506).
-/

namespace Sys2Proof.Machine

/-! ## Time within the frame -/

/-- Start of the current frame in ns of the node's base-interval count. -/
def frameStartNs (t : Time) : Nat := firstBint t * 2048 + (if t.len = 0 && t.half then 1024 else 0)

/-- Line rate of a port in eighths of a byte per ns: 25 bytes per lane (R489), 25 Gb/s on the management port (R677). -/
def lineRate8 (s : State) (p : Nat) : Nat := if p = 20 then 25 else 200 * (portAt s p).lanes

/-- The same in units of 1.25 Gb/s (R500). -/
def lineUnits (s : State) (p : Nat) : Nat := if p = 20 then 20 else 160 * (portAt s p).lanes

/-- A packet of `len` bytes that starts `t` ns into the frame ends by `tenths` of a ns into it. -/
def endsBy (s : State) (p len t tenths : Nat) : Bool :=
  decide (10 * t ≤ tenths) && decide (80 * len ≤ lineRate8 s p * (tenths - 10 * t))

/-! ## Gate lists (R493) -/

/-- The register value of entry i of a gate list; at reset every class is open from offset 0 (Table 12-5). -/
def gateEntry (x : Port) (l i : Nat) : Nat := mgetD (if l = 1 then x.list1 else x.list0) i (0x3F * 2 ^ 18)

def geOffset (e : Nat) : Nat := bits e 13 0
def geOpen (e c : Nat) : Bool := bit e (16 + c)

def gateCount (x : Port) (l : Nat) : Nat := if l = 1 then x.count1 else x.count0

/-- Entries of the active list that take effect in a frame of this length. -/
def activeEntries (len : Nat) (x : Port) : List Nat :=
  ((List.range (gateCount x x.active)).map (gateEntry x x.active)).filter
    (fun e => decide (gateTenths len + 8 * geOffset e < 10 * frameNs len))

/-- Tenths of a ns into the frame by which a packet of class c (2–7) that starts t ns into it must end; none while its class
is closed (R487, R493). -/
def closesAt (len : Nat) (x : Port) (c t : Nat) : Option Nat :=
  let es := activeEntries len x
  let g := gateTenths len
  if 10 * t < g then none
  else
    match (es.filter (fun e => decide (g + 8 * geOffset e ≤ 10 * t))).getLast? with
    | none => none
    | some e =>
      if !geOpen e c then none
      else match es.find? (fun e => decide (10 * t < g + 8 * geOffset e) && !geOpen e c) with
        | some e => some (g + 8 * geOffset e)
        | none => some (10 * frameNs len)

/-! ## Packets that may start (R455, R449, R442, R460) -/

/-- A packet a port may start: connection, message key, index, whether it is a retransmission, its class, partition, path,
charged length. -/
structure Cand where
  conn : Nat
  key : Nat
  idx : Nat
  again : Bool
  tc : Nat
  part : Nat
  pair : Nat
  label : Nat
  len : Nat
  deriving DecidableEq, Repr

/-- Bytes of packet i of a message. -/
def pktBytes (x : Conn) (m : OutMsg) (i : Nat) : Bytes := slice m.body (i * x.mps) (min x.mps (m.body.length - i * x.mps))

/-- A message's next packet may be sent: its frame has come and its MSN lies in the peer's window (R449). -/
def mayBegin (frame : Nat) (x : Conn) (m : OutMsg) : Bool :=
  decide (m.next < m.hdr.pcount) && decide (m.notBefore ≤ frame) &&
  decide (((if m.next = 0 then x.nextMsn else m.msn) + 2 ^ 32 - x.peerFloor) % 2 ^ 32 < 4096)

/-- The lost packets of a message that wait to be resent. -/
def lostIdx (m : OutMsg) : List (Nat × SendPkt) := m.pkts.filter (fun k => k.2.lost && !k.2.shown)

/-- In ordered mode, the one message whose packets may leave (DEDUCED, log 30): the lowest MSN with a lost packet, else the message
begun and not finished. -/
def orderedOnly (x : Conn) : Option Nat :=
  let begun := x.out.filter (fun m => decide (0 < m.2.next))
  let rank := fun (m : Nat × OutMsg) => (m.2.msn + 2 ^ 32 - x.peerFloor) % 2 ^ 32
  match (sortBy rank (begun.filter (fun m => !(lostIdx m.2).isEmpty))).head? with
  | some m => some m.1
  | none => ((sortBy rank (begun.filter (fun m => decide (m.2.next < m.2.hdr.pcount)))).head?).map (fun m => m.1)

/-- The packets of a connection that port p may start, retransmissions of a message before its next packet; none while R425
holds them back. -/
def connCands (s : State) (p c : Nat) (x : Conn) : List Cand :=
  let ms : SMap OutMsg := match x.ordered, orderedOnly x with
    | true, some k => x.out.filter (fun m => m.1 == k)
    | _, _ => x.out
  let mk := fun (m : Nat × OutMsg) (i : Nat) (again : Bool) (r : Option (Nat × Nat)) =>
    match r with
    | none => []
    | some (pair, label) =>
      if pair / 16 ≠ p then ([] : List Cand)
      else [⟨c, m.1, i, again, m.2.tc, m.2.forPart, pair, label,
        pktLen (portAt s p).overhead 40 (pktBytes x m.2 i).length⟩]
  if !mayCount s true x then []
  else ms.flatMap (fun m =>
    (lostIdx m.2).flatMap (fun k => mk m k.1 true (retxPath s x x.txPsn k.2.pair)) ++
    (if mayBegin s.time.frame x m.2 && !(x.ordered && !(lostIdx m.2).isEmpty) then mk m m.2.next false (pathOf s x x.txPsn)
     else []))

/-- Every packet port p may start. -/
def portCands (s : State) (p : Nat) : List Cand :=
  s.conns.flatMap (fun e => if e.2.opened then connCands s p e.1 e.2 else [])

/-! ## Shapers (R497, R499) -/

/-- Credit of a partition's subscriber shaper on a port; one not listed is full. -/
def subCredit (s : State) (p k : Nat) : Int :=
  mgetD (portAt s p).shapers k (((partAt s k).shBurst * 4096 : Nat) : Int)

/-- Both shapers of a bulk packet hold credit, and its partition's rate is not 0. -/
def shaped (s : State) (p : Nat) (c : Cand) : Bool :=
  decide ((partAt s c.part).shRate ≠ 0) && decide (0 ≤ subCredit s p c.part) &&
  (match mget s.conns c.conn with
   | some x => decide (0 ≤ x.shaper.credit)
   | none => false)

/-- A packet may start at t: classes 0 and 1 always, the others by the gate list, and bulk by its shapers. -/
def eligible (s : State) (p t : Nat) (c : Cand) : Bool :=
  if c.tc ≤ 1 then true
  else
    (match closesAt s.time.len (portAt s p) c.tc t with
     | some e => endsBy s p c.len t e
     | none => false) && (c.tc == 2 || shaped s p c)

/-! ## The hierarchy (R484, R485) -/

/-- The first candidate in the order in which messages became ready. -/
def firstReady (cs : List Cand) : Option Cand :=
  cs.foldl (fun o c => match o with
    | none => some c
    | some b => if c.key < b.key then some c else some b) none

/-- The next of a rising list after k, around. -/
def nextAfter (ks : List Nat) (k : Nat) : Nat :=
  match ks.find? (fun j => decide (k < j)) with
  | some j => j
  | none => ks.headD 0

/-- Deficit round robin: serve the one it stands at while its deficit covers its packet, else give the next its quantum. The
answer is who is served and the deficits. -/
def drr (fuel : Nat) (ks : List Nat) (quantum len : Nat → Nat) (cur : Nat) (d : SMap Int) : Nat × SMap Int :=
  match fuel with
  | 0 => (cur, d)
  | n + 1 =>
    if ks.contains cur && decide (((len cur : Nat) : Int) ≤ mgetD d cur 0) then (cur, d)
    else
      let k := nextAfter ks cur
      drr n ks quantum len k (mset d k (mgetD d k 0 + (quantum k : Nat)))

/-- The packet the subscriber queue (class, partition) offers: its connections in turn, each in ready order. -/
def queueHead (x : Port) (cs : List Cand) (tc k : Nat) : Option Cand :=
  let mine := cs.filter (fun c => c.tc == tc && c.part == k)
  let ids := sortBy id (mine.map (fun c => c.conn))
  let c := nextAfter ids (mgetD x.lastConn (tc * 256 + k) (2 ^ 32))
  firstReady (mine.filter (fun m => m.conn == c))

/-- Distinct numbers of a list, rising. -/
def distinct (xs : List Nat) : List Nat := (sortBy id xs).foldl (fun acc k => if acc.getLast? = some k then acc else acc ++ [k]) []

/-- What class tc offers: the partition deficit round robin stands at, the deficits of its partitions, the packet. -/
def classHead (s : State) (x : Port) (cs : List Cand) (tc : Nat) : Option (Nat × SMap Int × Cand) :=
  let ks := distinct ((cs.filter (fun c => c.tc == tc)).map (fun c => c.part))
  if ks.isEmpty then none
  else
    let mine := (x.subDeficit.filter (fun e => e.1 / 256 == tc)).map (fun e => (e.1 % 256, e.2))
    let len := fun k => ((queueHead x cs tc k).map (fun c => c.len)).getD 0
    let r := drr (6 * ks.length + 6) ks (fun k => 1024 * (partAt s k).egWeight) len (mgetD x.drrPart tc 256) mine
    (queueHead x cs tc r.1).map (fun c => (r.1, r.2, c))

/-- Quantum of bulk class c in bytes. -/
def classQuantum (x : Port) (c : Nat) : Nat := 1024 * x.q.getD (c - 3) 0x10

/-- Choose among the bulk packets that may start: the packet, and the port's round-robin state after it. Classes, and
partitions within them, that have no packet at all have lost their deficit. -/
def chooseBulk (s : State) (p : Nat) (queued cs : List Cand) : Option (Cand × (Port → Port)) :=
  let x0 := portAt s p
  let subs0 := x0.subDeficit.filter (fun e => queued.any (fun c => c.tc == e.1 / 256 && c.part == e.1 % 256))
  let x := { x0 with subDeficit := subs0 }
  let classes := distinct ((cs.filter (fun c => decide (3 ≤ c.tc))).map (fun c => c.tc))
  if classes.isEmpty then none
  else
    let kept := x.deficit.filter (fun e => queued.any (fun c => c.tc == e.1))
    let len := fun tc => ((classHead s x cs tc).map (fun r => r.2.2.len)).getD 0
    let r := drr (6 * classes.length + 6) classes (classQuantum x) len x.drrClass kept
    match classHead s x cs r.1 with
    | none => none
    | some (k, subs, c) =>
      let subs := mset subs k (mgetD subs k 0 - (c.len : Nat))
      let others := x.subDeficit.filter (fun e => e.1 / 256 != r.1)
      some (c, fun x =>
        { x with
          deficit := mset r.2 r.1 (mgetD r.2 r.1 0 - (c.len : Nat))
          drrClass := r.1
          subDeficit := subs.foldl (fun m e => mset m (r.1 * 256 + e.1) e.2) others
          drrPart := mset x.drrPart r.1 k
          lastConn := mset x.lastConn (r.1 * 256 + k) c.conn })

/-- The packet port p starts next at t ns into the frame (R484). -/
def choosePacket (s : State) (p t : Nat) : Option (Cand × (Port → Port)) :=
  let all := portCands s p
  let cs := all.filter (eligible s p t)
  let service := fun tc => firstReady (cs.filter (fun c => c.tc == tc))
  match service 1, service 0, service 2 with
  | some c, _, _ => some (c, id)
  | none, some c, _ => some (c, id)
  | none, none, some c => some (c, id)
  | none, none, none => chooseBulk s p all cs

/-! ## Starting a packet -/

/-- Spend a bulk packet's charged length from both its shapers (R497). -/
def spend (s : State) (p : Nat) (c : Cand) : State :=
  if c.tc < 3 then s
  else
    let left := subCredit s p c.part - (c.len : Nat)
    updConn (updPort s p (fun x => { x with shapers := mset x.shapers c.part left })) c.conn
      (fun x => { x with shaper := { x.shaper with credit := x.shaper.credit - (c.len : Nat) } })

/-- Is the record of a result marked `LATE` (R314)? -/
def lateRecord (m : OutMsg) : Bool := bit (leAt m.body 0 8) 49

/-- The unit of a port (Table 15-21). -/
def portUnit (p : Nat) : RasUnit := if p < 16 then .port p else .blink (p - 16)

/-- GATE_OVERRUN (R492): a protected packet's first sending that does not complete within the gate reserved for it. The frame
it serves is not honoured, in the class of a lane fault. -/
def noteOverrun (s : State) (p t : Nat) (c : Cand) (m : OutMsg) : State :=
  let f := m.notBefore
  if c.tc ≠ 0 ∨ c.again ∨ f = 0 ∨ lateRecord m then s
  else if f = s.time.frame && endsBy s p c.len t (gateTenths s.time.len) then s
  else
    let s := if mhas s.ras.frameFault (f - 1) then s
      else { s with ras := { s.ras with frameFault := mset s.ras.frameFault (f - 1) 1 } }
    if f < (portAt s p).overrun then s
    else raise (updPort s p (fun x => { x with overrun := f + 1 })) 0x0506 none (unitId (portUnit p)) f

/-- A forwarded command's message has taken its number: the reply to it is awaited under that MSN (R403). -/
def bindForward (s : State) (c key msn : Nat) : State :=
  let f := fun (w : Forwarded) => if w.conn = c && w.msn == 2 ^ 40 + key then { w with msn := msn } else w
  { s with chains := { s.chains with fwd := s.chains.fwd.map f } }

/-- Add a sent packet to the history of its pair (R456). -/
def noteSent (pair psn : Nat) (x : Conn) : Conn :=
  let h := mgetD x.pairLost pair [] ++ [psn * 2]
  { x with pairLost := mset x.pairLost pair (h.drop (h.length - 64)) }

/-- In ordered mode, a change of pair resends everything not acknowledged (R460). -/
def orderedMove (pair : Nat) (x : Conn) : Conn :=
  if !x.ordered || x.ordPair == pair then x
  else
    let f := fun (k : SendPkt) => if k.shown then k else { k with lost := true }
    { x with ordPair := pair, out := x.out.map (fun m => (m.1, { m.2 with pkts := m.2.pkts.map (fun k => (k.1, f k.2)) })) }

/-- Start a packet: it takes the next PSN, and its message the next MSN with its first packet (R418, R426). When every packet
of a final record has been sent once, the record has left (R450). -/
def startPacket (s : State) (p now : Nat) (c : Cand) : State :=
  match (mget s.conns c.conn).bind (fun x => (mget x.out c.key).map (fun m => (x, m))) with
  | none => s
  | some (x, m) =>
    let t := now - frameStartNs s.time
    let msn := if m.next = 0 then x.nextMsn % 2 ^ 32 else m.msn
    let old := mget m.pkts c.idx
    let k : SendPkt := ⟨x.txPsn, now, (old.map (fun k => k.tries + 1)).getD 0, c.pair, s.eg.rto, false, false, false⟩
    let m1 := { m with msn := msn, pkts := mset m.pkts c.idx k, next := if c.again then m.next else m.next + 1 }
    let hdr := if m.hdr.kind = 2 && m.hdr.region != 0 then { m.hdr with addr := (m.hdr.addr + c.idx * x.mps) % 2 ^ 64 } else m.hdr
    let keys := x.txKeys.hold (x.txPsn / 2 ^ 32) (x.txPsn / 2 ^ 32)
    let s := updConn s c.conn (fun x =>
      noteSent c.pair x.txPsn
        { countSend s true x with
          txKeys := keys
          txPsn := x.txPsn + 1, nextMsn := if m.next = 0 then x.nextMsn + 1 else x.nextMsn, out := mset x.out c.key m1
          ordPair := c.pair })
    let s := bindForward s c.conn c.key msn
    let s := putWire s c.conn { x with txKeys := keys } c.pair c.label c.tc 0x01 x.txPsn (x.txPsn / 2 ^ 32) 40
      [msn, c.idx, c.idx * x.mps, b2n (c.idx + 1 == m.hdr.pcount)] (some hdr) (pktBytes x m c.idx)
    let s := spend (meter s c.part 6 c.len) p c
    let s := if c.again then countRetx s p else noteOverrun s p t c m
    let s := updPort s p (fun y => { y with busy := now + ceilDiv (8 * c.len) (lineRate8 s p) })
    match m.cid with
    | some cid => if m.final && !c.again && m1.next == m.hdr.pcount then retireCmd s cid else s
    | none => s

/-- EGRESS_PACKET_START (R484): a port that is up and free chooses and starts its next packet, `now` ns into the node's time. An
ordered connection whose pair has died first moves to another. -/
def egressPacketStart (port now : Nat) (s : State) : State :=
  let x := portAt s port
  let t0 := frameStartNs s.time
  if !portPresent s port || !x.up || lineRate8 s port == 0 || decide (now < x.busy) || decide (now < t0) ||
      decide (t0 + frameNs s.time.len ≤ now) then s
  else
    let s := { s with conns := s.conns.map (fun e =>
      if e.2.opened && decide (0 < e.2.txPsn) then
        match pathOf s e.2 0 with
        | some r => (e.1, orderedMove r.1 e.2)
        | none => e
      else e) }
    match choosePacket s port (now - t0) with
    | none => s
    | some (c, f) => startPacket (updPort s port f) port now c

def execEgressPacketStart (port now : Nat) (s : State) : Host.Outcome State Fault Refusal :=
  .next (egressPacketStart port now s)

/-! ## The calendar wheel (R498) -/

/-- SHAPER_SLOT: every shaper and policer gains its rate, up to its burst. -/
def gain (x : Shaper) : Shaper := { x with credit := min (x.burst : Int) (x.credit + x.rate) }

/-- The wheel's slot on one port's subscriber shapers; one that is full again is no longer listed. -/
def gainPort (s : State) (x : Port) : Port :=
  let up := fun (e : Nat × Int) => (e.1, e.2 + ((partAt s e.1).shRate : Int))
  { x with shapers := (x.shapers.map up).filter (fun e => decide (e.2 < (((partAt s e.1).shBurst * 4096 : Nat) : Int))) }

def shaperSlot (s : State) : State :=
  { s with
    conns := s.conns.map (fun e => (e.1, { e.2 with shaper := gain e.2.shaper, policer := gain e.2.policer }))
    ports := s.ports.map (fun e => (e.1, gainPort s e.2)) }

def execShaperSlot (s : State) : Host.Outcome State Fault Refusal := .next (shaperSlot s)

/-! ## Gate control (R494–R496) -/

/-- The inactive list and the switch frame may be armed (R495). -/
def armOk (s : State) (x : Port) (sw : Nat) : Bool :=
  let l := 1 - x.active
  let os := (List.range (gateCount x l)).map (fun i => geOffset (gateEntry x l i))
  os.headD 0 == 0 && (os.zip (os.drop 1)).all (fun e => decide (e.1 < e.2)) &&
  (match widenFrame s.time.frame sw with
   | none => false
   | some f => decide ((s.time.frame : Int) + 2 ≤ f) && decide (f ≤ (s.time.frame : Int) + 65536))

/-- A COUNT field as stored: 1 to 16 (DEDUCED, log 31). -/
def clampCount (n : Nat) : Nat := if n = 0 then 1 else min n 16

/-- Write a port's COUNT of list l; the active list's, and any while an arm is pending, keeps its value (R494). -/
def writeCount (x : Port) (l n : Nat) : Port :=
  if x.active = l ∨ x.arm then x
  else if l = 1 then { x with count1 := clampCount n } else { x with count0 := clampCount n }

/-- A write of `GATE_CTL` (Table 12-4): `ERR` clears, a pending arm is withdrawn, counts are stored, and `ARM` is checked in
that same write. The active list's COUNT is always guarded, so each write counts as ignored (R692). -/
def writeGateCtl (s : State) (p value : Nat) : State :=
  let sw := bits value 63 32
  let s := updPort s p (fun x =>
    writeCount (writeCount { x with switchF := sw, err := x.err && !bit value 17, arm := x.arm && !bit value 18 } 1
      (bits value 13 9)) 0 (bits value 8 4))
  let s := noteIgnored s (portReg p 0x08)
  if !bit value 16 then s
  else if armOk s (portAt s p) sw then
    let f := match widenFrame s.time.frame sw with
      | some f => f.toNat
      | none => 0
    updPort s p (fun x => { x with arm := true, armFrame := f })
  else updPort s p (fun x => { x with arm := false, err := true })

/-- A write of an entry of a gate list (R494, Table 12-5). -/
def writeGateEntry (s : State) (p l i value : Nat) : State :=
  let x := portAt s p
  let v := value % 2 ^ 14 + bits value 23 18 * 2 ^ 18
  if x.active = l ∨ x.arm then noteIgnored s (portReg p (0x100 + 128 * l + 8 * i))
  else updPort s p (fun x => if l = 1 then { x with list1 := mset x.list1 i v } else { x with list0 := mset x.list0 i v })

/-- GATE_ARM (R495): a write of `GATE_CTL` with `ARM` set. -/
def gateArm (port value : Nat) (s : State) : State :=
  if !portPresent s port || 16 ≤ port || !bit value 16 then s else writeGateCtl s port value

def execGateArm (port value : Nat) (s : State) : Host.Outcome State Fault Refusal := .next (gateArm port value s)

/-- GATE_CANCEL (R496): a write of `GATE_CTL` with `CANCEL` set. -/
def gateCancel (port value : Nat) (s : State) : State :=
  if !portPresent s port || 16 ≤ port || !bit value 18 then s else writeGateCtl s port value

def execGateCancel (port value : Nat) (s : State) : Host.Outcome State Fault Refusal := .next (gateCancel port value s)

/-- GATE_LIST_SWITCH (R496). -/
def gateListSwitch (port : Nat) (s : State) : State :=
  let x := portAt s port
  if !portPresent s port || !x.arm || decide (s.time.frame < x.armFrame) then s
  else
    raise (updPort s port (fun x => { x with active := 1 - x.active, arm := false })) 0x0507 none (unitId (portUnit port))
      (1 - x.active)

def execGateListSwitch (port : Nat) (s : State) : Host.Outcome State Fault Refusal := .next (gateListSwitch port s)

/-! ## Frame starts -/

/-- Bytes of an event record (Table 11-18). -/
def evBytes (dropped : Bool) (r : EvRec) : Bytes :=
  leBytes 32 (packFields
    [(0, 16, r.code), (16, 16, r.flags ||| b2n dropped), (32, 8, r.part), (64, 64, r.frame), (128, 64, r.subject),
     (192, 64, r.data)])

/-- EVT_SEND (R473): one message of up to 64 records, oldest first, the first carrying `DROPPED` when records were lost. -/
def sendEvents (s : State) (c : Nat) : State :=
  match mget s.conns c with
  | none => s
  | some x =>
    if !x.opened || x.events.isEmpty then s
    else
      let first := x.events.take 64
      let body := (first.zip (List.range first.length)).flatMap (fun e => evBytes (x.dropNote && e.2 == 0) e.1)
      let s := updConn s c (fun x => { x with events := x.events.drop 64, dropNote := false })
      queueMsg s c 1 (plainMsg 3 0) body 128 none false 0

/-- Events that end a connection's frame: policed packets (R505) and tag failures (R423). -/
def noteConnFrame (s : State) (c : Nat) (x : Conn) : State :=
  let s := if 0 < x.polDrops then raise s 0x0704 none c x.polDrops else s
  let s := if 64 ≤ x.authFails then raise s 0x0701 none c x.authFails else s
  updConn s c (fun x => { x with polDrops := 0, authFails := 0 })

/-- Ceiling of a connection's rate: the line rates of the ports in its pair list (R500). -/
def rateCeiling (s : State) (x : Conn) : Nat :=
  ((distinct ((pairList s x).map (fun e => e.1))).map (lineUnits s)).sum

/-- CONGESTION_RATE_UPDATE (R500, R501). -/
def updateRate (s : State) (x : Conn) : Conn :=
  let top := rateCeiling s x
  let sh := x.shaper
  if x.ceFrame then
    { x with shaper := { sh with rate := min top (max s.eg.minRate (sh.rate - sh.rate / 2 ^ s.eg.dec)) }, ceFrame := false, quietFrames := 0 }
  else if s.eg.incFrames ≤ x.quietFrames + 1 then
    { x with shaper := { sh with rate := min top (sh.rate + s.eg.inc) }, quietFrames := 0 }
  else { x with shaper := { sh with rate := min top sh.rate }, quietFrames := x.quietFrames + 1 }

/-- A pending `XPORT_CTL` takes effect (R478). -/
def applyXport (s : State) : State :=
  match s.eg.xportNext with
  | none => s
  | some v =>
    { s with eg := { s.eg with
      xportNext := none, maxAge := max 1 (bits v 31 20), reorder := max 8 (bits v 15 8), rto := max 4 (bits v 7 0) } }

/-- A pending `CC_CTL` takes effect (R502, Table 12-7). -/
def applyCc (s : State) : State :=
  match s.eg.ccNext with
  | none => s
  | some v =>
    let dec := bits v 19 16
    { s with eg := { s.eg with
      ccNext := none, incFrames := max 1 (bits v 39 32), inc := max 1 (bits v 31 21)
      dec := if 1 ≤ dec && decide (dec ≤ 8) then dec else 8, minRate := max 1 (bits v 10 0) } }

/-- A pending `IPOL_CTL` takes effect on every policer (R506, Table 12-8). -/
def applyIpol (s : State) : State :=
  match s.eg.ipolNext with
  | none => s
  | some v =>
    let rate := bits v 14 0
    let burst := max 1 (bits v 31 24)
    let chg := bit v 15
    let changed := rate != s.eg.prate || burst != s.eg.pburst
    let f := fun (x : Shaper) =>
      if changed then { x with rate := rate, burst := 4096 * burst, credit := if chg then ((4096 * burst : Nat) : Int) else 0 } else x
    { s with
      eg := { s.eg with
        ipolNext := none, hsMax := bits v 47 40, ctlMax := bits v 39 32, pburst := burst, pchg := chg, prate := rate }
      conns := s.conns.map (fun e => (e.1, { e.2 with policer := f e.2.policer })) }

/-- A pending `EG_CTL` of a port takes effect (R483, Table 12-3). -/
def applyEgctl (x : Port) : Port :=
  match x.egctlNext with
  | none => x
  | some v =>
    { x with
      egctlNext := none
      q := [8, 16, 24, 32, 40].map (fun i => max 1 (bits v (i + 7) i))
      overhead := bits v 7 0 }

/-- Subscriber shapers whose partition's RATE or BURST has changed take the new values and the credit `CHG` selects (R499). -/
def applyShapers (s : State) : State :=
  forAll s s.parts (fun s (e : Nat × Part0) =>
    let p := e.2
    if p.egRate = p.shRate ∧ p.egBurst = p.shBurst then s
    else
      let k := e.1
      let ports := (List.range 21).filter (portPresent s)
      let s := updPart s k (fun p => { p with shRate := p.egRate, shBurst := p.egBurst })
      forAll s ports (fun s i => updPort s i (fun x =>
        { x with shapers := if p.egChg then mdel x.shapers k else mset x.shapers k 0 })))

/-- Every port takes its pending `EG_CTL`. -/
def applyPorts (s : State) : State := { s with ports := s.ports.map (fun e => (e.1, applyEgctl e.2)) }

/-- Every connection's rate is updated. -/
def updateRates (s : State) : State := { s with conns := s.conns.map (fun e => (e.1, updateRate s e.2)) }

/-- What a frame start does in egress. -/
def egressFrame (s : State) : State :=
  let noted := s.conns.foldl (fun s e => noteConnFrame s e.1 e.2) s
  let set := updateRates (applyPorts (applyShapers (applyIpol (applyCc (applyXport noted)))))
  set.conns.foldl (fun s e => sendEvents s e.1) set

end Sys2Proof.Machine
end

