-- ==== Sys2Proof/Machine/Connect.lean ====
section
/-!
DEFINITION. Opening connections (R463–R469, R471, R504): the handshake the node answers, the one it starts towards its time
parent and its board peers (R637, R663), and the key exchange with its checks and keys (R552, R566–R570).
-/

namespace Sys2Proof.Machine

/-! ## The key exchange (R568, R569, Table 14-5) -/

/-- Word j of anchor i (Table 14-9). -/
def anchorWord (s : State) (i j : Nat) : Nat := (mgetD s.crypto.anchors (8 * i + j) 0).toNat

def anchorValid (s : State) (i : Nat) : Bool := bit (anchorWord s i 6) 0

/-- The SHA-384 digest of an anchor, as a little-endian number. -/
def anchorDigest (s : State) (i : Nat) : Nat := packFields ((List.range 6).map (fun j => (64 * j, 64, anchorWord s i j)))

/-- The chain ends at a valid anchor of a set. -/
def inAnchors (s : State) (kx : Kx) (first n : Nat) : Bool :=
  !kx.gwecen && (List.range n).any (fun i => anchorValid s (first + i) && anchorDigest s (first + i) == kx.root)

/-- The certificates are within their validity at the node's UTC time; while it is not set none is checked (R569). -/
def inValidity (s : State) (kx : Kx) : Bool :=
  !s.crypto.utcSet || (decide (kx.notBefore ≤ s.crypto.utcSecs) && decide (s.crypto.utcSecs ≤ kx.notAfter))

/-- The block itself verifies: suite, version, the chain, the signature of its leaf key over a digest (R566), and validity. -/
def kxSound (s : State) (kx : Kx) (digest : Bytes) : Bool :=
  kx.suite == 1 && kx.kxver == 1 && kx.chainOk && Config.ecdsaOk (Config.leafKey kx.chain) digest kx.sig && inValidity s kx

/-- A node the current or the pending map lists. -/
def mapMember (s : State) (nodeId : Nat) : Bool :=
  [s.maps.cur, s.maps.pend].any (fun m => m.any (fun m => m.members.any (fun e => e.nodeId == nodeId)))

/-- The key exchange of a request on a port is accepted (R568); `digest` is what its initiator signs. -/
def kxAccepted (s : State) (port : Nat) (mgmt : Bool) (kx : Kx) (digest : Bytes) : Bool :=
  kxSound s kx digest &&
  (if port = 20 then mgmt && s.crypto.utcSet && inAnchors s kx 0 8
   else if mgmt then false
   else if port < 16 then (s.crypto.utcSet && inAnchors s kx 8 32) || (kx.gwecen && mapMember s kx.nodeId)
   else kx.gwecen)

/-! ## Connection IDs and new connections (R468, R469) -/

/-- The lowest connection ID free in the half of a port's hub; both halves on an A12, whose IDs all belong to hub 0. -/
def freeConn (s : State) (port : Nat) : Option Nat :=
  let base := if hubOfPort port = 1 then 32768 else 0
  let top := if hub1Present s then base + 32768 else 65536
  (mfree s.conns (s.conns.length + 1) base).bind (fun i => if i < top then some i else none)

/-- MPS in bytes of its code (Table 11-16). -/
def mpsBytes (code : Nat) : Nat := 1024 * 2 ^ min code 2

/-- Bits of the addresses that are not zero. -/
def addrBits (addrs : List Nat) : Nat :=
  ((addrs.zip (List.range addrs.length)).map (fun e => if e.1 = 0 then 0 else 2 ^ e.2)).sum

/-- A connection of generation `gen` as its handshake sets it up, its counters at 0 (R418), its shaper and policer full. -/
def newConn (s : State) (port src : Nat) (h : HsHdr) (node : Nat) (addrs : List Nat) (gen mps : Nat) : Conn :=
  { opened := false, initiator := false, peerId := h.scid, peerNode := node, gen := gen, ordered := h.ordreq || gen == 1,
    mps := mps, mgmt := h.mgmt, evmask := h.evmask, peerAddrs := addrs, peerLive := addrBits addrs, peerPseq := none,
    ownPseq := 0, src := src, created := s.time.frame, onBoard := decide (16 ≤ port) && decide (port < 20), txPsn := 0,
    txCsn := 0, nextMsn := 0, out := [], peerFloor := 0, rxPsn := none, rxCsn := none, keyLow := 0, floor := 0,
    states := [], inMsgs := [], failLog := [], seenPsn := [], newestAt := 0, owedAck := 0, ceSeen := 0, flushes := [],
    ordNext := (0, 0), pairBad := [], pairLost := [], probes := [], ordPair := 0, grants := [], authFails := 0,
    polDrops := 0, ctlCount := 0, events := [], dropNote := false, shaper := ⟨16384, 0, 16384⟩,
    policer := ⟨((4096 * s.eg.pburst : Nat) : Int), s.eg.prate, 4096 * s.eg.pburst⟩, ceFrame := false, quietFrames := 0,
    held := [], rsp := none, txKeys := ⟨0, [], []⟩, rxKeys := ⟨0, [], []⟩, own := none, sends := [] }

/-- A connection's rate starts at its ceiling (R500). -/
def startRate (s : State) (x : Conn) : Conn := { x with shaper := { x.shaper with rate := rateCeiling s x } }

/-! ## Handshake packets (Table 11-16) -/

/-- Generations the node supports, as `GENS` (R464). -/
def ownGens : Nat := 6

/-- The highest generation two `GENS` fields share (R465). -/
def commonGen (gens : Nat) : Option Nat := if bit gens 2 then some 2 else if bit gens 1 then some 1 else none

/-- The nonce and the ephemeral private key of the latest draw (R551). -/
def drawnNonce (s : State) : Bytes := (Config.drawBytes s.crypto.draws 128).take 32
def drawnPriv (s : State) : Bytes := slice (Config.drawBytes s.crypto.draws 128) 32 48

/-- The addresses a handshake lists: those of the fabric ports, 0 for a port that is absent or down. -/
def ownAddrs (s : State) : List Nat := (List.range 16).map (fun p => if bit (liveSet s) p then portAddr s p else 0)

/-- A handshake packet of the node from its base header to the end of `CHAIN`, with the latest draw's nonce and ephemeral
key and the alias chain (R546). -/
def ownToChain (s : State) (ptype dcid : Nat) (ord : Bool) (gen : Nat) (h : HsHdr) : Bytes :=
  hsToChain ⟨s.time.frame % 2 ^ 32, 0, dcid, 0, ord, 1, gen, ptype⟩ h (ownAddrs s) 1 1 (fitTo 32 (drawnNonce s))
    (fitTo 97 (Config.p384Public (drawnPriv s))) (aliasChain s)

/-- A handshake packet in clear: header, 16 addresses of the node's ports, a key-exchange block, and the alias key's signature
over `digest` (R566). -/
def hsPacket (s : State) (conn port dst ptype dcid : Nat) (ord : Bool) (gen : Nat) (h : HsHdr) (digest : Bytes) : TxPkt :=
  let body := ownToChain s ptype dcid ord gen h ++
    signWith s.crypto.aliasKey digest ((Config.drawBytes s.crypto.draws 128).drop 80)
  { conn := conn, port := port, dst := dst, tc := 1, ptype := ptype, label := 0, flow := conn % 4096,
    sport := s.eg.sportBase, dport := s.eg.udpPort, ect := false, dscp := dscpOf s 1, sframe := s.time.frame % 2 ^ 32,
    psn := 0, dcid := dcid, keyno := 0, ord := ord, tgen := gen,
    fields := [h.scid, h.gens, h.mps, b2n ord, b2n h.mgmt, h.status, 16, 232 + (aliasChain s).length, h.evmask, liveSet s],
    msg := none, payload := body.drop 32,
    charged := ((((66 + body.length : Nat) : Int) + sext 8 (portAt s port).overhead)).toNat
    frame := ethFrame s port dst (dscpOf s 1) 0 (conn % 4096) 0 s.eg.sportBase s.eg.udpPort body }

/-- The digest an initiator signs in a request, and TH over the request and the answer to the end of `CHAIN` (R566). -/
def reqDigest (p : RxBase) (h : HsHdr) (addrs : List Nat) (kx : Kx) : Bytes := sha384 (rxToChain 0x10 p h addrs kx)

/-- Put a handshake packet on the wire. -/
def sendHs (s : State) (k : TxPkt) : State :=
  countTx { s with out := { s.out with wire := s.out.wire ++ [k] } } k.port k.charged

/-- Count a refused handshake (Table 14-8). -/
def countRefused (s : State) : State := { s with crypto := { s.crypto with hsFail := satTo 65535 (s.crypto.hsFail + 1) } }

/-- A new key exchange draws its nonce and ephemeral key (R551). -/
def countDraw (s : State) : State := { s with crypto := { s.crypto with draws := s.crypto.draws + 1 } }

/-! ## CONNECT_REQ (R464, R467) -/

/-- The answer to a request: the header with the node's values, signed over TH. -/
def answerHs (s : State) (conn : Nat) (p : RxBase) (h : HsHdr) (addrs : List Nat) (kx : Kx) (ord : Bool) (gen scid st : Nat) : TxPkt × Bytes :=
  let r : HsHdr := ⟨h.evmask, st, h.mgmt, ord, min h.mps s.eg.mpsMax, ownGens, scid⟩
  let th := sha384 (rxToChain 0x10 p h addrs kx ++ kx.sig ++ ownToChain s 0x11 h.scid ord gen r)
  (hsPacket s conn p.port p.src 0x11 h.scid ord gen r th, th)

/-- Handle a request as new (R464, of either generation; DEDUCED, log 167). -/
def newRequest (s : State) (p : RxBase) (h : HsHdr) (addrs : List Nat) (kx : Kx) : State :=
  let mps := min h.mps s.eg.mpsMax
  let s := countDraw s
  let refuse := fun (st : Nat) =>
    countRefused (sendHs s (answerHs s 0 p h addrs kx false 0 0 st).1)
  match commonGen h.gens with
  | none => refuse 0x0F
  | some gen =>
    match freeConn s p.port with
    | none => refuse 0x03
    | some i =>
      if (h.mgmt && p.port != 20) || !kxAccepted s p.port h.mgmt kx (reqDigest p h addrs kx) then refuse 0x0E
      else
        let x := startRate s (newConn s p.port p.src h kx.nodeId addrs gen (mpsBytes mps))
        let a := answerHs s i p h addrs kx x.ordered gen i 0
        let keys := linkKeys (kx.nonce ++ fitTo 32 (drawnNonce s)) (Config.ecdh (drawnPriv s) kx.epk) a.2
        sendHs { s with conns := mset s.conns i { x with rsp := some a.1, rxKeys := keys.1.hold 0 1, txKeys := keys.2 } } a.1

/-- CONNECT_REQ: the limit of R504, a request repeated (R467), and a new one. It is dropped while the DRBG cannot draw
(R552). -/
def connectReq (p : RxBase) (h : HsHdr) (addrs : List Nat) (kx : Kx) (s : State) : State :=
  if !rxFrame s p then s
  else
    let s := countRx s p.port p.wireBytes
    if p.rsvd then s
    else if s.eg.hsMax ≤ (portAt s p.port).hsCount then countDrop s
    else
      let s := updPort s p.port (fun x => { x with hsCount := x.hsCount + 1 })
      match s.conns.find? (fun e => !e.2.initiator && e.2.src == p.src && e.2.peerId == h.scid) with
      | none => if s.crypto.drbgOk then newRequest s p h addrs kx else s
      | some (i, x) =>
        if !x.opened then
          match x.rsp with
          | some k => sendHs s k
          | none => s
        else
          let s := closeByNode s i 0x02
          if s.crypto.drbgOk then newRequest s p h addrs kx else s

def execConnectReq (p : RxBase) (h : HsHdr) (addrs : List Nat) (kx : Kx) (s : State) : Host.Outcome State Fault Refusal :=
  .next (connectReq p h addrs kx s)

/-! ## CONNECT_CFM (R466, R570) -/

/-- CONNECT_CFM: control packet 0 under key 0 opens the connection. On a connection already open it changes nothing. -/
def connectCfm (p : RxBase) (scid : Nat) (s : State) : State :=
  match mget s.conns p.dcid with
  | none => if rxFrame s p then countRx s p.port p.wireBytes else s
  | some x =>
    if x.opened then (rxControl s p).1
    else if !rxFrame s p then s
    else
      let s := countRx s p.port p.wireBytes
      if p.rsvd || x.initiator || p.psn != 0 || p.keyph != 0 then s
      else if p.tagKey ≠ some 0 then updConn s p.dcid (fun x => { x with authFails := x.authFails + 1 })
      else if (aged s p.dcid x && !ageOk s p.sframe) || scid != x.peerId || s.eg.ctlMax == 0 then s
      else updConn s p.dcid (fun x => { x with opened := true, rxCsn := some 0, ctlCount := 1, rsp := none })

def execConnectCfm (p : RxBase) (scid : Nat) (s : State) : Host.Outcome State Fault Refusal := .next (connectCfm p scid s)

/-- CONNECT_CFM_TIMEOUT (R466). -/
def connectCfmTimeout (conn : Nat) (s : State) : State :=
  match mget s.conns conn with
  | none => s
  | some x => if x.opened || x.initiator || decide (s.time.frame < x.created + 1024) then s else closeConn s conn 0

def execConnectCfmTimeout (conn : Nat) (s : State) : Host.Outcome State Fault Refusal := .next (connectCfmTimeout conn s)

/-! ## Connections the node opens (R637, R663) -/

/-- Send a `CONNECT_REQ` on a port to a node's address, and hold the connection until its answer. -/
def openConn (s : State) (port dst node : Nat) : State :=
  match freeConn s port with
  | none => s
  | some i =>
    if !(portAt s port).up || !s.crypto.drbgOk then s
    else
      let h : HsHdr := ⟨0, 0, false, false, s.eg.mpsMax, ownGens, 0⟩
      let s := countDraw s
      let r := { h with scid := i }
      let req := ownToChain s 0x10 0xFFFFFFFF false 0 r
      let k := hsPacket s i port dst 0x10 0xFFFFFFFF false 0 r (sha384 req)
      let own : HsOwn := ⟨drawnPriv s, fitTo 32 (drawnNonce s), baseBytes ⟨k.sframe, 0, 0xFFFFFFFF, 0, false, 1, 0, 0x10⟩ ++
        hsBytes r 16 (232 + (aliasChain s).length) ++ k.payload⟩
      let x := { newConn s port dst h node [dst] 2 (mpsBytes s.eg.mpsMax) with initiator := true, own := some own }
      let s := if x.onBoard then s else updTime s (fun t => { t with joinConn := some i, joinFrame := none })
      sendHs { s with conns := mset s.conns i x } k

/-- The current map's entry of this node's time parent. -/
def timeParent (s : State) : Option Member :=
  s.maps.cur.bind (fun m => (selfIndex s m).bind (fun i => (m.members[i]?).bind (fun e => m.members[e.parent]?)))

/-- The open connection to the time parent (R474). -/
def parentConn (s : State) : Option Nat :=
  (timeParent s).bind (fun m => (s.conns.find? (fun e => e.2.opened && !e.2.mgmt && e.2.peerNode == m.nodeId)).map (fun e => e.1))

/-- Open the connection to the time parent the current map names, when a node of this tick mode joins by it (R637). -/
def openParent (s : State) : State :=
  match timeParent s with
  | none => s
  | some m =>
    if !(s.time.tickMode == 0 || s.time.tickMode == 2) || (parentConn s).isSome then s
    else match (List.range 16).find? (fun p => portPresent s p && (portAt s p).up) with
      | none => s
      | some p => openConn s p m.addr m.nodeId

/-- Ask a time parent for its capabilities, its frame number among them (R637). -/
def askCaps (s : State) (c : Nat) : State :=
  queueMsg s c 2 (plainMsg 1 0)
    (hdrBytes ⟨opCAPS, 1, 0, 0, 0, 0, 0, 0, 0, 0, 0, 0, 0, 0, 0, 0, false⟩) 128 none false 0

/-- TH of an answer to the node's own request (R566). -/
def answerTh (x : Conn) (p : RxBase) (h : HsHdr) (addrs : List Nat) (kx : Kx) : Bytes :=
  sha384 ((x.own.map (fun o => o.req)).getD [] ++ rxToChain 0x11 p h addrs kx)

/-- The initiator's keys of a connection (R567); its ephemeral key goes. -/
def initiatorKeys (x : Conn) (kx : Kx) (th : Bytes) : Conn :=
  match x.own with
  | none => x
  | some o =>
    let keys := linkKeys (o.nonce ++ kx.nonce) (Config.ecdh o.priv kx.epk) th
    { x with txKeys := keys.1, rxKeys := keys.2.hold 0 1, own := none }

/-- CONNECT_RSP: take the answer to a connection the node opened. A refusal, or a key exchange that does not prove a Gwecen
node — the parent the map names, or a board peer — frees it; else the node sends `CONNECT_CFM` under key 0. -/
def connectRsp (p : RxBase) (h : HsHdr) (addrs : List Nat) (kx : Kx) (s : State) : State :=
  if !rxFrame s p then s
  else
    let s := countRx s p.port p.wireBytes
    match mget s.conns p.dcid with
    | none => s
    | some x =>
      if p.rsvd || x.opened || !x.initiator || (aged s p.dcid x && !ageOk s p.sframe) then s
      else
        let drop := { s with
          conns := mdel s.conns p.dcid
          time := { s.time with joinConn := if s.time.joinConn = some p.dcid then none else s.time.joinConn } }
        match commonGen h.gens with
        | none => drop
        | some gen =>
          if h.status ≠ 0 ∨ !kxSound s kx (answerTh x p h addrs kx) ∨ !kx.gwecen ∨ (!x.onBoard ∧ kx.nodeId ≠ x.peerNode) then drop
          else
            let up := fun (x : Conn) =>
              { x with
                opened := true, peerId := h.scid, peerNode := kx.nodeId, gen := gen, ordered := h.ordreq || gen == 1
                mps := mpsBytes (min h.mps s.eg.mpsMax)
                peerAddrs := if x.onBoard then x.peerAddrs else addrs
                peerLive := if x.onBoard then x.peerLive else addrBits addrs }
            let s := updConn s p.dcid (fun x => startRate s (up (initiatorKeys x kx (answerTh x p h addrs kx))))
            let s := sendCtl s p.dcid 0x12 16 [p.dcid, 0, 0, 0, 0, 0, 0, 0, 0]
            if s.time.joinConn = some p.dcid then askCaps s p.dcid else s

def execConnectRsp (p : RxBase) (h : HsHdr) (addrs : List Nat) (kx : Kx) (s : State) : Host.Outcome State Fault Refusal :=
  .next (connectRsp p h addrs kx s)

end Sys2Proof.Machine
end

