-- ==== Sys2Proof/Machine/TimeSync.lean ====
section
/-!
DEFINITION. Fabric time (R33–R37, R474–R476, R637, R665–R667): synchronisation packets, the phase, the tick line and the time
join. Local times are in units of 2^−16 ns.
-/

namespace Sys2Proof.Machine

/-- Units of 2^−16 ns in a ns and in a base interval. -/
def nsUnits : Int := 65536
def bintUnits : Int := 2048 * 65536

/-- The least path delay of the last 8 exchanges; 0 before the first (DEDUCED, log 33). -/
def minDelay (t : Time) : Int :=
  match t.delays with
  | [] => 0
  | d :: r => r.foldl min d

/-- R476: the phase error a `TIME_SYNC` shows. -/
def phaseError (t : Time) (h : TimeHdr) : Int :=
  h.trx - ((h.bint : Int) * bintUnits + (h.sub : Int) + h.corr + minDelay t)

/-- R476: the path delay an exchange measures. -/
def pathDelay (t1 : Int) (h : TimeHdr) : Int := ((h.trx - t1) - (h.sub : Int) - sext 64 h.bint - h.corr) / 2

/-- A phase error in ns, saturated as `PHASE_ERR` holds it (Table 2-2). -/
def errNs (e : Int) : Int := max (-32767) (min 32767 (e / nsUnits))

/-- Within ±20 ns: locked (R33, Table 2-2). -/
def inLock (e : Int) : Bool := decide (-(20 * nsUnits) ≤ e) && decide (e ≤ 20 * nsUnits)

/-- Beyond ±384 ns (R37). -/
def outOfSync (e : Int) : Bool := decide (e < -(384 * nsUnits)) || decide (384 * nsUnits < e)

/-- Take a phase error: in spring the phase steps at once (R637); after it, it slews (R33) unless synchronisation is lost, when
admission stops and the step waits for a frame with no admitted work (R37). -/
def takePhase (s : State) (e : Int) : State :=
  let s := updTime s (fun t => { t with phaseErr := errNs e, locked := inLock e, quiet := 0, holdover := false })
  if s.life.state = 0 then updTime s (fun t => { t with phase := t.phase - e, slew := 0 })
  else if s.time.resync.isSome then updTime s (fun t => { t with resync := some e })
  else if outOfSync e then
    let s := updTime s (fun t => { t with lost := true, resync := some e, slew := 0 })
    raise { s with adm := { s.adm with stopped := true } } 0x0003 none 0 (wrapInt 64 (e / nsUnits))
  else updTime s (fun t => { t with slew := -e })

/-- One base interval's slew: at most 0.25 ns (R33). -/
def slewStep (t : Time) : Time :=
  let d := max (-16384) (min 16384 t.slew)
  { t with slew := t.slew - d, phase := t.phase + d }

/-! ## The time join (R637) -/

/-- Set the counters to a base interval and the frame that holds it, `e` base intervals after one that starts frame f: spring step 0x09
(R634). What spring had placed at frames of the free-running count moves to the next frame (DEDUCED, log 34). -/
def setCounters (s : State) (f b e len : Nat) : State :=
  let n := bintsPerFrame len
  let frame := if len = 0 then f + 2 * e else f + e / n
  let s := updTime (rescaleEnergy s len) (fun t =>
    { t with frame := frame, bint := b + e, left := n - 1 - e % n, half := false, len := len, lenPend := none, joined := true })
  let later := fun (c : Cmd) => if c.st = .queued then { c with target := frame + 1 } else c
  { s with life := { s.life with step := 9 }, adm := { s.adm with
    closed := frame
    effs := s.adm.effs.map (fun e => { e with frame := frame + 1 })
    cmds := s.adm.cmds.map (fun e => (e.1, later e.2)) } }

/-- The frame number a `TIME_SYNC` names: the one within 2^31 − 1 of the parent's frame whose low bits are `SFRAME`. -/
def joinFrameOf (near sframe : Nat) : Nat :=
  match widenFrame near sframe with
  | some f => f.toNat
  | none => near

/-- Join by a `TIME_SYNC`: the interval it describes had `OBINT`; the local one is as many later as have passed since. -/
def joinSync (s : State) (sframe near : Nat) (h : TimeHdr) : State :=
  let e := ((h.sub : Int) + h.corr) / bintUnits
  let len := match s.maps.cur with
    | some m => m.len
    | none => s.time.len
  takePhase (setCounters s (joinFrameOf near sframe) h.bint e.toNat len) (phaseError s.time h)

/-- The node joins fabric time by its parent's messages (R637). -/
def joins (s : State) : Bool :=
  s.life.state == 0 && !s.time.joined && (s.time.tickMode == 0 || s.time.tickMode == 2)

/-- TIME_JOIN (R637). -/
def timeJoin (p : RxBase) (j : JoinMsg) (s : State) : State :=
  match j with
  | .sync h =>
    if !joins s || parentConn s != some p.dcid then s
    else match rxControl s p, s.time.joinFrame with
      | (s, some _), some near => joinSync s p.sframe near h
      | (s, _), _ => s
  | .lead frame bint =>
    if s.life.state != 0 || s.time.joined || s.time.tickMode != 1 || boardConn s (leadPos s) != some p.dcid then s
    else match rxControl s p with
      | (s, some _) => setCounters s frame bint 0 s.time.len
      | (s, none) => s

def execTimeJoin (p : RxBase) (j : JoinMsg) (s : State) : Host.Outcome State Fault Refusal := .next (timeJoin p j s)

/-! ## Time packets -/

/-- TIME_SYNC (R476): only an authenticated one from the time parent counts (R36). -/
def timeSync (p : RxBase) (h : TimeHdr) (s : State) : State :=
  match rxControl s p with
  | (s, none) => s
  | (s, some _) =>
    if parentConn s != some p.dcid then s
    else if joins s then
      match s.time.joinFrame with
      | some near => joinSync s p.sframe near h
      | none => s
    else if s.time.tickMode == 3 || (s.time.tickMode == 1 && !s.time.byLinks) then
      updTime s (fun t => { t with quiet := 0, holdover := false })
    else takePhase s (phaseError s.time h)

def execTimeSync (p : RxBase) (t : TimeHdr) (s : State) : Host.Outcome State Fault Refusal := .next (timeSync p t s)

/-- The connections of this node's time children: open, to nodes whose entry of the current map names it as parent (R474). -/
def childConns (s : State) : List Nat :=
  match s.maps.cur with
  | none => []
  | some m =>
    match selfIndex s m with
    | none => []
    | some i =>
      let kids := (m.members.filter (fun e => e.parent == i)).map (fun e => e.nodeId)
      (s.conns.filter (fun e => e.2.opened && !e.2.mgmt && kids.contains e.2.peerNode)).map (fun e => e.1)

/-- TIME_SYNC_SEND (R475): to each child at the start of a base interval with `FRAME.BINT` mod 16 = 0. -/
def sendSyncs (s : State) : State :=
  if s.time.bint % 16 ≠ 0 then s
  else
    let n := s.time.syncNo % 2 ^ 32
    forAll (updTime s (fun t => { t with syncNo := t.syncNo + 1 })) (childConns s)
      (fun s c => sendCtl s c 0x18 24 [s.time.bint, 0, n, 0])

/-- TIME_DREQ (R475): a child's request, answered with the turnaround. -/
def timeDreq (p : RxBase) (h : TimeHdr) (turn : Nat) (s : State) : State :=
  match rxControl s p with
  | (s, none) => s
  | (s, some _) =>
    if (childConns s).contains p.dcid then sendCtl s p.dcid 0x1A 24 [wrapInt 64 h.corr, turn % 2 ^ 32, h.seq, 0] else s

def execTimeDreq (p : RxBase) (t : TimeHdr) (turn : Nat) (s : State) : Host.Outcome State Fault Refusal :=
  .next (timeDreq p t turn s)

/-- TIME_DREQ_SEND (R475): every 256 base intervals, at local time `now`. -/
def timeDreqSend (now : Nat) (s : State) : State :=
  match parentConn s with
  | none => s
  | some c =>
    if s.time.sinceDreq < 256 then s
    else
      let n := s.time.dreqNo % 2 ^ 32
      let s := updTime s (fun t => { t with dreq := some (n, now), dreqNo := t.dreqNo + 1, sinceDreq := 0 })
      sendCtl s c 0x19 24 [0, 0, n, 0]

def execTimeDreqSend (now : Nat) (s : State) : Host.Outcome State Fault Refusal := .next (timeDreqSend now s)

/-- TIME_DRSP (R476): the path delay of the exchange joins the last 8. -/
def timeDrsp (p : RxBase) (h : TimeHdr) (s : State) : State :=
  match rxControl s p with
  | (s, none) => s
  | (s, some _) =>
    match s.time.dreq with
    | none => s
    | some (n, t1) =>
      if parentConn s != some p.dcid || n != h.seq then s
      else updTime s (fun t =>
        { t with dreq := none, delays := (pathDelay t1 h :: t.delays).take 8 })

def execTimeDrsp (p : RxBase) (t : TimeHdr) (s : State) : Host.Outcome State Fault Refusal := .next (timeDrsp p t s)

/-- FRAME_HOLDOVER (R36): no timing message accepted for 16,384 base intervals. -/
def frameHoldover (s : State) : State :=
  if !awake s || s.time.holdover || decide (s.time.quiet < 16384) then s
  else raise (updTime s (fun t => { t with holdover := true })) 0x0002 none 0 0

def execFrameHoldover (s : State) : Host.Outcome State Fault Refusal := .next (frameHoldover s)

/-! ## The tick line (R35, R665, R667) -/

/-- The follower leaves the tick: it follows fabric time over its board links, and its frame number stays (R35). -/
def tickLost (s : State) : State :=
  raise (updTime s (fun t => { t with byLinks := true, badTicks := 0, goodTicks := 0 })) 0x0001 none 0 0

/-- FTICK_EDGE: a pulse of `width` ns at the start of a base interval. Its marker is checked against `FRAME.BINT`; the fourth
wrong one in a row loses the tick; after 16 right ones it is taken back where `FRAME.BINT` mod 16 is 0 (R667). -/
def ftickEdge (width : Nat) (s : State) : State :=
  if s.time.tickMode ≠ 1 then s
  else
    let marker := decide (128 ≤ width)
    let start := s.time.bint % 16 == 0
    if marker == start then
      updTime s (fun t =>
        let back := t.byLinks && start && decide (16 ≤ t.goodTicks + 1)
        { t with
          badTicks := 0, goodTicks := t.goodTicks + 1, byLinks := t.byLinks && !back
          locked := t.locked || (t.joined && (!t.byLinks || back)) })
    else
      let s := updTime s (fun t => { t with badTicks := t.badTicks + 1, goodTicks := 0 })
      if 4 ≤ s.time.badTicks && !s.time.byLinks then tickLost s else s

def execFtickEdge (width : Nat) (s : State) : Host.Outcome State Fault Refusal := .next (ftickEdge width s)

/-- FRAME_TICK_LOST (R35): four expected edges in a row are missing. -/
def frameTickLost (s : State) : State := if s.time.tickMode ≠ 1 ∨ s.time.byLinks then s else tickLost s

def execFrameTickLost (s : State) : Host.Outcome State Fault Refusal := .next (frameTickLost s)

/-- The width of the pulse the node drives on `FTICK_OUT` at the start of a base interval, 0 for none (R664, R665). -/
def tickPulse (s : State) : Nat :=
  let drives := (s.time.tickMode == 2 || s.time.tickMode == 3) && (s.hw.gsize == 0 || isLead s)
  if !drives then 0 else if s.time.bint % 16 = 0 then 192 else 64

/-! ## Resynchronisation (R37) -/

/-- No command, job or migration copy has work admitted for frame n or later: no plan ends there, whether or not its
result is known, and nothing is reserved. -/
def noAdmitted (s : State) (n : Nat) : Bool :=
  s.adm.cmds.all (fun e => match e.2.plan with
    | some p => decide (p.service < n) && decide (p.cframe < n) && decide (p.outFrame < n)
    | none => true) &&
  s.adm.jobs.all (fun j => j.2.granted.isNone) && s.adm.res.all (fun r => decide (r.1 < n)) &&
  (s.hub0.migs ++ s.hub1.migs).all (fun m => m.2.copies.isEmpty)

/-- At a frame boundary with no admitted work, the phase steps and admission resumes. -/
def resyncFrame (s : State) : State :=
  match s.time.resync with
  | none => s
  | some e =>
    if noAdmitted s s.time.frame then
      { updTime s (fun t => { t with phase := t.phase - e, resync := none }) with adm := { s.adm with stopped := false } }
    else s

end Sys2Proof.Machine
end

