-- ==== Sys2Proof/Machine/MapRows.lean ====
section
/-!
DEFINITION. Composition maps: loading and cancelling one (R528–R531, R636, R647, R660), the equinox (R532, R653) and the end
of grace.
-/

namespace Sys2Proof.Machine

/-! ## Reading a map (Tables 13-9 to 13-11) -/

/-- Member entry i of a map's bytes. -/
def readMember (bs : Bytes) (i : Nat) : Member :=
  let o := 64 + 32 * i
  { nodeId := leAt bs o 8, addr := leAt bs (o + 8) 16, group := leAt bs (o + 24) 2, pos := leAt bs (o + 26) 1,
    gsize := leAt bs (o + 27) 1, parent := leAt bs (o + 28) 2, ver := leAt bs (o + 30) 2 }

/-- The shard entries, from shard `i` up, that are not unassigned in both fields. -/
def readShards (fuel i : Nat) (bs : Bytes) : SMap Nat :=
  match fuel with
  | 0 => []
  | f + 1 =>
    let e := leAt bs 0 8
    let r := readShards f (i + 1) (bs.drop 8)
    if e = packFields [(0, 16, 0xFFFF), (16, 16, 0xFFFF)] then r else (i, e) :: r

/-- A map of n members from its bytes. -/
def readMap (bs : Bytes) (n : Nat) : CompMap :=
  { epoch := leAt bs 0 4, mixed := bit (leAt bs 4 4) 0, len := bits (leAt bs 4 4) 2 1, equinox := leAt bs 8 8,
    grace := leAt bs 16 4, root := leAt bs 22 2, members := (List.range n).map (readMember bs),
    shards := readShards 65536 0 (bs.drop (64 + 32 * n)) }

/-- A member index below n or 0xFFFF. -/
def indexOk (n i : Nat) : Bool := decide (i < n) || i == 0xFFFF

/-- Following time parents from a member ends, within the number of members. -/
def parentsEnd (fuel : Nat) (ms : List Member) (i : Nat) : Bool :=
  match fuel with
  | 0 => false
  | f + 1 =>
    match ms[i]? with
    | none => true
    | some m => if m.parent = 0xFFFF then true else parentsEnd f ms m.parent

/-- The node's own entry agrees with its straps (R660) and version (R647). -/
def ownEntryOk (s : State) (m : CompMap) : Bool :=
  m.members.all (fun e => e.nodeId != s.crypto.nodeId ||
    (e.pos == s.hw.pos && e.gsize == s.hw.gsize && (e.group == 0xFFFF) == (s.hw.gsize == 0) && e.ver == nodeVer s))

/-- The map is well formed (R530, R647, R660): sub-code 0x06 when not. -/
def mapOk (s : State) (bs : Bytes) (n : Nat) (m : CompMap) : Bool :=
  bs.length == 64 + 32 * n + 524288 && decide (1 ≤ n) && decide (n ≤ 4096) && allZero (slice bs 24 40) &&
  decide (leAt bs 4 4 < 8) && decide (16 ≤ m.grace) && decide (m.grace ≤ 65536) && indexOk n m.root &&
  m.members.all (fun e => indexOk n e.parent) &&
  m.shards.all (fun e => bits e.2 63 47 == 0 && indexOk n (bits e.2 15 0) && indexOk n (bits e.2 31 16)) &&
  (List.range n).all (parentsEnd (n + 1) m.members) &&
  (m.mixed || m.members.all (fun e => m.members.all (fun f => e.ver == f.ver))) && ownEntryOk s m

/-- The equinox frame may be used (R530): sub-code 0x08 when not. -/
def equinoxOk (s : State) (m : CompMap) : Bool :=
  let f := m.equinox
  let b := bintOf s.time f
  decide (s.time.frame + 4 ≤ f) && decide (f ≤ s.time.frame + 65536) && (s.maps.old.isNone || decide (s.maps.oldEnd ≤ f)) &&
  (m.len == s.time.len || (b.1 % 16 == 0 && !b.2))

/-! ## Loading and cancelling -/

/-- The map epoch in force. -/
def curEpoch (s : State) : Nat := epochOf s.maps.cur

/-- Sub-code of a map load, 0 when it succeeds. While the epoch in force is 0, 0x07 and 0x08 do not apply (R636). -/
def loadFault (s : State) (bs : Bytes) (n : Nat) (m : CompMap) : Nat :=
  if !mapOk s bs n m then 6
  else if curEpoch s = 0 then 0
  else if !serialLt (curEpoch s) m.epoch || s.maps.pend.any (fun p => p.epoch != m.epoch) then 7
  else if !equinoxOk s m then 8
  else 0

/-- PART_CTL map load. -/
def pcMapLoad (cid : Nat) (s : State) : State :=
  match pcTake s cid 0x10 with
  | none => s
  | some (c, n) =>
    let k := leAt c.payload 20 2
    let m := readMap c.payload k
    match loadFault s c.payload k m with
    | 0 =>
      let first := curEpoch s == 0
      let s := raise { s with maps := { s.maps with pend := some m } } 0x0903 none m.epoch m.equinox
      let s := if first then addEff s (s.time.frame + 1) cid .mapAdopt else s
      finish (acted s cid) cid stOK 0 n 0 0
    | e => pcFail s cid n e

def execPartCtlMapLoad (cid : Nat) (s : State) : Host.Outcome State Fault Refusal := .next (pcMapLoad cid s)

/-- PART_CTL map cancel (R531): `A` names the pending map's epoch. -/
def pcMapCancel (cid : Nat) (s : State) : State :=
  match pcTake s cid 0x11 with
  | none => s
  | some (c, n) =>
    if s.maps.pend.any (fun m => m.epoch == c.hdr.pcA) then
      finish (acted { s with maps := { s.maps with pend := none } } cid) cid stOK 0 n 0 0
    else pcFail s cid n 7

def execPartCtlMapCancel (cid : Nat) (s : State) : Host.Outcome State Fault Refusal := .next (pcMapCancel cid s)

/-! ## Taking effect -/

/-- The first map becomes current, with no equinox (R636); the node then turns to its time parent (R637). -/
def adoptMap (s : State) : State :=
  match s.maps.pend with
  | none => s
  | some m => openParent { s with maps := { s.maps with cur := some m, pend := none } }

/-- EQUINOX (R532): at the start of frame F the pending map becomes current and the current one old. `EV_MIXED` follows a change
of `MIXED` (R653). -/
def equinox (s : State) : State :=
  match s.maps.cur, s.maps.pend with
  | some old, some m =>
    if s.time.frame < m.equinox then s
    else
      let s := { s with maps := { s.maps with cur := some m, pend := none, old := some old, oldEnd := m.equinox + m.grace } }
      let s := raise s 0x0904 none m.epoch m.equinox
      let s := if m.mixed == old.mixed then s else raise s 0x0C03 none m.epoch (b2n m.mixed)
      openParent s
  | _, _ => s

def execEquinox (s : State) : Host.Outcome State Fault Refusal := .next (equinox s)

/-- MAP_GRACE_END (R532): the old map is dropped at the start of frame F + `GRACE`. -/
def mapGraceEnd (s : State) : State :=
  if s.maps.old.isSome && decide (s.maps.oldEnd ≤ s.time.frame) then { s with maps := { s.maps with old := none } } else s

def execMapGraceEnd (s : State) : Host.Outcome State Fault Refusal := .next (mapGraceEnd s)

end Sys2Proof.Machine
end

