-- ==== Sys2Proof/Machine/Links.lean ====
section
/-!
DEFINITION. Lanes, ports and board links going down and coming up (R457, R579, R603–R608, Tables 15-10, 15-11).
-/

namespace Sys2Proof.Machine

/-! ## Widths -/

/-- Lanes of a port: 8 on a fabric port, 16 on a board link, none on the management port. -/
def laneCount (p : Nat) : Nat := if p < 16 then 8 else if p < 20 then 16 else 0

/-- The unit a port's lane is (Table 15-21). -/
def laneUnit (p l : Nat) : RasUnit := if p < 16 then .lane p l else .blane (p - 16) l

/-- Lanes that are neither out nor failed. -/
def goodLanes (s : State) (p : Nat) : List Nat :=
  (List.range (laneCount p)).filter (fun l => !bit (portAt s p).laneOut l && !bit (portAt s p).laneBad l)

/-- The largest width that k good lanes allow (R603); 0 when the port is down for want of width (R608). -/
def widthFor (p k : Nat) : Nat :=
  let n := laneCount p
  if n ≤ k ∧ n ≠ 0 then n else if n / 2 ≤ k ∧ n ≠ 0 then n / 2 else if n / 4 ≤ k ∧ n ≠ 0 then n / 4 else 0

/-- Lanes that carry traffic: the lowest-numbered good lanes (R603). -/
def lanesInUse (s : State) (p : Nat) : List Nat := (goodLanes s p).take (portAt s p).lanes

/-- Does a port's partner have the lane-map capability? Every board link has it (R604). -/
def laneMap (s : State) (p : Nat) : Bool := (portAt s p).lmap || (decide (16 ≤ p) && decide (p < 20))

/-- A fabric port going down or up is told on every open connection (R457). -/
def tellPaths (s : State) (p : Nat) : State := if p < 16 then sendPaths s else s

/-- A port leaves service: its width is 0 and `EV_PORT_DOWN` carries the cause. -/
def takeDown (s : State) (p cause : Nat) : State :=
  let s := tellPaths (updPort s p (fun x => { x with up := false, lanes := 0 })) p
  if p < 20 then raise s 0x0504 none (unitId (portUnit p)) cause else s

/-- A port whose link is lost, or whose width is below 2 lanes, goes down and is quarantined (cause 0x10). -/
def losePort (s : State) (p : Nat) : State :=
  let s := takeDown s p 0x10
  if p < 20 then startQuar s (portUnit p) 0x10 else s

/-- A port takes the width its good lanes allow: at once with the lane-map capability (R604), by a retraining that counts
as going down and coming up without it (R605). -/
def fitWidth (s : State) (p cause : Nat) : State :=
  let w := widthFor p (goodLanes s p).length
  if !(portAt s p).up || w = (portAt s p).lanes then s
  else if w = 0 then losePort s p
  else if laneMap s p then updPort s p (fun x => { x with lanes := w })
  else takeDown s p cause

/-- A lane of this node that is not fenced. -/
def laneOk (s : State) (p l : Nat) : Bool :=
  decide (p < 20) && portPresent s p && decide (l < laneCount p) && !s.ras.fences.any (fun f => f.unit == laneUnit p l)

/-- A lane goes out of its port under quarantine. -/
def outLane (s : State) (p l cause : Nat) : State :=
  let s := startQuar s (laneUnit p l) cause
  fitWidth (updPort s p (fun x => { x with laneOut := putField x.laneOut l 1 1 })) p cause

/-- LANE_DOWN (R603): excess errors or a lost lock, cause 0x0E. -/
def laneDown (p l : Nat) (s : State) : State :=
  if !laneOk s p l then s
  else outLane (raise s 0x0501 none (unitId (laneUnit p l)) 0x0E) p l 0x0E

def execLaneDown (port lane : Nat) (s : State) : Host.Outcome State Fault Refusal := .next (laneDown port lane s)

/-- LANE_FLAP (R606) at `now` ns: counted, and the fourth within 1 s damps the lane with cause 0x0F. -/
def laneFlap (p l now : Nat) (s : State) : State :=
  if !laneOk s p l then s
  else
    let ts := (mgetD (portAt s p).flapTimes l []).filter (fun t => decide (now < t + 1000000000)) ++ [now]
    let s := updPort s p (fun x => { x with flaps := min 8191 (x.flaps + 1), flapTimes := mset x.flapTimes l ts })
    if ts.length < 4 then s
    else
      let u := laneUnit p l
      let s := { s with ras := { s.ras with damps := s.ras.damps.filter (fun d => d != u) ++ [u] } }
      let s := raise s 0x0503 none (unitId u) ts.length
      outLane (updPort s p (fun x => { x with damped := putField x.damped l 1 1, flapTimes := mset x.flapTimes l [] })) p l 0x0F

def execLaneFlap (port lane now : Nat) (s : State) : Host.Outcome State Fault Refusal := .next (laneFlap port lane now s)

/-- At a frame start the lanes whose tests passed return and their ports widen (R607). -/
def linksFrame (s : State) : State :=
  forAll s s.ras.quar (fun s q =>
    let back := fun (p l : Nat) =>
      if q.back = some s.time.frame ∧ !s.ras.fences.any (fun f => f.unit == q.unit) then
        let s := fitWidth (updPort s p (fun x => { x with laneOut := putField x.laneOut l 1 0 })) p q.cause
        raise s 0x0502 none (unitId q.unit) (portAt s p).lanes
      else s
    match q.unit with
    | .lane p l => back p l
    | .blane b l => back (16 + b) l
    | _ => s)

/-! ## Ports (R457, R608) -/

/-- PORT_DOWN: the port's PCS has no link. -/
def portDown (p : Nat) (s : State) : State := if portPresent s p && (portAt s p).up then losePort s p else s

def execPortDown (port : Nat) (s : State) : Host.Outcome State Fault Refusal := .next (portDown port s)

/-- PORT_UP (R608): the link is there and the lanes of `lanes` have passed their test; a fabric partner has advertised the
lane-map capability or not. The port enters service at the width they allow, and a quarantine of the port has passed
(R581, R583). -/
def portUp (p lanes : Nat) (lmap : Bool) (s : State) : State :=
  if !portPresent s p || (portAt s p).up || s.ras.fences.any (fun f => f.unit == portUnit p) then s
  else if 20 ≤ p then updPort s p (fun x => { x with up := true })
  else
    let s1 := updPort s p (fun x => { x with
      lmap := lmap || decide (16 ≤ p)
      laneBad := (List.range (laneCount p)).foldl (fun n l => if bit lanes l then n else n + 2 ^ l) 0 })
    let w := widthFor p (goodLanes s1 p).length
    if w = 0 then s
    else
      let u := portUnit p
      let up := fun (s : State) =>
        raise (tellPaths (updPort s p (fun x => { x with up := true, lanes := w })) p) 0x0505 none (unitId u) w
      match quarOf s1 u with
      | none => up s1
      | some q =>
        let s := noteTransient s1 u
        let n := recentTransients s u
        if 3 ≤ n then placeFence s u q.cause 1
        else up (raiseUnit (endQuar s u (s.time.frame + 1)) 0x0305 u n)

def execPortUp (port lanes : Nat) (lmap : Bool) (s : State) : Host.Outcome State Fault Refusal := .next (portUp port lanes lmap s)

end Sys2Proof.Machine
end

