-- ==== Sys2Proof/Machine/Nand.lean ====
section
/-!
DEFINITION. NAND work of the flash translation layer: restore reads, park programs, wear, relocation, retired blocks and the
capacity they leave (R353–R362, R564, Tables 9-11 to 9-14).
-/

namespace Sys2Proof.Machine

/-! ## Blocks -/

/-- Blocks of 64 MiB on a channel of 8 TB (Table 9-11). -/
def blocksPerChannel : Nat := 119209

/-- Hub of a channel. -/
def hubOfChannel (c : Nat) : Nat := c / 8

def Block.reset : Block := ⟨0, 0, false, false⟩

def blockAt (s : State) (c b : Nat) : Block :=
  mgetD (mgetD (ftlAt s (hubOfChannel c)).channels c ⟨[]⟩).blocks b Block.reset

def updBlock (s : State) (c b : Nat) (f : Block → Block) : State :=
  updFtl s (hubOfChannel c) (fun y =>
    { y with channels := mupd y.channels c ⟨[]⟩ (fun x => { x with blocks := mupd x.blocks b Block.reset f }) })

/-- The number an image names its block by. -/
def blockNo (c b : Nat) : Nat := c * 2 ^ 20 + b

/-- Images that lie in a block. -/
def imagesIn (s : State) (c b : Nat) : SMap T2Image :=
  mfilter (ftlAt s (hubOfChannel c)).images (fun _ m => !m.staged && m.block == blockNo c b)

/-- Mapping granules of 16 KiB that images take. -/
def granules (ms : SMap T2Image) : Nat := (ms.map (fun e => ceilDiv e.2.bytes 16384)).sum

/-- A block of the node's NAND. -/
def blockExists (s : State) (c b : Nat) : Bool := isA24F s && decide (c < 16) && decide (b < blocksPerChannel)

/-- No free block of the channel has fewer erases (dynamic wear levelling): a block is free when it holds no image and is not
retired. Blocks not listed have none. -/
def leastWorn (s : State) (c b : Nat) : Bool :=
  let ch := mgetD (ftlAt s (hubOfChannel c)).channels c ⟨[]⟩
  let free := ch.blocks.filter (fun e => !e.2.retired && (imagesIn s c e.1).isEmpty)
  let e := (blockAt s c b).erases
  free.all (fun x => decide (e ≤ x.2.erases)) && (e == 0 || decide (blocksPerChannel ≤ ch.blocks.length))

/-- A block that may take `g` granules more: one being filled, or the free block with the lowest erase count. -/
def takesData (s : State) (c b g : Nat) : Bool :=
  blockExists s c b && !(blockAt s c b).retired && decide (granules (imagesIn s c b) + g ≤ 4096) &&
  (!(imagesIn s c b).isEmpty || leastWorn s c b)

/-- Erase a block. -/
def eraseBlock (s : State) (c b : Nat) : State :=
  updBlock s c b (fun x => { x with erases := x.erases + 1, reads := 0, written := false })

/-- Ready a block for a program: one that was written and holds nothing is erased first. -/
def openBlock (s : State) (c b : Nat) : State :=
  let s := if (imagesIn s c b).isEmpty && (blockAt s c b).written then eraseBlock s c b else s
  updBlock s c b (fun x => { x with written := true })

/-- Blocks of a hub that hold nothing and are not retired. -/
def freeBlocks (s : State) (hub : Nat) : Nat :=
  8 * blocksPerChannel - ((ftlAt s hub).channels.map (fun c =>
    (c.2.blocks.filter (fun b => b.2.retired || !(imagesIn s c.1 b.1).isEmpty)).length)).sum

/-- Relocation and erase rise above park programs when free blocks fall below 1 % of the raw capacity, until 2 % is free
(R361). -/
def noteFree (s : State) (hub : Nat) : State :=
  let n := 100 * freeBlocks s hub
  updFtl s hub (fun y => { y with low := if y.low then decide (n < 2 * (8 * blocksPerChannel)) else decide (n < 8 * blocksPerChannel) })

/-- The FTL of a channel's hub serves relocation: no restore read waits, and no park program, unless relocation has risen above
them (R361). Park programs give way to restore reads alone: a row that relocates is served as it arises, so none ever
waits (DEDUCED, log 151). -/
def servesMoves (s : State) (c : Nat) : Bool :=
  let y := ftlAt s (hubOfChannel c)
  y.reads.isEmpty && (y.programs.isEmpty || y.low)

/-- Relocate the data of a block to block t of the same channel, or not at all when t cannot take it. -/
def moveBlock (s : State) (c b t : Nat) : Option State :=
  let ms := imagesIn s c b
  if ms.isEmpty then some s
  else if b == t || !takesData s c t (granules ms) then none
  else
    let f := fun (m : T2Image) => if !m.staged && m.block == blockNo c b then { m with block := blockNo c t } else m
    some (updFtl (openBlock s c t) (hubOfChannel c) (fun y => { y with images := y.images.map (fun e => (e.1, f e.2)) }))

/-! ## Capacity (R362) -/

/-- Blocks a hub has retired. -/
def retiredBlocks (y : Ftl) : Nat :=
  (y.channels.map (fun c => (c.2.blocks.filter (fun b => b.2.retired)).length)).sum

/-- Usable GB of a hub: 52 TB while retired blocks take no more than 6 TB. -/
def usableGb (y : Ftl) : Nat := (52 * 10 ^ 12 - (67108864 * retiredBlocks y - 6 * 10 ^ 12)) / 10 ^ 9

/-- Take the capacity that retired blocks leave; each further 1 TB of loss raises `EV_T2_CAPACITY`. -/
def noteCapacity (s : State) (hub : Nat) : State :=
  let u := usableGb (ftlAt s hub)
  let s := updHub s hub (fun y => { y with t2usable := u })
  let n := (52000 - u) / 1000
  let k := (ftlAt s hub).lostNoted
  if n ≤ k then s
  else forAll (updFtl s hub (fun y => { y with lostNoted := n })) (List.range (n - k)) (fun s _ => raise s 0x0603 none hub u)

/-- Retire a block. -/
def retireBlock (s : State) (c b : Nat) : State :=
  noteFree (noteCapacity (updBlock s c b (fun x => { x with retired := true })) (hubOfChannel c)) (hubOfChannel c)

/-! ## Restore reads (R354, R356, R564) -/

/-- A read of a block is counted against read disturb. -/
def countBlockRead (s : State) (img : T2Image) : State :=
  if img.staged then s
  else updBlock s (img.block / 2 ^ 20) (img.block % 2 ^ 20) (fun x => { x with reads := x.reads + 1 })

/-- The page cannot be read: it is lost, and its command goes on without it (R356). -/
def loseImage (s : State) (h p cid : Nat) : State :=
  let s := updFtl s (hubOfHandle h) (fun y => { y with images := mmod y.images (t0Key h p) (fun m => { m with lost := true }) })
  fetchOne (losePage s h p 0x05) cid

/-- The first queued read of a page, and the queue without it. -/
def takeRead (s : State) (hub h p : Nat) : Option (Nat × State) :=
  match (ftlAt s hub).reads.find? (fun q => q.2 == (h, p)) with
  | none => none
  | some q => some (q.1, updFtl s hub (fun y => { y with reads := y.reads.erase q }))

/-- NAND_READ_DONE (R354): a page reaches restore staging; an image whose tag fails is a page lost on read (R564). -/
def nandReadDone (hub h p : Nat) (s : State) : State :=
  match takeRead s hub h p, mget (ftlAt s hub).images (t0Key h p) with
  | some (cid, s), some img =>
    let s := meter (countBlockRead s img) img.part 11 img.bytes
    if !parkTagOk (partKey s img.part) h p img then loseImage s h p cid
    else fetchOne (updFtl s hub (fun y => { y with restStage := mset y.restStage (t0Key h p) img })) cid
  | _, _ => s

def execNandReadDone (hub handle page : Nat) (s : State) : Host.Outcome State Fault Refusal := .next (nandReadDone hub handle page s)

/-- NAND_READ_FAIL (R356, Table 9-12): the page is lost, its block's other data moves to block `target` of the channel and the
block is retired. -/
def nandReadFail (hub h p target : Nat) (s : State) : State :=
  match takeRead s hub h p, mget (ftlAt s hub).images (t0Key h p) with
  | some (cid, s1), some img =>
    let c := img.block / 2 ^ 20
    let b := img.block % 2 ^ 20
    let s1 := updFtl (countBlockRead s1 img) hub (fun y => { y with images := mdel y.images (t0Key h p) })
    match if img.staged then none else moveBlock s1 c b target with
    | none => s
    | some t =>
      let t := updFtl t hub (fun y => { y with images := mset y.images (t0Key h p) { img with block := 0, lost := true, bytes := 0 } })
      retireBlock (loseImage t h p cid) c b
  | _, _ => s

def execNandReadFail (hub handle page target : Nat) (s : State) : Host.Outcome State Fault Refusal :=
  .next (nandReadFail hub handle page target s)

/-! ## Park programs (R353, R360) -/

/-- NAND_PROGRAM_DONE (R353): a page of park staging lies in a block, and its staging is free; restore reads that wait come
first (R361). -/
def nandProgramDone (hub h p c b : Nat) (s : State) : State :=
  match mget (ftlAt s hub).images (t0Key h p) with
  | none => s
  | some img =>
    if !(ftlAt s hub).programs.contains (h, p) || !img.staged || hubOfChannel c != hub ||
        !takesData s c b (ceilDiv img.bytes 16384) || !(ftlAt s hub).reads.isEmpty then s
    else (noteFree · hub) <| updFtl (openBlock (meter s img.part 11 img.bytes) c b) hub (fun y =>
      { y with
        programs := y.programs.erase (h, p)
        parkStage := y.parkStage - parkBytes img
        images := mset y.images (t0Key h p) { img with staged := false, block := blockNo c b } })

def execNandProgramDone (hub handle page channel block : Nat) (s : State) : Host.Outcome State Fault Refusal :=
  .next (nandProgramDone hub handle page channel block s)

/-- NAND_PROGRAM_FAIL (R353, R360): the page stays in staging, to be programmed into another block; the failed block's data
moves to block `target` and the block is retired. -/
def nandProgramFail (hub c b target : Nat) (s : State) : State :=
  if !blockExists s c b || hubOfChannel c != hub || (blockAt s c b).retired || (ftlAt s hub).programs.isEmpty then s
  else match moveBlock s c b target with
    | none => s
    | some t => retireBlock t c b

def execNandProgramFail (hub channel block target : Nat) (s : State) : Host.Outcome State Fault Refusal :=
  .next (nandProgramFail hub channel block target s)

/-- NAND_ERASE_FAIL (R360): a block that holds nothing is retired. -/
def nandEraseFail (c b : Nat) (s : State) : State :=
  if !blockExists s c b || (blockAt s c b).retired || !(imagesIn s c b).isEmpty then s else retireBlock s c b

def execNandEraseFail (channel block : Nat) (s : State) : Host.Outcome State Fault Refusal := .next (nandEraseFail channel block s)

/-! ## Wear (R360, Table 9-12) -/

/-- Lowest and highest erase count of a channel's blocks in service (Table 9-14). -/
def eraseRange (s : State) (c : Nat) : Nat × Nat :=
  let bs := ((mgetD (ftlAt s (hubOfChannel c)).channels c ⟨[]⟩).blocks.filter (fun e => !e.2.retired)).map (fun e => e.2.erases)
  let all := if bs.length < blocksPerChannel then 0 :: bs else bs
  (all.foldl min (all.headD 0), all.foldl max 0)

/-- STATIC_WEAR_LEVEL: erase counts on the channel differ by more than 200, and the least-worn block's data moves. -/
def staticWearLevel (c b target : Nat) (s : State) : State :=
  let r := eraseRange s c
  if !blockExists s c b || (blockAt s c b).retired || (blockAt s c b).erases != r.1 || decide (r.2 ≤ r.1 + 200) ||
      (imagesIn s c b).isEmpty || !servesMoves s c then s
  else (moveBlock s c b target).elim s (fun t => noteFree t (hubOfChannel c))

def execStaticWearLevel (channel block target : Nat) (s : State) : Host.Outcome State Fault Refusal :=
  .next (staticWearLevel channel block target s)

/-- READ_DISTURB_RELOCATE: 200,000 reads since the last erase or a weak codeword; the block's data moves and it is erased. -/
def readDisturbRelocate (c b target : Nat) (weak : Bool) (s : State) : State :=
  if !blockExists s c b || (blockAt s c b).retired || !(weak || decide (200000 ≤ (blockAt s c b).reads)) ||
      !servesMoves s c then s
  else match moveBlock s c b target with
    | none => s
    | some t => noteFree (eraseBlock t c b) (hubOfChannel c)

def execReadDisturbRelocate (channel block target : Nat) (weak : Bool) (s : State) : Host.Outcome State Fault Refusal :=
  .next (readDisturbRelocate channel block target weak s)

end Sys2Proof.Machine
end

