-- ==== Sys2Proof/Machine/Life.lean ====
section
/-!
DEFINITION. The lifecycle: resets (R633, R671), the spring steps (Table 16-6), lifecycle requests (Table 16-4), winter
(R632), and the board group's straps (R656–R660).
-/

namespace Sys2Proof.Machine

/-! ## What a reset keeps (R633) -/

/-- Identities of a hub's streams with a parked page, as the FTL's journal holds them (R358). -/
def journalOf (s : State) (hub : Nat) : List Nat :=
  ((hubAt s hub).streams.filter (fun e => (ftlAt s hub).images.any (fun i => i.1 / 2 ^ 18 == handleOf hub e.1))).map
    (fun e => identKey s e.2.part e.2.ctx e.2.layer e.2.kvh)

/-- T2 after a reset: the blocks' wear, and the journal of the ended session; its images can no longer be read (R357). -/
def keepFtl (s : State) (hub : Nat) : Ftl :=
  let y := ftlAt s hub
  { images := [], channels := y.channels, reads := [], programs := [], parkStage := 0, restStage := [],
    lostNoted := y.lostNoted, low := y.low, journal := y.journal ++ (journalOf s hub).filter (fun k => !y.journal.contains k) }

/-- A node reset (R633, R671): every register at its reset value; the fuses, the boot flash with its RAS record and T2's wear
and journal stay, and so do the straps until they are sampled, the pins, the commands that wait and what has been sent. -/
def resetNode (s : State) : State :=
  { State.reset with
    pending := s.pending
    hw := { s.hw with peers := 0, boardErr := 0, peerIds := [] }
    pins := s.pins
    fw := { s.fw with fallback := false, staged := false, stagedVer := 0, stageErr := 0 }
    life := { State.reset.life with tries := s.life.tries }
    slices := s.slices.filterMap (fun e =>
      if e.2.spares.isEmpty && e.2.retired.isEmpty then none
      else some (e.1, { Slice.reset with spares := e.2.spares, retired := e.2.retired }))
    ras := { State.reset.ras with flash := s.ras.flash, binds := s.ras.binds, damps := s.ras.damps }
    crypto := { State.reset.crypto with
      ownerSet := s.crypto.ownerSet, ownerDigest := s.crypto.ownerDigest, nodeId := s.crypto.nodeId,
      draws := s.crypto.draws }
    ftl0 := keepFtl s 0
    ftl1 := keepFtl s 1
    out := s.out }

/-! ## Winter (R632) -/

/-- Destroy a partition at once: no zeros, no `EV_PART_ZEROED`; its waiting destroys complete. -/
def winterPart (s : State) (k : Nat) : State :=
  if (partAt s k).state = 0 then s
  else
    let s := endQuiesce (clearPart s k) k
    let s := updPart s k (fun p => { p with resets := satTo 65535 (p.resets + 1) })
    let s := freeZeroed (raise s 0x0901 (some k) k 0) k
    endDestroys (freePart s k) k

/-- Connections that stay open in winter: management, the time parent's and the time children's. -/
def keptConns (s : State) : List Nat :=
  (s.conns.filter (fun e => e.2.mgmt)).map (fun e => e.1) ++ (parentConn s).toList ++ childConns s

/-- The steps of R632. -/
def winterSteps (s : State) : State :=
  let s := forAll s s.parts (fun s e => winterPart s e.1)
  let keep := keptConns s
  let s := forAll s s.conns (fun s e => if keep.contains e.1 then s else closeByNode s e.1 2)
  let s := if s.oboe.en then cascadeFail s.hw.pos s else s
  { s with life := { s.life with selfRefresh := true, entering := false } }

/-- WINTER_ENTRY (R632): at the frame start at which winter takes effect. -/
def winterEntry (s : State) : State := if s.life.entering then winterSteps s else s

def execWinterEntry (s : State) : Host.Outcome State Fault Refusal := .next (winterEntry s)

/-- The node changes its state (R625). -/
def changeLife (s : State) (st cause : Nat) : State :=
  let old := s.life.state
  let s := { s with life := { s.life with
    state := st, due := none, pendWinter := s.life.pendWinter && st != 1 && st != 3, entering := st == 3
    wcause := if st = 3 then cause else s.life.wcause } }
  raise s 0x0C01 none st old

/-- A fatal fault of Table 16-5: winter from the next frame start. -/
def fatal (s : State) (cause : Nat) : State :=
  if s.life.state = 3 || s.life.due.any (fun d => d.1 == 3 && decide (3 ≤ d.2)) then s
  else { s with life := { s.life with due := some (3, cause) } }

/-- The node is drained (R630). -/
def drained (s : State) : Bool :=
  match s.maps.cur with
  | none => false
  | some m =>
    s.maps.pend.isNone && s.maps.old.isNone &&
    (match selfIndex s m with
     | none => true
     | some i =>
       m.shards.all (fun e => shHome e.2 != i && shMirror e.2 != i && !(shGroup e.2 && homeHere s m e.2)))

/-- At a frame start the change of state that is due takes effect. -/
def lifeFrame (s : State) : State :=
  match s.life.due with
  | some d => changeLife s d.1 d.2
  | none => if s.life.pendWinter && drained s then changeLife s 3 1 else s

/-! ## Requests (R629–R631, R640, R660, Table 16-4) -/

/-- The current map names the node as time root. -/
def isRoot (s : State) : Bool := s.maps.cur.any (fun m => (selfIndex s m).any (fun i => m.root == i))

/-- The current map names the node as the time parent of a member. -/
def isParent (s : State) : Bool :=
  s.maps.cur.any (fun m => (selfIndex s m).any (fun i => m.members.any (fun e => e.parent == i)))

/-- R640, with R660. -/
def summerOk (s : State) : Bool :=
  decide (8 ≤ s.life.step) && s.crypto.drbgOk && (s.time.locked || isRoot s || s.time.tickMode == 3) && s.hw.boardErr == 0

/-- A request for a state at the next frame start; a fatal fault already due goes first. -/
def placeLife (s : State) (st cause : Nat) : State :=
  if s.life.due.any (fun d => d.1 == 3 && decide (3 ≤ d.2)) then s
  else { s with life := { s.life with due := some (st, cause), pendWinter := false } }

/-- A request that no row of Table 16-4 allows. -/
def refuseLife (s : State) : State := { s with life := { s.life with err := true } }

/-- A write of `LIFE_CTL` (Table 16-2): `FORCE`, and the request of `REQ`. A spring is marked for its own row to run. -/
def lifeWrite (s : State) (req : Nat) (force : Bool) : State :=
  let s := { s with life := { s.life with force := force } }
  let st := s.life.state
  if req = 1 then (if st = 2 || (st = 0 && summerOk s) then placeLife s 1 0 else refuseLife s)
  else if req = 2 then (if st = 1 then placeLife s 2 0 else refuseLife s)
  else if req = 3 then
    if force then (if st = 1 || st = 2 then placeLife s 3 2 else refuseLife s)
    else if st = 2 && !isRoot s && !isParent s then
      { s with life := { s.life with pendWinter := true, due := if s.life.due.any (fun d => d.1 == 3 && decide (3 ≤ d.2)) then s.life.due else none } }
    else refuseLife s
  else if req = 4 then (if st = 3 then { s with life := { s.life with springReq := true } } else refuseLife s)
  else s

def lifeReqSummer (force : Bool) (s : State) : State := if awake s then lifeWrite s 1 force else s
def execLifeReqSummer (force : Bool) (s : State) : Host.Outcome State Fault Refusal := .next (lifeReqSummer force s)

def lifeReqAutumn (force : Bool) (s : State) : State := if awake s then lifeWrite s 2 force else s
def execLifeReqAutumn (force : Bool) (s : State) : Host.Outcome State Fault Refusal := .next (lifeReqAutumn force s)

def lifeReqWinter (force : Bool) (s : State) : State := if awake s then lifeWrite s 3 force else s
def execLifeReqWinter (force : Bool) (s : State) : Host.Outcome State Fault Refusal := .next (lifeReqWinter force s)

/-! ## Firmware packages (R642, Tables 16-7, 16-8) -/

/-- Offset and length of image j = 0, 1, 2 (images 2, 3 and 4 of Table 14-2) of a slot. -/
def imageAt (m : SMap U8) (j : Nat) : Nat × Nat :=
  let len := fun i => leNat (bread m (16 + 4 * i) 4)
  (320 + ((List.range j).map len).sum, len j)

/-- SHA-384 of image j. -/
def imageDigest (m : SMap U8) (j : Nat) : Bytes := sha384 (bread m (imageAt m j).1 (imageAt m j).2)

/-- The first check of R642 that a slot's package fails, as `STAGE_ERR` codes it (Table 16-10): 0 when it is valid. -/
def packageErr (s : State) (i : Nat) : Nat :=
  let m := fwSlot s i
  let len := leNat (bread m 12 4)
  let rows := (List.range 16).map (fun j => bread m (176 + 8 * j) 8)
  if bread m 0 4 != [0x56, 0x4C, 0x46, 0x57] || len != 416 + ((List.range 3).map (fun j => (imageAt m j).2)).sum ||
      decide (33554432 < len) then 1
  else if (List.range 3).any (fun j => bread m (32 + 48 * j) 48 != imageDigest m j) then 2
  else if !Config.sigOk (bread m 0 (len - 96)) (leNat (bread m (len - 96) 96)) then 3
  else if leNat (bread m 8 2) < s.fw.svnFloor then 4
  else if !(allZero (bread m 10 2) && allZero (bread m 28 4) && allZero (bread m 304 16) && rows.all (fun r => allZero (slice r 5 3)))
  then 5
  else 0

/-- A valid package. -/
def packageOk (s : State) (i : Nat) : Bool := packageErr s i == 0

/-- The slot the boot ROM boots, and whether it is not `NEXT` (R644). -/
def bootSlot (s : State) : Option (Nat × Bool) :=
  if packageOk s s.fw.next then some (s.fw.next, false)
  else if packageOk s (1 - s.fw.next) then some (1 - s.fw.next, true)
  else none

/-! ## Spring (Table 16-6) -/

/-- Spring stops with a step's failure: winter, without a frame start to wait for. -/
def springFails (s : State) (cause fail : Nat) : State :=
  winterSteps (changeLife { s with life := { s.life with fail := fail } } 3 cause)

/-- Cause a unit is fenced with at spring: as its record has it, else its kind's (Table 15-1). -/
def springCause (flash : List (RasUnit × Nat)) (u : RasUnit) : Nat :=
  match flash.find? (fun e => e.1 == u) with
  | some e => e.2
  | none => match u with
    | .core _ _ _ => 0x07
    | .merge _ _ _ => 0x08
    | .rowGroup _ _ => 0x12
    | .slice _ => 0x05
    | .stack _ => 0x0A
    | .t0 _ _ => 0x0D
    | .lane _ _ => 0x0E
    | .blane _ _ => 0x0E
    | .port _ => 0x10
    | .blink _ => 0x10
    | .laneGroup _ _ => 0x09
    | .bridge _ => 0x11

/-- The step of Table 16-6 whose test decides a unit (R585, R726). -/
def springStepOf (u : RasUnit) : Nat :=
  match u with
  | .t0 _ _ => 2
  | .stack _ => 3
  | .laneGroup _ _ => 3
  | .core _ _ _ => 4
  | .merge _ _ _ => 4
  | .slice _ => 6
  | .rowGroup _ _ => 6
  | .bridge _ => 2
  | .lane _ _ => 8
  | .blane _ _ => 8
  | .port _ => 8
  | .blink _ => 8

/-- Fence the units that fail in a step; the others of the record are in service again (R585). -/
def springFences (s : State) (flash : List (RasUnit × Nat)) (boot : Boot) (k : Nat) : State :=
  forAll s (boot.failing.filter (fun u => springStepOf u == k && unitPresent s u)) (fun s u =>
    fenceUnit s u (springCause flash u) 0 [])

/-- Rebuild the spare maps (R726): a place whose home core failed runs on a spare that passed; without one the slice is
fenced (R310). -/
def springSpares (s : State) (boot : Boot) : State :=
  recordBinds <| forAll s boot.failing (fun s u =>
    match u with
    | .core n g p =>
      let s := updSpare s n g (fun m => { m with failed := m.failed ||| m.failing, failing := 0 })
      if 48 ≤ p then s
      else match freeSpare (spareAt s n g) with
        | some q => updSpare s n g (fun m => bindSpare m q (some p))
        | none =>
          let i := 1024 * n + 4 * g + p / 12
          fenceUnit (raise s 0x0303 none (unitId (.slice i)) g) (.slice i) 0x07 2 []
    | .merge h g p =>
      if 32 ≤ p then s
      else updMerge s h g (fun y =>
        { y with bound := if y.bound.isNone && !y.failed.contains 32 then some p else y.bound })
    | _ => s)

/-- A slice's format: the row repairs and retired row groups of the record that still fail stay (R585, R601, R602). -/
def formatSlice (boot : Boot) (e : Nat × Slice) : Nat × Slice :=
  let kept := e.2.retired.filter (fun g => boot.failing.contains (.rowGroup e.1 g))
  (e.1, { Slice.reset with
    spares := mfilter e.2.spares (fun g _ => boot.failing.contains (.rowGroup e.1 g))
    retired := kept
    alloc := (kept.flatMap groupChunks).foldl (fun m c => mset m c 1) [] })

/-- The identity and alias keys are derived, the alias certificate signed, and `NODE_ID` follows (R545–R547). -/
def deriveKeys (s : State) : State :=
  let identity := identityPair s.hw.secret
  let pair := aliasPair s.hw.secret (fitTo 48 Config.romDigest :: s.fw.measured)
  { s with crypto := { s.crypto with
    identity := some identity, aliasKey := some pair, aliasCert := Config.aliasCert identity.priv pair.pub
    nodeId := nodeIdOf s.hw.secret } }

/-- Step 0x01: the running package, `EV_FW_UPDATE` for each image that differs from the last spring's (R644, R645), and the
device's keys (R545, R546). -/
def spring1 (slot : Nat) (fallback : Bool) (s : State) : State :=
  let s := { s with fw := { s.fw with running := slot, next := slot, fallback := fallback } }
  let new := (List.range 3).map (imageDigest (fwSlot s slot))
  let old := s.fw.measured
  let s := deriveKeys { s with fw := { s.fw with measured := new } }
  forAll s (List.range 3) (fun s j =>
    if old.isEmpty || old[j]? == new[j]? then s else raise s 0x0C02 none (j + 2) (fwVer s))

/-- Step 0x07: the T2 mount of one hub (R357, R358, R362). -/
def mountT2 (ok : Bool) (hub : Nat) (s : State) : State :=
  if !isA24F s then s
  else if !ok then updHub s hub (fun y => { y with t2usable := 0 })
  else
    let ids := (ftlAt s hub).journal
    let u := usableGb (ftlAt s hub)
    let s := updFtl s hub (fun y => { y with journal := [] })
    updHub s hub (fun y => { y with t2usable := u, lostIds := ids.drop (ids.length - 65536) })

/-- Checks of Table 17-4 on the node's own straps, and on one peer's report. -/
def strapErr (s : State) : Nat :=
  let h := s.hw
  if h.gsize < h.pos || (h.strapFree && h.gsize != 0) || (h.leadSel && h.gsize == 0) || (h.variant == 2 && decide (1 < h.gsize))
  then 1 else 0

def peerErr (s : State) (p : Straps) (variant : Nat) : Nat :=
  if p.gsize != s.hw.gsize || p.leadSel != s.hw.leadSel then 2
  else if p.pos == s.hw.pos then 3
  else if variant != s.hw.variant then 4
  else 0

/-- Step 0x08's exchange with the peers (R659). -/
def boardCheck (boot : Boot) (s : State) : State :=
  let s := { s with hw := { s.hw with boardErr := strapErr s, peers := 2 ^ s.hw.pos, peerIds := zeros 4 |>.map (fun _ => 0) } }
  let s := { s with hw := { s.hw with peerIds := s.hw.peerIds.set s.hw.pos s.crypto.nodeId } }
  if s.hw.gsize = 0 then s
  else forAll s boot.peers (fun s p =>
    match peerErr s p.2.1 p.2.2.1 with
    | 0 => { s with hw := { s.hw with
        peers := putField s.hw.peers p.2.1.pos 1 1, peerIds := s.hw.peerIds.set p.2.1.pos p.2.2.2 } }
    | e => if s.hw.boardErr = 0 then { s with hw := { s.hw with boardErr := e } } else s)

/-- R663: the node opens a connection to each member of its group at a higher position, at that member's board-link address, over
the first of the links that join them. -/
def openBoard (s : State) : State :=
  forAll s ((List.range (s.hw.gsize + 1)).filter (fun b => decide (s.hw.pos < b))) (fun s b =>
    match (List.range 4).find? (fun k => linkPeer s.hw.pos k == b && portPresent s (16 + k) && (portAt s (16 + k)).up) with
    | none => s
    | some k => openConn s (16 + k) (boardAddr b) 0)

/-- A lane that fails its test at spring stays out of its port, damped while the RAS record has it so (R585, R606). -/
def failLane (s : State) (u : RasUnit) (p l : Nat) : State :=
  updPort s p (fun x => { x with
    laneOut := putField x.laneOut l 1 1, damped := putField x.damped l 1 (b2n (s.ras.damps.contains u)) })

/-- Step 0x08: ports, links and the management port, and the board's connections; frame 0 begins (R635). -/
def spring8 (boot : Boot) (s : State) : State :=
  let s := forAll s (boot.failing) (fun s u =>
    match u with
    | .lane p l => failLane s u p l
    | .blane b l => failLane s u (16 + b) l
    | _ => s)
  let s := { s with ras := { s.ras with damps := s.ras.damps.filter boot.failing.contains } }
  boardCheck boot (openBoard (forAll s boot.lanes (fun s p => portUp p.1 p.2.1 p.2.2 s)))

/-- Mark a step completed. -/
def markStep (k : Nat) (s : State) : State := { s with life := { s.life with step := k } }

/-- R714: on A12, `BASE` 512 µJ and `CAP` 2,355 µJ for the frame length after reset, before any admission opens. -/
def energyA12 (s : State) : State :=
  if s.hw.variant = 2 then
    { s with adm := { s.adm with
      energyBase := 512, energyCap := 2355, energyLen := s.time.len, sampled := (512, 2355, s.adm.energyCoef) } }
  else s

/-- Steps 0x01 to 0x08 of a booted slot, as far as the package goes. -/
def springSteps (slot : Nat) (fallback : Bool) (boot : Boot) (s : State) : State :=
  let flash := s.ras.flash
  let s := { s with ras := { s.ras with flash := [] } }
  if boot.last < 1 then s
  else
    let s := markStep 1 (spring1 slot fallback s)
    if boot.last < 2 then s
    else if !boot.hub0Ok then springFails s 7 2
    else
      let s := springFences s flash boot 2
      let s := if boot.hub1Ok || !hub1Present s then s else fenceBridge s
      let s := markStep 2 (energyA12 s)
      if boot.last < 3 then s
      else
        let s := springFences { s with life := { s.life with selfRefresh := false } } flash boot 3
        if (List.range 12).all (fun n => s.ras.fences.any (fun f => f.unit == .stack n)) then springFails s 7 3
        else
          let s := markStep 3 s
          if boot.last < 4 then s
          else
            let s := markStep 4 (springSpares (springFences s flash boot 4) boot)
            if boot.last < 5 then s
            else if !boot.entropyOk then springFails s 4 0
            else
              let n := s.crypto.draws + 1
              let s := markStep 5 { s with crypto := { s.crypto with drbgOk := true, draws := n, ksys := n } }
              if boot.last < 6 then s
              else
                let s := markStep 6 (springFences { s with slices := s.slices.map (formatSlice boot) } flash boot 6)
                if boot.last < 7 then s
                else
                  let s := markStep 7 (mountT2 boot.t2Ok1 1 (mountT2 boot.t2Ok0 0 s))
                  if boot.last < 8 then s
                  else markStep 8 (spring8 boot (springFences s flash boot 8))

/-- The tick mode the straps give (R657). -/
def strapTickMode (h : Hw) : Nat :=
  if h.strapFree then 3 else if h.gsize = 0 then 0 else if h.pos == (if h.leadSel then 1 else 0) then 2 else 1

/-- The node leaves reset and runs spring (R634, R656, R657): no slot that can boot means winter, cause 0x07. -/
def runSpring (boot : Boot) (s : State) : State :=
  let s := updTime { s with pins := { s.pins with rstN := true } } (fun t => { t with tickMode := strapTickMode s.hw })
  match bootSlot s with
  | none => springFails s 7 1
  | some (i, fb) => springSteps i fb boot s

/-- Sample the straps. -/
def sampleStraps (s : State) (x : Straps) : State :=
  { s with hw := { s.hw with
    pos := x.pos, gsize := x.gsize, strapFree := x.free, leadSel := x.leadSel, sbAddr := x.sbAddr } }

/-- RESET_RELEASE (R634, R670): `RST_N` rises with the rails up. -/
def resetRelease (x : Straps) (boot : Boot) (s : State) : State :=
  let p := s.pins
  if p.rstN || !p.auxIn || !p.auxOk || !p.mainOk || !p.mainEn || p.lockout then s
  else runSpring boot (sampleStraps { s with life := { s.life with tries := 0 } } x)

def execResetRelease (straps : Straps) (boot : Boot) (s : State) : Host.Outcome State Fault Refusal :=
  .next (resetRelease straps boot s)

/-- LIFE_REQ_SPRING (R633): a warm reset from winter; the board holds the straps. -/
def lifeReqSpring (force : Bool) (boot : Boot) (s : State) : State :=
  if !s.pins.rstN || !(awake s || s.life.state == 3) then s
  else
    let t := if s.life.springReq then s else lifeWrite s 4 force
    if t.life.springReq then runSpring boot (resetNode { t with life := { t.life with tries := 0 } }) else t

def execLifeReqSpring (force : Bool) (boot : Boot) (s : State) : Host.Outcome State Fault Refusal :=
  .next (lifeReqSpring force boot s)

/-- BOOT_WATCHDOG (R644): the package has not completed step 0x08 within 60 s: one reset, into the other slot. -/
def bootWatchdog (boot : Boot) (s : State) : State :=
  if !s.pins.rstN || s.life.state != 0 || decide (8 ≤ s.life.step) then s
  else
    let slot := 1 - s.fw.running
    let t := resetNode { s with life := { s.life with tries := 1 } }
    let t := updTime t (fun x => { x with tickMode := strapTickMode t.hw })
    if s.life.tries = 0 && packageOk s slot then springSteps slot true boot t else springFails t 7 1

def execBootWatchdog (boot : Boot) (s : State) : Host.Outcome State Fault Refusal := .next (bootWatchdog boot s)

/-- BOARD_PEER_TIMEOUT (R659): 1 s after step 0x08 began, a position is not confirmed. -/
def boardPeerTimeout (s : State) : State :=
  if s.life.step < 8 || s.hw.gsize = 0 || s.hw.boardErr != 0 || s.hw.peers == 2 ^ (s.hw.gsize + 1) - 1 then s
  else { s with hw := { s.hw with boardErr := 5 } }

def execBoardPeerTimeout (s : State) : Host.Outcome State Fault Refusal := .next (boardPeerTimeout s)

/-! ## Fatal faults (Table 16-5) -/

/-- HUB0_LOGIC_FAULT: cause 0x03. -/
def hub0LogicFault (s : State) : State := if awake s then fatal s 3 else s

def execHub0LogicFault (s : State) : Host.Outcome State Fault Refusal := .next (hub0LogicFault s)

/-- ENTROPY_FAIL_TIMEOUT: 1 s without a passing reseed, cause 0x04. -/
def entropyFailTimeout (s : State) : State := if awake s && !s.crypto.drbgOk && decide (5 ≤ s.life.step) then fatal s 4 else s

def execEntropyFailTimeout (s : State) : Host.Outcome State Fault Refusal := .next (entropyFailTimeout s)

/-- ALL_LINKS_DOWN_TIMEOUT: every fabric port and board link down for 1 s, cause 0x05. -/
def allLinksDownTimeout (s : State) : State :=
  if awake s && decide (8 ≤ s.life.step) && (List.range 20).all (fun p => !portPresent s p || !(portAt s p).up) then fatal s 5 else s

def execAllLinksDownTimeout (s : State) : Host.Outcome State Fault Refusal := .next (allLinksDownTimeout s)

/-- VIN_MAIN_OUT_OF_RANGE (R712): cause 0x06, at the next frame start. -/
def vinMainOutOfRange (s : State) : State := if awake s && s.pins.mainOk then fatal s 6 else s

def execVinMainOutOfRange (s : State) : Host.Outcome State Fault Refusal := .next (vinMainOutOfRange s)

end Sys2Proof.Machine
end

