-- ==== Sys2Proof/Machine/Power.lean ====
section
/-!
DEFINITION. Rails, reset and service pins: power-up and power-down (R670–R673, Table 17-8), the thermal trip (R717), the PCIe
reset (R675), and the boundary-scan port (R553, R681, R682).
-/

namespace Sys2Proof.Machine

/-- Change the pins. -/
def updPins (s : State) (f : Pins → Pins) : State := { s with pins := f s.pins }

/-- VIN_AUX_IN_RANGE (R670): the aux domain powers up with the node held in reset. -/
def vinAuxInRange (s : State) : State := if s.pins.auxIn then s else updPins s (fun p => { p with auxIn := true })

def execVinAuxInRange (s : State) : Host.Outcome State Fault Refusal := .next (vinAuxInRange s)

/-- AUX_OK_ASSERT (R670, R671): `AUX_OK` rises and the node asserts `MAIN_EN`. -/
def auxOkAssert (s : State) : State :=
  if !s.pins.auxIn || s.pins.auxOk then s else updPins s (fun p => { p with auxOk := true, mainEn := !p.lockout })

def execAuxOkAssert (s : State) : Host.Outcome State Fault Refusal := .next (auxOkAssert s)

/-- AUX_OK_FALL: it ends the hold of R671 and the bar of R673. -/
def auxOkFall (s : State) : State :=
  if !s.pins.auxOk then s else updPins s (fun p => { p with auxOk := false, lockout := false })

def execAuxOkFall (s : State) : Host.Outcome State Fault Refusal := .next (auxOkFall s)

/-- MAIN_OK_RISE (R670): the board has applied `VIN_MAIN`. -/
def mainOkRise (s : State) : State :=
  if !s.pins.mainEn || s.pins.mainOk then s else updPins s (fun p => { p with mainOk := true })

def execMainOkRise (s : State) : Host.Outcome State Fault Refusal := .next (mainOkRise s)

/-- MAIN_OK_TIMEOUT (R671): `MAIN_OK` has not risen within 100 ms of `MAIN_EN`. -/
def mainOkTimeout (s : State) : State :=
  if !s.pins.mainEn || s.pins.mainOk || s.pins.rstN then s else updPins s (fun p => { p with mainEn := false, lockout := true })

def execMainOkTimeout (s : State) : Host.Outcome State Fault Refusal := .next (mainOkTimeout s)

/-- Every key is cleared: stored data can no longer be read, and no link or session can be used (R553, R672). -/
def clearKeys (s : State) : State :=
  let s := forAll s s.conns (fun s e => closeConn s e.1 1)
  { s with
    parts := s.parts.map (fun e => (e.1, { e.2 with key := 0 }))
    crypto := { s.crypto with ksys := 0, sessions := [], identity := none, aliasKey := none, aliasCert := [] } }

/-- Stacked memory, T0 contents and parked data are lost (R672); the registers of the hubs keep their values. -/
def losePower (s : State) : State :=
  let hub := fun (y : Hub) => { Hub.reset with vhold := y.vhold, ven := y.ven, vsize := y.vsize, t2usable := y.t2usable }
  { s with
    slices := s.slices.filterMap (fun e =>
      if e.2.spares.isEmpty && e.2.retired.isEmpty then none
      else some (e.1, { Slice.reset with spares := e.2.spares, retired := e.2.retired }))
    cores := []
    chains := State.reset.chains
    oboe := { s.oboe with ents0 := [], ents1 := [], tags := [], updates := [], results := [], bounds := [] }
    ftl0 := keepFtl s 0
    ftl1 := keepFtl s 1
    hub0 := hub s.hub0
    hub1 := hub s.hub1
    ports := s.ports.map (fun e => (e.1, { e.2 with up := false, lanes := 0 })) }

/-- MAIN_OK_FALL (R672): with `RST_N` high the node enters winter at once, cause 0x06. -/
def mainOkFall (s : State) : State :=
  if !s.pins.mainOk then s
  else
    let s := updPins s (fun p => { p with mainOk := false })
    if !s.pins.rstN then s
    else
      let s := if s.life.state = 3 then s else winterSteps (changeLife s 3 6)
      updPins (losePower (clearKeys s)) (fun p => { p with mainEn := false })

def execMainOkFall (s : State) : Host.Outcome State Fault Refusal := .next (mainOkFall s)

/-- COLD_RESET (R671, R672): `RST_N` falls (cause 0), or `VIN_AUX` leaves its range (cause 1), which also ends `THERMTRIP_N`. -/
def coldReset (cause : Nat) (s : State) : State :=
  if cause = 0 then (if s.pins.rstN then updPins (resetNode s) (fun p => { p with rstN := false, pcieUp := false }) else s)
  else if !s.pins.auxIn then s
  else { resetNode s with pins := ⟨false, false, false, false, false, false, false, false, false⟩ }

def execColdReset (cause : Nat) (s : State) : Host.Outcome State Fault Refusal := .next (coldReset cause s)

/-- Trip temperature of a sensor in 1/16 °C: 115 °C on stacks 0–23, 120 °C on hubs 24 and 25 (Table 19-5). -/
def tripTemp (s : State) (sensor : Nat) : Option Int :=
  if sensor < stackCount s then some 1840
  else if sensor = 24 ∨ (sensor = 25 ∧ hub1Present s) then some 1920 else none

/-- THERMTRIP (R673, R717). -/
def thermtrip (sensor : Nat) (temp : Int) (s : State) : State :=
  match tripTemp s sensor with
  | none => s
  | some t =>
    if !s.pins.auxIn || decide (temp < t) then s
    else updPins s (fun p => { p with tripped := true, mainEn := false, lockout := true })

def execThermtrip (sensor : Nat) (temp : Int) (s : State) : Host.Outcome State Fault Refusal := .next (thermtrip sensor temp s)

/-- PCIE_PERST (R675): low resets the endpoint alone; when it rises the link trains, from spring step 0x02. -/
def pciePerst (low : Bool) (s : State) : State :=
  updPins s (fun p => { p with pcieUp := !low && p.rstN && decide (2 ≤ s.life.step) })

def execPciePerst (low : Bool) (s : State) : Host.Outcome State Fault Refusal := .next (pciePerst low s)

/-- TAP_INSTRUCTION_LOAD (R553, R682). Instructions: 0 `BYPASS`, 1 `IDCODE`, 2 `SAMPLE/PRELOAD`, 3 `EXTEST`, 4 `CLAMP`,
5 `HIGHZ`, 6 `EXTEST_PULSE`, 7 `EXTEST_TRAIN`. -/
def tapInstructionLoad (instr : Nat) (s : State) : State :=
  if instr < 3 ∨ 7 < instr then s else updPins (clearKeys s) (fun p => { p with tapHot := true })

def execTapInstructionLoad (instr : Nat) (s : State) : Host.Outcome State Fault Refusal := .next (tapInstructionLoad instr s)

/-- TRST_RELEASE (R682): after such an instruction the node is reset as by `RST_N`, and with `RST_N` high leaves the reset
again at once. -/
def trstRelease (x : Straps) (boot : Boot) (s : State) : State :=
  if !s.pins.tapHot then s
  else
    let t := updPins (resetNode s) (fun p => { p with tapHot := false, pcieUp := false })
    if s.pins.rstN then runSpring boot (sampleStraps { t with life := { t.life with tries := 0 } } x) else t

def execTrstRelease (straps : Straps) (boot : Boot) (s : State) : Host.Outcome State Fault Refusal :=
  .next (trstRelease straps boot s)

end Sys2Proof.Machine
end

