-- ==== Sys2Proof/Machine/Security.lean ====
section
/-!
DEFINITION. The management plane's security: entropy (R552), SPDM sessions and measurements (R548–R550, Tables 14-1, 14-2), the
owner anchor (R573), UTC time (R569), the sideband's alert response (R674) and power samples (R716).
-/

namespace Sys2Proof.Machine

/-! ## Entropy (R551, R552) -/

/-- ENTROPY_HEALTH_FAIL (R552): `DRBG_OK` clears, and nothing is drawn until a reseed passes. -/
def entropyHealthFail (test : Nat) (s : State) : State :=
  if !s.pins.rstN || s.life.step < 5 then s
  else raise { s with crypto := { s.crypto with drbgOk := false } } 0x0B01 none 0 test

def execEntropyHealthFail (test : Nat) (s : State) : Host.Outcome State Fault Refusal := .next (entropyHealthFail test s)

/-- DRBG_RESEED (R552): draws go on, and each partition whose reset waited for its key has it. -/
def drbgReseed (s : State) : State :=
  if !s.pins.rstN || s.life.step < 5 || s.crypto.drbgOk then s
  else
    let s := { s with crypto := { s.crypto with drbgOk := true } }
    forAll s s.parts (fun s e => if e.2.waitDraw then drawKey s e.1 else s)

def execDrbgReseed (s : State) : Host.Outcome State Fault Refusal := .next (drbgReseed s)

/-! ## SPDM (R548–R550; response codes as in DSP0274, PRESUMED, log 40) -/

/-- SPDM is served from spring step 0x01, and in the winter of a node that could not boot (R644). -/
def spdmServed (s : State) : Bool := s.pins.auxIn && s.pins.rstN && (decide (1 ≤ s.life.step) || s.life.state == 3)

/-- A response leaves. -/
def answerSpdm (s : State) (r : SpdmRsp) : State := { s with out := { s.out with spdm := s.out.spdm ++ [r] } }

/-- May a response that needs a draw be made? From step 0x05 the DRBG must be healthy (R552). -/
def spdmDraws (s : State) : Bool := s.crypto.drbgOk || decide (s.life.step < 5)

/-- The key pair of a certificate slot: 0 the identity, 1 the alias (Table 14-1). -/
def slotKey (s : State) (signer : Nat) : Option KeyPair := if signer = 0 then s.crypto.identity else s.crypto.aliasKey

/-- SPDM_KEY_EXCHANGE: a session opens unless four are open. `requester` is the digest of the key a requester that
authenticates itself has proved: it must be the owner's, and until the owner anchor is written no such session is accepted
(R573, Table 14-6). -/
def spdmKeyExchange (signer : Nat) (requester : Option Nat) (s : State) : State :=
  if !spdmServed s || 2 ≤ signer || !spdmDraws s then s
  else if 4 ≤ s.crypto.sessions.length then answerSpdm s ⟨0x7F, 0x0A, [], []⟩
  else if requester.isSome && !(s.crypto.ownerSet && requester == some s.crypto.ownerDigest) then answerSpdm s ⟨0x7F, 0x06, [], []⟩
  else
    let id := ((List.range 4).find? (fun i => !mhas s.crypto.sessions i)).getD 0
    let n := s.crypto.draws + 1
    let s := { s with crypto := { s.crypto with
      draws := n, sessions := mset s.crypto.sessions id ⟨signer, requester.isSome⟩ } }
    answerSpdm s ⟨0x64, id, [], signWith (slotKey s signer) (Config.spdmTranscript n) (Config.drawBytes n 48)⟩

def execSpdmKeyExchange (signer : Nat) (requester : Option Nat) (s : State) : Host.Outcome State Fault Refusal :=
  .next (spdmKeyExchange signer requester s)

/-- The bytes of a composition map (Tables 13-9 to 13-11). -/
def mapBytes (m : CompMap) : Bytes :=
  leBytes 4 m.epoch ++ leBytes 4 (b2n m.mixed + 2 * m.len) ++ leBytes 8 m.equinox ++ leBytes 4 m.grace ++
  leBytes 2 m.members.length ++ leBytes 2 m.root ++ zeros 40 ++
  m.members.flatMap (fun e => leBytes 8 e.nodeId ++ leBytes 16 e.addr ++ leBytes 2 e.group ++ leBytes 1 e.pos ++
    leBytes 1 e.gsize ++ leBytes 2 e.parent ++ leBytes 2 e.ver) ++
  (List.range 65536).flatMap (fun i => leBytes 8 (shardEntry m i))

/-- `CRYPTO.CTL` (Table 14-7). -/
def cryptoCtl (s : State) : Nat :=
  packFields [(0, 1, b2n s.crypto.lock), (1, 1, b2n s.crypto.svcWr), (2, 2, s.crypto.evCoarse)]

/-- Security version of the running package. -/
def fwSvn (s : State) : Nat := leNat (bread (fwSlot s s.fw.running) 8 2)

/-- The digest a measurement index reports (Table 14-2, R550). -/
def measurement (s : State) (i : Nat) : Option Bytes :=
  let sha := fun (bs : Bytes) => some (sha384 bs)
  if i = 1 then some (fitTo 48 Config.romDigest)
  else if i = 2 ∨ i = 3 ∨ i = 4 then s.fw.measured[i - 2]?
  else if i = 5 then sha (leBytes 4 (fwSvn s) ++ leBytes 4 (fwSvn s) ++ leBytes 4 (fwSvn s))
  else if i = 6 then sha (leBytes 4 s.hw.variant ++ leBytes 48 s.crypto.ownerDigest)
  else if i = 16 then
    match s.maps.cur with
    | some m => sha (leBytes 4 m.epoch ++ sha384 (mapBytes m))
    | none => sha (leBytes 4 0 ++ zeros 48)
  else if i = 17 then
    sha (leBytes 8 (cryptoCtl s) ++ (List.range 40).flatMap (fun a => (List.range 7).flatMap (fun j => leBytes 8 (anchorWord s a j))))
  else none

/-- Measurement value type in a DMTF block: immutable ROM, mutable firmware, hardware and firmware configuration, version. -/
def blockType (i : Nat) : Nat := if i = 1 then 0 else if i < 5 then 1 else if i = 5 then 7 else if i = 6 then 2 else 3

/-- A DMTF measurement block: index, specification, size, value type, value size, SHA-384 digest. -/
def measureBlock (s : State) (i : Nat) : Option (Nat × Bytes) :=
  (measurement s i).map (fun d => (i, leBytes 1 i ++ leBytes 1 1 ++ leBytes 2 51 ++ leBytes 1 (blockType i) ++ leBytes 2 48 ++
    d))

/-- The indices of Table 14-2. -/
def measureIndices : List Nat := [1, 2, 3, 4, 5, 6, 16, 17]

/-- SPDM_GET_MEASUREMENTS (R549): one block, or all for index 0xFF; signed when the request asks for it with a nonce. Session 4
or more stands for a request outside a session. -/
def spdmGetMeasurements (session index : Nat) (nonce : Option Nat) (s : State) : State :=
  if !spdmServed s || !spdmDraws s || (decide (session < 4) && !mhas s.crypto.sessions session) then s
  else
    let bs := (if index = 0xFF then measureIndices else [index]).filterMap (measureBlock s)
    if bs.isEmpty && index != 0 then answerSpdm s ⟨0x7F, 0x01, [], []⟩
    else
      let n := s.crypto.draws + 1
      let s := { s with crypto := { s.crypto with draws := n } }
      let sig := match nonce with
        | some v => signWith s.crypto.aliasKey
            (sha384 (bs.flatMap (fun b => b.2) ++ leBytes 32 v ++ (Config.drawBytes n 80).take 32)) ((Config.drawBytes n 80).drop 32)
        | none => []
      answerSpdm s ⟨0x60, session, bs, sig⟩

def execSpdmGetMeasurements (session index : Nat) (nonce : Option Nat) (s : State) : Host.Outcome State Fault Refusal :=
  .next (spdmGetMeasurements session index nonce s)

/-- OWNER_ANCHOR_WRITE (R573): once, over a session the node has authenticated with its identity key. -/
def ownerAnchorWrite (session digest : Nat) (s : State) : State :=
  match mget s.crypto.sessions session with
  | none => s
  | some x =>
    if x.signer != 0 || s.crypto.ownerSet then s
    else { s with crypto := { s.crypto with ownerSet := true, ownerDigest := digest } }

def execOwnerAnchorWrite (session digest : Nat) (s : State) : Host.Outcome State Fault Refusal :=
  .next (ownerAnchorWrite session digest s)

/-- A path of register accesses is open: 0 the service endpoint, 1 an owner session, 2 `PART_CTL` operation 0x12
(Table 18-15). -/
def pathOpen (s : State) (path : Nat) : Bool :=
  awake s && (if path = 0 then s.pins.pcieUp else if path = 1 then s.crypto.sessions.any (fun e => e.2.owner) else path == 2)

/-- A write of `CRYPTO.UTC` (R569). -/
def writeUtc (s : State) (v : Nat) : State :=
  { s with crypto := { s.crypto with utcSet := true, utcSecs := bits v 62 0, utcNs := 0 } }

/-- UTC_WRITE: the owner session or the service endpoint. -/
def utcWrite (value path : Nat) (s : State) : State := if path < 2 && pathOpen s path then writeUtc s value else s

def execUtcWrite (value path : Nat) (s : State) : Host.Outcome State Fault Refusal := .next (utcWrite value path s)

/-- UTC advances with the reference clock: 100,000,000 of its cycles are 1 s (R569). -/
def utcTick (c : Crypto) : Crypto :=
  let n := c.utcNs + 2048
  if n < 1000000000 then { c with utcNs := n }
  else { c with utcNs := n - 1000000000, utcSecs := (c.utcSecs + 1) % 2 ^ 63 }

/-! ## Sideband and power samples -/

/-- SMBUS_ALERT_RESPONSE (R674): while `SB_ALERT_N` is asserted the node answers with its address. -/
def smbusAlertResponse (s : State) : State :=
  if !s.pins.auxIn || unread s = 0 then s
  else { s with out := { s.out with sideband := s.out.sideband ++ [0x4C + s.hw.sbAddr] } }

def execSmbusAlertResponse (s : State) : Host.Outcome State Fault Refusal := .next (smbusAlertResponse s)

/-- POWER_LIMIT_SAMPLE (R716): a hub's 1 ms average above its limit, half the design power, or all of it on A12. -/
def powerLimitSample (hub watts : Nat) (s : State) : State :=
  let limit := if hub1Present s then 1100 else 1150
  if !awake s || 2 ≤ hub || (hub == 1 && !hub1Present s) || decide (watts ≤ limit) then s
  else raise s 0x0201 none hub watts

def execPowerLimitSample (hub watts : Nat) (s : State) : Host.Outcome State Fault Refusal := .next (powerLimitSample hub watts s)

end Sys2Proof.Machine
end

