-- ==== Sys2Proof/Machine/Regs.lean ====
section
/-!
DEFINITION. The register space (18_registers): where each register lies (Tables 18-1, 18-3), what a read returns (R687–R689,
R696) and what a write does (R7, R573, R574, R692, R708, Table 18-19), and the rows that write single registers.
-/

namespace Sys2Proof.Machine

/-! ## Addresses (Tables 18-1 to 18-3) -/

/-- Blocks of the register space. -/
inductive RegBlock where
  | node (b : Nat)
  | log
  | hub (h : Nat)
  | stack (n : Nat)
  | port (p : Nat)
  | nand (c : Nat)
  | part (k : Nat)
  deriving DecidableEq, Repr

/-- The block an address lies in and the offset there; none outside every block or not 8-aligned (R687). Blocks of the node
are numbered `GLOBAL` 0 to `MGMT` 7; board link b is port 16 + b. -/
def regAt (addr : Nat) : Option (RegBlock × Nat) :=
  if addr % 8 ≠ 0 then none
  else if addr < 0x80000 then some (.node (addr / 0x10000), addr % 0x10000)
  else if addr < 0xA0000 then some (.log, addr - 0x80000)
  else if 0x100000 ≤ addr ∧ addr < 0x300000 then some (.hub (addr / 0x100000 - 1), addr % 0x100000)
  else if 0x1000000 ≤ addr ∧ addr < 0x2800000 then some (.stack ((addr - 0x1000000) / 0x100000), addr % 0x100000)
  else if 0x4000000 ≤ addr ∧ addr < 0x4100000 then some (.port ((addr - 0x4000000) / 0x10000), addr % 0x10000)
  else if 0x4200000 ≤ addr ∧ addr < 0x4240000 then some (.port (16 + (addr - 0x4200000) / 0x10000), addr % 0x10000)
  else if 0x4400000 ≤ addr ∧ addr < 0x4500000 then some (.nand ((addr - 0x4400000) / 0x10000), addr % 0x10000)
  else if 0x8000000 ≤ addr ∧ addr < 0x8800000 then some (.part ((addr - 0x8000000) / 0x10000), addr % 0x10000)
  else none

/-- Index of offset `off` in an array of `n` registers of `stride` bytes from `base`. -/
def regIndex (off base stride n : Nat) : Option Nat :=
  if base ≤ off ∧ off < base + stride * n ∧ (off - base) % stride = 0 then some ((off - base) / stride) else none

/-- A 64-bit word of bytes. -/
def wordAt (bs : Bytes) (off : Nat) : Nat := leAt bs off 8

/-! ## Reads -/

/-- `GLOBAL`: CAPS, XPORT_CTL, BOARD_STAT, IRQ_CTL, WR_IGNORED. A value that waits for a frame start reads as written (R696). -/
def readGlobal (s : State) (off : Nat) : Nat :=
  if off = 0x00 then capsWord s
  else if off = 0x08 then
    let low := match s.eg.xportNext with
      | some v => packFields [(20, 12, max 1 (bits v 31 20)), (8, 8, max 8 (bits v 15 8)), (0, 8, max 4 (bits v 7 0))]
      | none => packFields [(20, 12, s.eg.maxAge), (8, 8, s.eg.reorder), (0, 8, s.eg.rto)]
    low + packFields [(48, 16, s.eg.udpPort), (32, 16, s.eg.sportBase), (18, 2, s.eg.mpsMax)]
  else if off = 0x10 then
    packFields [(20, 4, s.hw.peers), (16, 4, s.hw.boardErr), (8, 2, s.hw.sbAddr), (7, 1, b2n s.hw.leadSel), (6, 1, b2n s.hw.strapFree),
      (4, 2, leadPos s), (2, 2, s.hw.gsize), (0, 2, s.hw.pos)]
  else if off = 0x18 then packFields [(16, 16, s.irq.pend), (0, 16, s.irq.en)]
  else if off = 0x20 then packFields [(48, 16, s.irq.ignCount), (0, 28, s.irq.ignAddr)]
  else 0

/-- `FRAME` (Tables 2-1, 2-2). -/
def readFrame (s : State) (off : Nat) : Nat :=
  if off = 0x00 then packFields [(2, 2, s.time.tickMode), (0, 2, s.time.lenPend.getD s.time.len)]
  else if off = 0x08 then
    packFields [(16, 16, (s.time.phaseErr % 65536).toNat), (2, 1, b2n s.time.lost), (1, 1, b2n s.time.holdover), (0, 1, b2n s.time.locked)]
  else if off = 0x10 then s.time.bint % 2 ^ 64
  else if off = 0x18 then s.time.frame % 2 ^ 64
  else 0

/-- `ADMIT` (Table 2-11). -/
def readAdmit (s : State) (off : Nat) : Nat :=
  if off = 0x00 then packFields [(32, 16, s.adm.energyBase), (16, 16, s.adm.energyCap), (0, 8, s.adm.energyCoef)]
  else if off = 0x10 then s.adm.admitted
  else if off = 0x18 then s.adm.deferred
  else 0

/-- `RAS` (Tables 15-3, 15-12, 15-17, 18-8). -/
def readRas (s : State) (off : Nat) : Nat :=
  if off = 0x00 then packFields [(12, 52, s.ras.written), (0, 12, s.ras.written)]
  else if off = 0x08 then packFields [(12, 1, b2n s.ras.sbLost), (0, 12, s.ras.sback)]
  else if off = 0x10 then packFields [(16, 16, s.ras.bgInterval), (0, 1, b2n s.ras.bgEn)]
  else if off = 0x18 then packFields [(32, 32, s.ras.bgPasses), (0, 13, s.ras.bgGroup)]
  else if off = 0x20 then s.ras.honoured % 2 ^ 64
  else match regIndex off 0x40 8 8 with
    | some c => s.ras.lost.getD c 0 % 2 ^ 64
    | none => 0

/-- Word w of record i of `RAS.LOG` (Table 11-18). -/
def readLog (s : State) (off : Nat) : Nat :=
  match mget s.ras.log (off / 32) with
  | some r => wordAt (evBytes false r) (off % 32)
  | none => 0

/-- `CRYPTO` (Tables 14-7 to 14-9, 14-11). -/
def readCrypto (s : State) (off : Nat) : Nat :=
  if off = 0x00 then cryptoCtl s
  else if off = 0x08 then packFields [(17, 1, b2n s.crypto.ownerSet), (16, 1, b2n s.crypto.drbgOk), (0, 16, s.crypto.hsFail)]
  else if off = 0x10 then s.crypto.nodeId
  else if off = 0x18 then packFields [(63, 1, b2n s.crypto.utcSet), (0, 63, s.crypto.utcSecs)]
  else match regIndex off 0x400 8 320 with
    | some i => if i % 8 < 7 then anchorWord s (i / 8) (i % 8) else 0
    | none => 0

/-- `SEARCH` (Tables 6-9 to 6-11). -/
def readSearch (s : State) (off : Nat) : Nat :=
  let o := s.oboe
  if off = 0x00 then packFields [(8, 1, b2n o.casc), (0, 1, b2n o.en)]
  else if off = 0x08 then
    packFields [(50, 2, o.stepNext), (48, 2, o.step), (32, 16, satTo 65535 o.updates.length), (0, 22, o.ents0.length + o.ents1.length)]
  else match regIndex off 0x400 8 128 with
    | some k => packFields [(22, 22, (partAt s k).idxReserved), (0, 22, (partAt s k).idxMax)]
    | none => 0

/-- `EGRESS` (Tables 12-2, 12-7, 12-8). -/
def readEgress (s : State) (off : Nat) : Nat :=
  let e := s.eg
  if off = 0x00 then packFields [(48, 4, e.protShare), (0, 48, e.dscp)]
  else if off = 0x08 then
    let e := (applyCc s).eg
    packFields [(32, 8, e.incFrames), (21, 11, e.inc), (16, 4, e.dec), (0, 11, e.minRate)]
  else if off = 0x10 then
    let e := (applyIpol s).eg
    packFields [(40, 8, e.hsMax), (32, 8, e.ctlMax), (24, 8, e.pburst), (15, 1, b2n e.pchg), (0, 15, e.prate)]
  else if off = 0x18 then e.drops
  else 0

/-- `MGMT` (Tables 16-2, 16-3, 16-9, 16-10, 18-10). -/
def readMgmt (s : State) (off : Nat) : Nat :=
  let l := s.life
  let f := s.fw
  if off = 0x00 then packFields [(7, 1, b2n l.force)]
  else if off = 0x08 then
    packFields [(40, 8, l.wcause), (32, 8, l.step), (24, 8, l.fail), (9, 1, b2n l.pendWinter), (8, 1, b2n (drained s)), (7, 1, b2n l.err),
      (0, 3, l.state)]
  else if off = 0x10 then packFields [(0, 1, f.next)]
  else if off = 0x18 then
    packFields [(32, 32, f.stagedVer), (16, 16, f.svnFloor), (4, 4, f.stageErr), (3, 1, b2n f.fallback), (2, 1, b2n f.staged), (0, 1, f.running)]
  else if off = 0x100 then packFields [(16, 16, s.mbox.reqLen), (0, 1, b2n s.mbox.go)]
  else if off = 0x108 then packFields [(32, 16, s.mbox.rspLen), (0, 2, s.mbox.state)]
  else if 0x1000 ≤ off ∧ off < 0x8000 then leNat (bread s.mbox.req (off - 0x1000) 8)
  else if 0x8000 ≤ off then wordAt s.mbox.rsp (off - 0x8000)
  else 0

/-- Live request contexts of a hub, and the 4 KiB blocks of its pool they hold, those of contexts of the other hub
included (Table 5-7). -/
def poolUse (s : State) (h : Nat) : Nat × Nat :=
  ((hubAt s h).ctxs.length + ((hubAt s (1 - h)).ctxs.filter (fun e => e.2.slot1.isSome)).length,
   ((hubAt s h).ctxs.map (fun e => e.2.blocks0)).sum + ((hubAt s (1 - h)).ctxs.map (fun e => e.2.blocks1)).sum)

/-- `HUB[h]` (Tables 5-5, 5-7, 9-5, 9-13). -/
def readHub (s : State) (h off : Nat) : Nat :=
  let y := hubAt s h
  if h = 1 ∧ !hub1Present s then 0
  else if off = 0x00 then packFields [(32, 16, y.vhold), (8, 1, b2n y.ven), (0, 8, y.vsize)]
  else if off = 0x08 then packFields [(16, 12, satTo 4095 (poolUse s h).1), (0, 16, 256 * y.vsize - (poolUse s h).2)]
  else if off = 0x10 then
    let d := y.t0.filter (fun e => e.2.dirty && decide (e.2.since ≤ s.time.frame))
    packFields [(21, 21, satTo 2097151 d.length), (0, 21, satTo 2097151 (d.filter (fun e => e.2.prio.isSome)).length)]
  else if off = 0x18 ∧ isA24F s then
    packFields [(24, 20, y.t2usable), (4, 20, t2Free s h / 10 ^ 9), (0, 1, b2n (decide (y.t2usable < 52000)))]
  else 0

/-- A spare group's map (Table 8-15). -/
def spareWord (m : SpareMap) : Nat :=
  packFields [(63, 1, b2n m.v0), (61, 2, m.bu0), (57, 4, m.core0), (56, 1, b2n m.v1), (54, 2, m.bu1), (50, 4, m.core1), (0, 50, m.failed)]

/-- `STACK[n]` (Tables 2-9, 8-7, 8-15, 18-9). -/
def readStack (s : State) (n off : Nat) : Nat :=
  let x := stackAt s n
  if stackCount s ≤ n then 0
  else if off = 0x00 then
    packFields [(24, 2, x.stepNext), (22, 2, x.step), (21, 1, b2n x.hotNext), (20, 1, b2n x.hot), (0, 16, (x.temp % 65536).toNat)]
  else if off = 0x08 then x.coreFault
  else if off = 0x10 then packFields [(0, 10, x.progUsed)]
  else match regIndex off 0x1000 8 256, regIndex off 0x2000 8 1024 with
    | some g, _ => spareWord (spareAt s n g)
    | _, some j => mgetD x.perf j 0
    | none, none => 0

/-- Lanes of a port as a set of bits. -/
def laneBits (p : Nat) (f : Nat → Bool) : Nat := (List.range (laneCount p)).foldl (fun n l => if f l then n + 2 ^ l else n) 0

/-- `LANE_STAT` of a port or board link (Tables 15-10, 15-11). -/
def laneStat (s : State) (p : Nat) : Nat :=
  let x := portAt s p
  let w := laneCount p
  let width := if x.lanes = 0 then 0 else if x.lanes = w then 3 else if x.lanes = w / 2 then 2 else 1
  let fenced := laneBits p (fun l => s.ras.fences.any (fun f => f.unit == laneUnit p l && decide (f.start ≤ s.time.frame)))
  packFields [(16 + 2 * w, w, fenced), (16 + w, w, x.damped), (16, w, laneBits p (lanesInUse s p).contains), (15, 1, b2n (laneMap s p)),
    (13, 2, width), (0, 13, x.flaps)]

/-- `PORT[p]` and `BLINK[b]` (Tables 12-3 to 12-5, 15-10, 15-11). -/
def readPort (s : State) (p off : Nat) : Nat :=
  let x := portAt s p
  if !portPresent s p then 0
  else if off = 0x10 then laneStat s p
  else if off = 0x200 then x.txBytes
  else if off = 0x208 then x.rxBytes
  else if off = 0x210 then x.retx
  else if 16 ≤ p then 0
  else if off = 0x00 then
    let y := applyEgctl x
    packFields ((0, 8, y.overhead) :: (List.range 5).map (fun i => (8 + 8 * i, 8, y.q.getD i 0)))
  else if off = 0x08 then
    packFields [(32, 32, x.switchF), (17, 1, b2n x.err), (16, 1, b2n x.arm), (9, 5, x.count1), (4, 5, x.count0), (0, 1, x.active)]
  else match regIndex off 0x100 8 32 with
    | some i => gateEntry x (i / 16) (i % 16)
    | none => 0

/-- `NAND[c].STAT` (Table 9-14). -/
def readNand (s : State) (c off : Nat) : Nat :=
  if !isA24F s || off ≠ 0 then 0
  else
    let bs := (mgetD (ftlAt s (hubOfChannel c)).channels c ⟨[]⟩).blocks
    packFields [(32, 16, satTo 65535 (bs.filter (fun b => b.2.retired)).length), (16, 16, satTo 65535 (eraseRange s c).2),
      (0, 16, satTo 65535 (eraseRange s c).1)]

/-- `PART[k]`; a free partition's reads return reset values (R688). -/
def readPart (s : State) (k off : Nat) : Nat :=
  let p := if (partAt s k).state = 0 then Part0.reset else partAt s k
  if off = 0x00 then
    packFields [(48, 16, p.resets), (24, 8, p.tsWeight), (22, 1, b2n p.tsgEn), (17, 5, p.tsg), (16, 1, b2n (residentAt s k s.time.frame)),
      (8, 7, p.ranges.length), (0, 3, p.state)]
  else if off = 0x08 then packFields [(16, 1, b2n p.deferNote), (8, 8, p.share), (0, 8, p.deferMax)]
  else if off = 0x10 then packFields [(16, 11, p.depth), (0, 16, p.queueEn)]
  else if off = 0x18 then packFields [(48, 16, p.used1), (32, 16, p.quota1), (16, 16, p.used0), (0, 16, p.quota0)]
  else if off = 0x20 then packFields [(32, 17, p.evMax), (0, 19, p.entMax)]
  else if off = 0x28 then packFields [(32, 17, p.evUsed), (0, 19, p.entUsed)]
  else if off = 0x30 then b2n p.solstice
  else if off = 0x38 then packFields [(8, 4, p.egBody), (4, 4, p.egFwd), (0, 4, p.egStat)]
  else if off = 0x40 then packFields [(32, 8, p.egWeight), (31, 1, b2n p.egChg), (16, 8, p.egBurst), (0, 11, p.egRate)]
  else if off = 0x48 then p.maintReq.toNat
  else if off = 0x58 then p.shotFrame
  else match regIndex off 0x100 8 64, regIndex off 0x300 8 16, regIndex off 0x380 8 16 with
    | some i, _, _ => match p.ranges[i]? with
      | some r => packFields [(15, 15, r.2 - 1), (0, 15, r.1)]
      | none => 0
    | _, some i, _ => p.meters.getD i 0
    | _, _, some i => p.shot.getD i 0
    | none, none, none => 0

/-- A register read: the value, and the state after it (`CORE_FAULT` clears with the read, R7); none for an access that
fails (R687). -/
def readReg (s : State) (addr : Nat) : Option (State × Nat) :=
  match regAt addr with
  | none => none
  | some (.node b, off) =>
    some (s, if b = 0 then readGlobal s off else if b = 1 then readFrame s off else if b = 2 then readAdmit s off
      else if b = 3 then readRas s off else if b = 4 then readCrypto s off
      else if b = 5 then (if isA24F s then readSearch s off else 0)
      else if b = 6 then readEgress s off else readMgmt s off)
  | some (.log, off) => some (s, readLog s off)
  | some (.hub h, off) => some (s, readHub s h off)
  | some (.stack n, off) => some (if off = 0x08 then coreFaultRead n s else s, readStack s n off)
  | some (.port p, off) => some (s, readPort s p off)
  | some (.nand c, off) => some (s, readNand s c off)
  | some (.part k, off) => some (s, readPart s k off)

/-! ## Writes -/

/-- A node in summer or autumn: writes that only spring and winter allow are ignored (R30, R477). -/
def inService (s : State) : Bool := s.life.state == 1 || s.life.state == 2

/-- `FRAME.CTL` (Table 2-1, R30): `LEN` waits for the next frame start that starts a base interval. -/
def writeFrameCtl (s : State) (v : Nat) : State :=
  let s := updTime s (fun t => { t with tickMode := bits v 3 2 })
  if inService s then noteIgnored s 0x10000 else updTime s (fun t => { t with lenPend := some (bits v 1 0) })

/-- `GLOBAL.XPORT_CTL` (Table 11-20, R477, R478). -/
def writeXport (s : State) (v : Nat) : State :=
  let s := { s with eg := { s.eg with xportNext := some v } }
  if inService s then noteIgnored s 0x08
  else { s with eg := { s.eg with
    udpPort := bits v 63 48, sportBase := bits v 47 32, mpsMax := if bits v 19 18 = 3 then 2 else bits v 19 18 } }

/-- `GLOBAL.IRQ_CTL` (Table 18-5). -/
def writeIrq (s : State) (v : Nat) : State :=
  { s with irq := { s.irq with
    pend := (List.range 16).foldl (fun n c => if bit s.irq.pend c && !bit v (16 + c) then n + 2 ^ c else n) 0
    en := bits v 15 0 } }

/-- `RAS.LOG_SBACK` (R693): `SBACK` moves forward modulo 4,096, never past the next record. -/
def writeSback (s : State) (v : Nat) : State :=
  let mv := (bits v 11 0 + 4096 - s.ras.sback % 4096) % 4096
  { s with ras := { s.ras with
    sback := s.ras.sback + min mv (s.ras.written - s.ras.sback), sbLost := s.ras.sbLost && !bit v 12 } }

/-- `CRYPTO.CTL` (R574). -/
def writeCryptoCtl (s : State) (v : Nat) : State :=
  if s.crypto.lock then s
  else { s with crypto := { s.crypto with evCoarse := bits v 3 2, svcWr := bit v 1, lock := bit v 0 } }

/-- May a path write the anchor registers (R573, R574, Table 18-15)? -/
def anchorsOpen (s : State) (path : Nat) : Bool :=
  s.crypto.ownerSet && !s.crypto.lock && (path == 1 || (path == 0 && s.crypto.svcWr))

/-- `CRYPTO.ANCHOR[i][j]` (Table 14-9, R576). -/
def writeAnchor (s : State) (addr i j v : Nat) : State :=
  if j < 6 ∧ anchorValid s i then noteIgnored s addr
  else if 7 ≤ j then s
  else { s with crypto := { s.crypto with
    anchors := mset s.crypto.anchors (8 * i + j) (BitVec.ofNat 64 (if j = 6 then v % 2 else v)) } }

/-- `SEARCH.CTL` (Table 6-9, R230). -/
def writeSearchCtl (s : State) (v : Nat) : State :=
  let may := !s.oboe.en && s.oboe.updates.isEmpty
  let s := { s with oboe := { s.oboe with en := bit v 0, casc := if may then bit v 8 else s.oboe.casc } }
  if may then s else noteIgnored s 0x50000

/-- `SEARCH.QUOTA[k]` (Table 6-11, R231). -/
def writeIdxQuota (s : State) (k v : Nat) : State :=
  let n := bits v 21 0
  let other := ((s.parts.filter (fun e => e.1 != k)).map (fun e => e.2.idxMax)).sum
  if 2097152 < other + n ∧ (partAt s k).idxMax < n ∨ n < (partAt s k).idxReserved then noteIgnored s (0x50400 + 8 * k)
  else updPart s k (fun p => { p with idxMax := n })

/-- `MGMT.FW_CTL` (Table 16-9, R642, R643). -/
def stagePackage (s : State) : State :=
  let i := 1 - s.fw.running
  match packageErr s i with
  | 0 => { s with fw := { s.fw with staged := true, stagedVer := leNat (bread (fwSlot s i) 4 4), stageErr := 0 } }
  | e => { s with fw := { s.fw with staged := false, stagedVer := 0, stageErr := e } }

def commitPackage (s : State) : State :=
  if s.fw.fallback then s else { s with fw := { s.fw with svnFloor := max s.fw.svnFloor (fwSvn s) } }

def writeFwCtl (s : State) (v : Nat) : State :=
  let s := { s with fw := { s.fw with next := bits v 0 0 } }
  let s := if bit v 1 then stagePackage s else s
  if bit v 2 then commitPackage s else s

/-- `MGMT.MBOX_CTL` (Table 18-10, R698): `GO` with a length or an operation that is not allowed is refused. -/
def writeMboxCtl (s : State) (v : Nat) : State :=
  let busy := s.mbox.state == 1
  let s := if busy then s else { s with mbox := { s.mbox with reqLen := bits v 31 16 } }
  if busy || !bit v 0 then s
  else
    let op := leNat (bread s.mbox.req 0 1)
    let ok := decide (16 ≤ s.mbox.reqLen) && decide (s.mbox.reqLen ≤ 28672) && decide (1 ≤ op) && decide (op ≤ 4)
    { s with mbox := { s.mbox with go := ok, state := if ok then s.mbox.state else 3 } }

/-- `MGMT.MBOX_REQ`: a word of the request buffer, while no request runs (R698). -/
def writeMboxReq (s : State) (off v : Nat) : State :=
  if s.mbox.state = 1 then s
  else { s with mbox := { s.mbox with
    req := (List.range 8).foldl (fun m i => bset m (off + i) (BitVec.ofNat 8 (v >>> (8 * i)))) s.mbox.req } }

/-- `HUB[h].VPOOL_CTL` (Table 5-5, R165); a `SIZE` above 128 stores 128 (DESIGN CHOICE, log 131). -/
def writeVpool (s : State) (h v : Nat) : State :=
  let y := hubAt s h
  let may := !y.ven && (poolUse s h).1 == 0
  let s := updHub s h (fun y => { y with
    vhold := max 16 (bits v 47 32), ven := bit v 8, vsize := if may then min 128 (bits v 7 0) else y.vsize })
  if may then s else noteIgnored s (0x100000 * (h + 1))

/-- Writes of the node's single blocks. -/
def writeNode (path : Nat) (s : State) (b off addr v : Nat) : State :=
  match b with
  | 0 => if off = 0x08 then writeXport s v else if off = 0x18 then writeIrq s v else s
  | 1 => if off = 0x00 then writeFrameCtl s v else if off = 0x08 then updTime s (fun t => { t with lost := t.lost && !bit v 2 }) else s
  | 2 =>
    if off = 0x00 then { s with adm := { s.adm with energyBase := bits v 47 32, energyCap := bits v 31 16, energyCoef := bits v 7 0 } }
    else s
  | 3 =>
    if off = 0x08 then writeSback s v
    else if off = 0x10 then { s with ras := { s.ras with bgInterval := max 16 (bits v 31 16), bgEn := bit v 0 } }
    else s
  | 4 =>
    if path = 2 then s
    else if off = 0x00 then writeCryptoCtl s v
    else if off = 0x18 then writeUtc s v
    else match regIndex off 0x400 8 320 with
      | some i => if anchorsOpen s path then writeAnchor s addr (i / 8) (i % 8) v else s
      | none => s
  | 5 =>
    if !isA24F s then s
    else if off = 0x00 then writeSearchCtl s v
    else match regIndex off 0x400 8 128 with
      | some k => writeIdxQuota s k v
      | none => s
  | 6 =>
    if off = 0x00 then { s with eg := { s.eg with protShare := max 8 (bits v 51 48), dscp := bits v 47 0 } }
    else if off = 0x08 then { s with eg := { s.eg with ccNext := some v } }
    else if off = 0x10 then { s with eg := { s.eg with ipolNext := some v } }
    else s
  | _ =>
    if off = 0x00 then lifeWrite s (bits v 2 0) (bit v 7)
    else if off = 0x08 then { s with life := { s.life with err := s.life.err && !bit v 7 } }
    else if off = 0x10 then writeFwCtl s v
    else if off = 0x100 then writeMboxCtl s v
    else if 0x1000 ≤ off ∧ off < 0x8000 then writeMboxReq s (off - 0x1000) v
    else s

/-- Writes of a fabric port's registers. -/
def writePort (s : State) (p off v : Nat) : State :=
  if 16 ≤ p || !portPresent s p then s
  else if off = 0x00 then updPort s p (fun x => { x with egctlNext := some v })
  else if off = 0x08 then writeGateCtl s p v
  else match regIndex off 0x100 8 32 with
    | some i => writeGateEntry s p (i / 16) (i % 16) v
    | none => s

/-- A register write over a path (R7, R687, R688); an address that R687 rejects changes nothing. -/
def writeReg (path : Nat) (s : State) (addr value : Nat) : State :=
  let v := value % 2 ^ 64
  match regAt addr with
  | none => s
  | some (.node b, off) => writeNode path s b off addr v
  | some (.log, _) => s
  | some (.hub h, off) => if off = 0 && (h == 0 || hub1Present s) then writeVpool s h v else s
  | some (.stack _, _) => s
  | some (.port p, off) => writePort s p off v
  | some (.nand _, _) => s
  | some (.part k, off) =>
    if partRegKind off = some true then
      (if (partAt s k).state = 0 then noteIgnored s addr else writePartReg s k off v)
    else s

/-! ## The rows -/

/-- REGISTER_WRITE (R7): a write over the service endpoint or the owner session. Through the endpoint, one narrower than a
register (R5), or to an address that R687 rejects, ends in an unsupported-request completion. -/
def registerWrite (path addr : Nat) (value : RegData) (s : State) : State :=
  if !(decide (path < 2) && pathOpen s path) then s
  else if value.bytes = 8 && (regAt addr).isSome then writeReg path s addr value.word
  else if path = 0 then { s with out := { s.out with unsupported := s.out.unsupported ++ [addr] } }
  else s

def execRegisterWrite (path addr : Nat) (value : RegData) (s : State) : Host.Outcome State Fault Refusal :=
  .next (registerWrite path addr value s)

/-- LOG_SBACK_WRITE (R693). -/
def logSbackWrite (value : Nat) (s : State) : State := if awake s then writeSback s value else s

def execLogSbackWrite (value : Nat) (s : State) : Host.Outcome State Fault Refusal := .next (logSbackWrite value s)

/-- FW_STAGE (R642): a write of `STAGE` = 1. -/
def fwStage (s : State) : State := if awake s then stagePackage s else s

def execFwStage (s : State) : Host.Outcome State Fault Refusal := .next (fwStage s)

/-- FW_COMMIT (R643): a write of `COMMIT` = 1. -/
def fwCommit (s : State) : State := if awake s then commitPackage s else s

def execFwCommit (s : State) : Host.Outcome State Fault Refusal := .next (fwCommit s)

end Sys2Proof.Machine
end

