-- ==== Sys2Proof/Machine/Mbox.lean ====
section
/-!
DEFINITION. The management mailbox (R698–R707): its four requests from the service host, an owner session and `PART_CTL`
operation 0x12, access lists, and table reads. Paths are numbered as in Table 18-15: 0 the service host, 1 an owner session,
2 `PART_CTL`.
-/

namespace Sys2Proof.Machine

/-! ## Requests (Table 18-11) -/

def mbOp (req : Bytes) : Nat := leAt req 0 1
def mbStaged (req : Bytes) : Bool := bit (leAt req 1 1) 0
def mbCount (req : Bytes) : Nat := leAt req 4 4
def mbOffset (req : Bytes) : Nat := leAt req 8 4
def mbTag (req : Bytes) : Nat := leAt req 12 4
def mbBody (req : Bytes) : Bytes := req.drop 16

/-- Who sent a request: its path, the owner session, the `PART_CTL` that carries it. -/
structure MboxFrom where
  path : Nat
  session : Nat
  cid : Option Nat
  deriving DecidableEq, Repr

/-- Zero fields, `COUNT` and `OFFSET` of the header (Table 18-11). -/
def mbHeaderOk (req : Bytes) : Bool :=
  let op := mbOp req
  let n := (mbBody req).length
  decide (16 ≤ req.length) && (leAt req 1 1 == 0 || (op == 1 && leAt req 1 1 == 1)) && leAt req 2 2 == 0 &&
  (if op = 1 then mbCount req == 0 else if op = 2 then decide (1 ≤ mbCount req) && decide (mbCount req ≤ 1024) && n == 16 * mbCount req
   else n == mbCount req) &&
  (op == 3 || op == 4 || mbOffset req == 0)

/-- Operations a path accepts (Table 18-15). -/
def mbAccepts (path op : Nat) : Bool := op == 2 || op == 4 || (path == 0 && (op == 1 || op == 3))

/-- Send a response where the request came from (R698, R705). -/
def answerMbox (s : State) (w : MboxFrom) (rsp : Bytes) : State :=
  if w.path = 0 then mboxDone s rsp
  else if w.path = 1 then { s with mbox := { s.mbox with owner := s.mbox.owner ++ [(w.session, rsp)] } }
  else match w.cid with
    | none => s
    | some cid =>
      let n := ((cmdAt s cid).map (fun c => c.planD.start)).getD 0
      finishBody s cid stOK 0 (max n s.time.frame) 0 0 rsp

/-! ## Table reads (R706, Table 18-14) -/

/-- A stream entry (Table 3-9). -/
def streamWord (x : Stream) : Nat :=
  packFields [(0, 48, x.ctx), (48, 8, x.layer), (56, 6, x.kvh), (62, 2, x.layout), (64, 4, x.fmt), (68, 3, x.dcode), (71, 7, x.group),
    (78, 1, x.openPol), (79, 1, x.home), (80, 7, x.part), (88, 8, x.fmtVer), (96, 32, x.length), (128, 20, x.sealed),
    (148, 15, x.window), (164, 15, x.base), (179, 15, x.width), (194, 5, x.chunksMax), (200, 21, x.parent), (221, 19, x.forkPages),
    (240, 4, x.depth), (244, 16, x.children), (260, 2, x.state)]

/-- A migration record (Table 9-9). -/
def migWord (m : MigRec) : Nat :=
  packFields [(0, 21, m.stream), (21, 15, m.abase), (36, 15, m.awidth), (51, 19, m.doneTo), (70, 2, m.state)]

/-- An Oboe entry and its association record (Tables 6-5, 6-6). -/
def oboeBytes (e : OboeEnt) : Bytes :=
  leBytes 24 (packFields [(0, 128, e.sig), (128, 16, e.tag)]) ++
  leBytes 16 (packFields [(0, 16, e.tag), (57, 18, e.page), (75, 21, e.stream), (96, 32, e.version)])

/-- The machine with its tables as they stood at the most recent frame start (R706). -/
def asOfFrame (s : State) : State :=
  let v := s.mbox.tables
  { s with
    hub0 := { s.hub0 with streams := v.streams0, migs := v.migs0 }
    hub1 := { s.hub1 with streams := v.streams1, migs := v.migs1 }
    slices := v.slices
    oboe := { s.oboe with ents0 := v.oboe0, ents1 := v.oboe1 }
    chains := { s.chains with ents := v.chainEnts } }

/-- A table read of a type that needs no grant: the bytes, or the status it fails with. -/
def readTable (s : State) (table addr value : Nat) : Except Nat Bytes :=
  if table = 1 then
    if addr ≠ 0 ∨ 2 ^ 21 ≤ value ∨ (hubOfHandle value = 1 ∧ !hub1Present s) then .error stMALFORMED
    else .ok (leBytes 64 ((streamAt s value).map streamWord |>.getD 0))
  else if table = 5 then
    if addr ≠ 0 ∨ 2 ^ 21 ≤ value ∨ (hubOfHandle value = 1 ∧ !hub1Present s) then .error stMALFORMED
    else .ok (leBytes 16 ((migOf s value).map migWord |>.getD 0))
  else if table = 6 then
    if !isA24F s then .error stUNSUPPORTED
    else if 2 ≤ addr ∨ 1048576 ≤ value then .error stMALFORMED
    else .ok ((mget (if addr = 1 then s.oboe.ents1 else s.oboe.ents0) value).map oboeBytes |>.getD (zeros 40))
  else
    if addr ≠ 0 ∨ 262144 ≤ value then .error stMALFORMED
    else .ok (leBytes 32 (match mget s.chains.ents value with
      | some e => putField e.image 78 2 e.state
      | none => 0))

/-- Does a summary record start at a chunk and an offset in 16-byte units? -/
def summaryStarts (x : Slice) (chunk off : Nat) : Bool :=
  match mget x.sums chunk with
  | none => false
  | some y => y.used.any (fun j => j * y.recSize / 16 == off)

/-- The header of the summary record that starts at an offset of a chunk, its sectors read and checked; one that fails ends the entry
with `INTEGRITY` (DESIGN CHOICE, log 146). -/
def checkedHeader (s : State) (i chunk off : Nat) : Except Nat Bytes :=
  let x := sliceAt s i
  let o := 16 * off
  let js := (List.range (ceilDiv (o % 512 + 28) 512)).map (fun j => o / 512 + j)
  match readSectors x i (partKey s (((mget x.sums chunk).map (fun y => y.part)).getD 0)) chunk sumObj js with
  | .ok l => .ok (fitTo 32 (slice (spread 4096 l) o 28))
  | .error _ => .error stINTEGRITY

/-- A table read of types 0x2 to 0x4 on a slice. -/
def readSliceTable (s : State) (table i value : Nat) : Except Nat Bytes :=
  let x := sliceAt s i
  if table = 2 then .ok (leBytes 16 ((mget x.ents value).map pageWord |>.getD 0))
  else if table = 3 then .ok (leBytes 16 ((mget x.dir value).map dirWord |>.getD 0))
  else if summaryStarts x (bits value 14 0) (bits value 23 16) then checkedHeader s i (bits value 14 0) (bits value 23 16)
  else .error stMALFORMED

/-- The location a slice table read names exists. -/
def sliceTableOk (s : State) (table i value : Nat) : Bool :=
  decide (i < sliceCount s) &&
    (if table = 2 then decide (value < 24576) else if table = 3 then decide (value < 16384)
     else bits value 15 15 == 0 && decide (value < 2 ^ 24))

/-! ## Access lists (R702–R704, Table 18-13) -/

/-- Bytes of the object of a table. -/
def tableBytes (table : Nat) : Nat := [0, 64, 16, 16, 32, 16, 40, 32].getD table 0

/-- A write the path's rights forbid (Table 18-15, R574). -/
def writeDenied (s : State) (path addr : Nat) : Bool :=
  if addr < 0x40000 ∨ 0x50000 ≤ addr then false
  else
    let off := addr - 0x40000
    path == 2 || (off == 0 && s.crypto.lock) || (decide (0x400 ≤ off) && decide (off < 0xE00) && !anchorsOpen s path)

/-- What one entry of a list does. -/
inductive EntryOut where
  | done (s : State) (out : Bytes)
  | fails (status : Nat)
  | waits (table slice value : Nat)

/-- Run one entry: two little-endian words (Table 18-13). -/
def runEntry (s : State) (path outLen lo hi : Nat) : EntryOut :=
  let addr := bits lo 31 0
  let aop := bits lo 63 60
  let table := bits lo 59 56
  let roomFor := fun n => decide (16 + outLen + n ≤ 32768)
  if bits lo 55 32 != 0 || aop == 0 || decide (3 < aop) || (aop != 3 && table != 0) || (aop == 1 && hi != 0) then .fails stMALFORMED
  else if aop = 1 then
    if !roomFor 8 && (regAt addr).isSome then .fails stNOBUDGET
    else match readReg s addr with
      | none => .fails stMALFORMED
      | some (t, v) => .done t (leBytes 8 v)
  else if aop = 2 then
    if (regAt addr).isNone then .fails stMALFORMED
    else if writeDenied s path addr then .fails stDENIED
    else .done (writeReg path s addr hi) []
  else if table = 0 ∨ 7 < table then .fails stMALFORMED
  else if 2 ≤ table ∧ table ≤ 4 then
    if !sliceTableOk s table addr hi then .fails stMALFORMED
    else if sliceOut s addr s.time.frame then .fails stFENCED
    else if !roomFor (tableBytes table) then .fails stNOBUDGET
    else .waits table addr hi
  else match readTable (asOfFrame s) table addr hi with
    | .error st => .fails st
    | .ok b => if roomFor b.length then .done s b else .fails stNOBUDGET

/-- The path and sender of a waiting list. -/
def waitFrom (w : TableWait) : MboxFrom := ⟨w.path, w.session, w.cid⟩

/-- End a list with a status. -/
def listEnd (s : State) (w : TableWait) (st : Nat) : State := answerMbox s (waitFrom w) (mboxReply 2 st w.done w.tag w.out)

/-- Run a list from where it stands until it ends, fails, or waits for a table read (R702, R703, R707). -/
def runList (fuel : Nat) (s : State) (w : TableWait) : State :=
  match fuel with
  | 0 => s
  | f + 1 =>
    if w.rest.isEmpty then listEnd s w stOK
    else
      match runEntry s w.path w.out.length (leAt w.rest 0 8) (leAt w.rest 8 8) with
      | .fails st => listEnd s w st
      | .done t out => runList f t { w with rest := w.rest.drop 16, out := w.out ++ out, done := w.done + 1 }
      | .waits table i value =>
        { s with mbox := { s.mbox with
          waits := s.mbox.waits ++ [{ w with table := table, slice := i, value := value }] } }

/-! ## The requests -/

/-- Refuse a request. -/
def mbRefuse (s : State) (w : MboxFrom) (req : Bytes) : State :=
  answerMbox s w (mboxReply (mbOp req) stMALFORMED 0 (mbTag req) [])

/-- MB_OP 0x01 (R700): one `PART_CTL` command, handled as a command that the mailbox delivers. -/
def requestPartCtl (s : State) (w : MboxFrom) (req : Bytes) : State :=
  let body := mbBody req
  let whole := if mbStaged req then body ++ bread s.mbox.staging 0 (parseHdr body).paylen else body
  if body.length < 64 || (mbStaged req && (body.length != 64 || decide (1048576 < (parseHdr body).paylen))) ||
      (parseHdr body).opcode != opPART then mbRefuse s w req
  else acceptBody s ⟨mailboxConn, 0, 0, 0, 0, false, false, none, none⟩ whole

/-- MB_OP 0x02 (R702). -/
def requestList (s : State) (w : MboxFrom) (req : Bytes) : State :=
  runList 1025 s
    { path := w.path, rest := mbBody req, out := [], done := 0, tag := mbTag req, cid := w.cid, table := 0, slice := 0,
      value := 0, session := w.session }

/-- MB_OP 0x03 (R701). -/
def requestStaging (s : State) (w : MboxFrom) (req : Bytes) : State :=
  if 1048576 < mbOffset req + mbCount req then mbRefuse s w req
  else answerMbox { s with mbox := { s.mbox with staging := bwrite s.mbox.staging (mbOffset req) (mbBody req) } } w
    (mboxReply 3 stOK 0 (mbTag req) [])

/-- MB_OP 0x04 (R641, R701): bytes of the inactive package slot; `STAGED` clears. -/
def requestFirmware (s : State) (w : MboxFrom) (req : Bytes) : State :=
  if 33554432 < mbOffset req + mbCount req then mbRefuse s w req
  else
    let put := fun (m : SMap U8) => bwrite m (mbOffset req) (mbBody req)
    let fw := if s.fw.running = 1 then { s.fw with slot0 := put s.fw.slot0 } else { s.fw with slot1 := put s.fw.slot1 }
    answerMbox { s with fw := { fw with staged := false, stagedVer := 0 } } w (mboxReply 4 stOK 0 (mbTag req) [])

/-- Run a request under the rights of its path. -/
def runRequest (s : State) (w : MboxFrom) (req : Bytes) : State :=
  if !mbHeaderOk req || !mbAccepts w.path (mbOp req) then mbRefuse s w req
  else if mbOp req = 1 then requestPartCtl s w req
  else if mbOp req = 2 then requestList s w req
  else if mbOp req = 3 then requestStaging s w req
  else requestFirmware s w req

/-- Start a request of an operation from its source: the service host's when `GO` is set (R698), an owner session's when the
session is the owner's. The mailbox is served from spring step 2 (Table 16-6). -/
def mboxRequest (op : Nat) (src : MboxSrc) (s : State) : State :=
  if !s.pins.rstN || decide (s.life.step < 2) then s
  else match src with
    | .host =>
      let req := bread s.mbox.req 0 s.mbox.reqLen
      if !s.mbox.go || s.mbox.state == 1 || mbOp req != op then s
      else runRequest { s with mbox := { s.mbox with state := 1 } } ⟨0, 0, none⟩ req
    | .owner session req =>
      if mbOp req != op || !(mget s.crypto.sessions session).any (fun x => x.owner) then s
      else runRequest s ⟨1, session, none⟩ req

/-- MBOX_PART_CTL (R700). -/
def execMboxPartCtl (src : MboxSrc) (s : State) : Host.Outcome State Fault Refusal := .next (mboxRequest 1 src s)

/-- MBOX_ACCESS_LIST (R702). -/
def execMboxAccessList (src : MboxSrc) (s : State) : Host.Outcome State Fault Refusal := .next (mboxRequest 2 src s)

/-- MBOX_STAGING_WRITE (R701). -/
def execMboxStagingWrite (src : MboxSrc) (s : State) : Host.Outcome State Fault Refusal := .next (mboxRequest 3 src s)

/-- MBOX_FIRMWARE_WRITE (R701). -/
def execMboxFirmwareWrite (src : MboxSrc) (s : State) : Host.Outcome State Fault Refusal := .next (mboxRequest 4 src s)

/-- PART_CTL mailbox request (R705): it starts in the pass, and its row completes it when the request completes. -/
def partCtlMailboxRequest (cid : Nat) (s : State) : State :=
  match pcTake s cid 0x12 with
  | none => s
  | some (c, _) =>
    let s := updCmd s cid (fun c => { c with st := .waiting })
    runRequest s ⟨2, 0, some cid⟩ c.payload

def execPartCtlMailboxRequest (cid : Nat) (s : State) : Host.Outcome State Fault Refusal := .next (partCtlMailboxRequest cid s)

/-! ## TABLE_READ_GRANT (R707) -/

/-- The first list that waits on a slice. -/
def tableWait (s : State) (i : Nat) : Option TableWait := s.mbox.waits.find? (fun w => w.slice == i)

/-- Take the first list that waits on a slice out of the lists that wait. -/
def takeWait (s : State) (w : TableWait) : State := { s with mbox := { s.mbox with waits := s.mbox.waits.erase w } }

/-- TABLE_READ_GRANT: the first list that waits on the slice takes the grant left unreserved in a base interval 0 mod 16
and goes on; a slice out of service fails its entry (R707). -/
def tableReadGrant (i : Nat) (s : State) : State :=
  match tableWait s i with
  | none => s
  | some w =>
    if sliceOut s i s.time.frame then listEnd (takeWait s w) w stFENCED
    else if s.time.bint % 16 != 0 || decide (grantLimit s.time ≤ (sliceAt s i).grants) then s
    else
      let t := updSlice (takeWait s w) i (fun x => { x with grants := x.grants + 1 })
      match readSliceTable (asOfFrame t) w.table i w.value with
      | .error st => listEnd t w st
      | .ok b => runList 1025 t { w with rest := w.rest.drop 16, out := w.out ++ b, done := w.done + 1 }

def execTableReadGrant (slice : Nat) (s : State) : Host.Outcome State Fault Refusal := .next (tableReadGrant slice s)

end Sys2Proof.Machine
end

