-- ==== Sys2Proof/Machine/FrameRows.lean ====
section
/-!
DEFINITION. What the clock does: FRAME_START, BASE_INTERVAL_START, THERMAL_DECISION and REFRESH_DUE (R28–R47, R77, R622).
-/

namespace Sys2Proof.Machine

/-! ## The counters (R29–R31, R39) -/

/-- The length the next frame has: a new map's at its equinox, else one written in spring or winter (R30, R31). -/
def nextLen (s : State) : Nat :=
  match lenChange s with
  | some c => if c.1 ≤ s.time.frame + 1 then c.2 else s.time.lenPend.getD s.time.len
  | none => s.time.lenPend.getD s.time.len

/-- The counters at a frame start: the second half of a base interval, or a frame that starts base intervals of its own. -/
def nextFrame (s : State) : State :=
  if s.time.len = 0 ∧ !s.time.half then updTime s (fun t => { t with half := true, frame := t.frame + 1, windowClosed := false })
  else
    let len := nextLen s
    updTime s (fun t => { t with
      frame := t.frame + 1, windowClosed := false, half := false, len := len, lenPend := none, left := bintsPerFrame len })

/-- `BASE` and `CAP` follow the length of the frame whose admission opens in this frame (R53). -/
def fitEnergy (s : State) : State :=
  let len := lenAt s (s.time.frame + 2)
  if len = s.adm.energyLen then s else rescaleEnergy s len

/-! ## Changes that take effect (R77) -/

/-- A copy's association record is still to be rewritten (R350). -/
def rewriteWaits (s : State) (h p : Nat) : Bool :=
  s.oboe.updates.any (fun u => match u with
    | .rewrite _ _ stream page _ => stream == h && page == p
    | _ => false)

/-- One change of tables at the start of frame f; a migrated page waits for its index entry. -/
def applyEff (f : Nat) (s : State) (e : DueEff) : State :=
  match e.eff with
  | .partState k st => updPart s k (fun p => if p.state = 0 then p else { p with state := st })
  | .resetPart k c => resetPart s k c
  | .mapAdopt => adoptMap s
  | .migCopied h p => if rewriteWaits s h p then addEff s (f + 1) e.cid e.eff else applyStreamEff s e.frame e.eff
  | _ => applyStreamEff s e.frame e.eff

/-- RESTOREs whose pages' association records are still to be rewritten: their new versions wait (R212). -/
def restoresWait (s : State) (f : Nat) : List Nat :=
  (s.adm.effs.filterMap (fun e => match e.eff with
    | .restored h p _ _ _ => if e.frame ≤ f && rewriteWaits s h p then some e.cid else none
    | _ => none)).eraseDups

/-- A RESTORE completes a frame later: all its pages take their form together (R355). -/
def delayRestore (f : Nat) (s : State) (cid : Nat) : State :=
  let s := updCmd (shiftTrig (shiftEffs s cid (f + 1)) cid f) cid (fun c => { c with
    plan := c.plan.map (fun p => { p with cframe := f })
    result := c.result.map (fun o => { o with cframe := f }) })
  shiftMsgs s cid (f + 1) (recFrame f)

/-- Every change due by frame f, in the order it was made. -/
def applyEffs (s : State) (f : Nat) : State :=
  let s := forAll s (restoresWait s f) (delayRestore f)
  let due := s.adm.effs.filter (fun e => decide (e.frame ≤ f))
  forAll { s with adm := { s.adm with effs := s.adm.effs.filter (fun e => decide (f < e.frame)) } } due (applyEff f)

/-! ## Occupancy meters (R543) -/

/-- Chunks of T1 a partition holds: pages that are not parked, blocks of states, summary chunks, the forms its pending changes
have reserved, and what waits under R78. -/
def heldChunks (s : State) (k : Nat) : Nat :=
  let hs := partHandles s k
  (s.slices.map (fun e =>
    (e.2.dir.map (fun d =>
      if hs.contains d.2.stream then
        (((entsIn e.2 d.2.stream).filter (fun p => p.2.form != 3)).map (fun p => p.2.nchunk + 1)).sum
      else 0)).sum
      + (e.2.sums.filter (fun y => y.2.part == k)).length
      + ((e.2.held.filter (fun h => h.part == k && h.free != zeroHold k)).flatMap (fun h => h.extents.map (fun r => r.2))).sum)).sum
    + ((pendingRuns s hs).map (fun r => r.2.2)).sum

/-- 16 KiB granules of T2 a partition's images take. -/
def heldT2 (s : State) (k : Nat) : Nat :=
  ((s.ftl0.images ++ s.ftl1.images).map (fun e => if e.2.part = k ∧ !e.2.lost then ceilDiv e.2.bytes 16384 else 0)).sum

/-- Meters 8, 9, 10 and 15 at a frame start. -/
def meterFrame (s : State) : State :=
  forAll s (s.parts.filter (fun e => e.2.state != 0)) (fun s e =>
    let k := e.1
    let s := meter s k 8 (e.2.used0 + e.2.used1)
    let s := meter s k 9 (heldChunks s k)
    let s := if isA24F s then meter s k 10 (heldT2 s k) else s
    meter s k 15 (b2n (residentAt s k s.time.frame)))

/-! ## Goodput (R622, R623, R628) -/

/-- Count one frame as honoured, or as lost to the class of its first fault. -/
def tallyFrame (s : State) (f : Nat) : State :=
  match mget s.ras.frameFault f with
  | none => updRas s (fun x => { x with honoured := (x.honoured + 1) % 2 ^ 64 })
  | some c => updRas s (fun x => { x with lost := x.lost.set c ((x.lost.getD c 0 + 1) % 2 ^ 64) })

/-- Frames in summer and autumn are counted once their gate, in the frame after them, has closed (R622). -/
def tally (s : State) : State :=
  let n := s.time.frame
  let s := forAll s (s.ras.toTally.filter (fun f => decide (f + 2 ≤ n))) tallyFrame
  updRas s (fun x => { x with
    toTally := x.toTally.filter (fun f => decide (n < f + 2)) ++ (if s.life.state = 1 ∨ s.life.state = 2 then [n] else [])
    frameFault := mfilter x.frameFault (fun f _ => decide (n < f + 2)) })

/-! ## FRAME_START -/

/-- What has passed: reservations of earlier frames, and long sequences whose owed refreshes are repaid. -/
def dropPast (s : State) : State :=
  { s with
    adm := { s.adm with res := mfilter s.adm.res (fun f _ => decide (s.time.frame ≤ f)) }
    slices := s.slices.map (fun e =>
      (e.1, { e.2 with
        seqs := e.2.seqs.filter (fun q => decide (s.time.bint ≤ q.last + 64))
        grants := if s.time.len = 0 then 0 else e.2.grants })) }

/-- The reserve windows of the frame before have closed: their writes stand, then the table changes of this frame. -/
def frameTables (s : State) : State :=
  let n := s.time.frame
  let s := forAll s s.slices (fun s e => if e.2.ordq.isEmpty && e.2.reads.isEmpty then s else drainWrites s e.1 (n - 1))
  let s := migFrame (lifeFrame (applyEffs s n)) n
  oboeFrame (progFrame (stepsDone (flushesDone s n) n))

/-- Units return and leave, and what was held for commands that have passed is free (R78). -/
def frameUnits (s : State) : State :=
  let s := bindSpares (rasFrame (linksFrame s))
  let s := forAll s s.slices (fun s e =>
    nearFullCheck (updSlice s e.1 (fun x => releaseHeld x s.time.frame)) e.1)
  releaseHeldT0 (releaseHeldT0 s 0) 1

/-- What every frame start does, once the counters show the new frame. -/
def frameWork (s : State) : State :=
  let s := { s with adm := { s.adm with
    closed := max s.adm.closed s.time.frame
    gained := s.adm.gained + creditPerFrame s.time.len } }
  let s := frameUnits (frameTables (fitEnergy s))
  dropPast (tally (egressFrame (snapFrame (meterFrame (resyncFrame (releaseAllWaiters s))))))

/-- What table reads return until the next frame start (R706). -/
def noteTables (s : State) : State :=
  { s with mbox := { s.mbox with
    tables := ⟨s.hub0.streams, s.hub1.streams, s.hub0.migs, s.hub1.migs, s.slices, s.oboe.ents0, s.oboe.ents1, s.chains.ents⟩ } }

/-- FRAME_START: the frame before ends, whose base intervals have all started, and a winter's entry is done (DESIGN CHOICE, log 1). -/
def frameStart (s : State) : State :=
  if !awake s || s.life.entering || s.time.left != 0 then s else noteTables (frameWork (nextFrame (reportErrors (closeFrame s))))

def execFrameStart (s : State) : Host.Outcome State Fault Refusal := .next (frameStart s)

/-! ## BASE_INTERVAL_START -/

/-- A unit's sample in a base interval: the value and whether any sensor gave one. -/
def sampleOf (temps : List Temp) (u : Nat) (missing : Int) : Int × Bool :=
  match temps.findSome? (fun t => if t.unit = u then t.sample else none) with
  | some x => (x, true)
  | none => (missing, false)

/-- One stack's sample (R43, R718): above 105 °C it is fenced; after 16 base intervals without a valid one it is tested. -/
def sampleStack (temps : List Temp) (s : State) (n : Nat) : State :=
  let r := sampleOf temps n 1632
  let old := stackAt s n
  let s := updStack s n (fun x => { x with
    temp := r.1
    samples := (x.samples ++ [r.1]).drop (x.samples.length + 1 - 8)
    badSensor := if r.2 then 0 else x.badSensor + 1 })
  if 1680 < r.1 then errorReport (.stack n) 0x0B (wrapInt 64 r.1) [] s
  else if !r.2 && old.badSensor == 15 then errorReport (.stack n) 0x0A 0 [] s
  else s

/-- Samples of every stack and hub. -/
def takeSamples (temps : List Temp) (s : State) : State :=
  let s := { s with oboe := { s.oboe with
    temp0 := (sampleOf temps 24 1616).1
    temp1 := if hub1Present s then (sampleOf temps 25 1616).1 else s.oboe.temp1 } }
  forAll s (List.range (stackCount s)) (sampleStack temps)

/-- A cycle of 16 base intervals starts: what was fixed for it comes into force (R43, R224). -/
def startCycle (s : State) : State :=
  if s.time.bint % 16 ≠ 0 then s
  else
    { s with
      dramStacks := s.dramStacks.map (fun e => (e.1, { e.2 with step := e.2.stepNext, hot := e.2.hotNext }))
      oboe := { s.oboe with step := s.oboe.stepNext } }

/-- Refreshes that fall due (R44): none in self-refresh. -/
def dueRefreshes (s : State) : State :=
  if s.life.selfRefresh then s
  else forAll s (List.range (stackCount s)) (fun s n =>
    updStack s n (fun x => if refreshDue x.hot s.time.bint then { x with refDue := x.refDue + 1 } else x))

/-- The solstice barrier at the start of a base interval (R285): credits at their reset values. -/
def solsticeBarriers (s : State) : State :=
  { s with cores := s.cores.map (fun e =>
      if solsticeSlice s (coreSlice e.1) && !e.2.stopped then (e.1, { e.2 with credits := [], waits := [] }) else e) }

/-- The counts of a base interval start again (R42, R463, R505). -/
def clearCounts (s : State) : State :=
  { s with
    conns := s.conns.map (fun e => (e.1, { e.2 with ctlCount := 0 }))
    ports := s.ports.map (fun e => (e.1, { e.2 with hsCount := 0 }))
    slices := s.slices.map (fun e => (e.1, { e.2 with grants := 0 })) }

/-- The clock of a base interval: its number, the slew, the line the node drives, and UTC. -/
def nextBint (s : State) : State :=
  let s := updTime s (fun t =>
    slewStep { t with left := t.left - 1, bint := t.bint + 1, quiet := t.quiet + 1, sinceDreq := t.sinceDreq + 1 })
  let s := updTime s (fun t => { t with tickOut := tickPulse s })
  { s with crypto := utcTick s.crypto }

/-- BASE_INTERVAL_START: a base interval of the current frame starts. -/
def baseIntervalStart (temps : List Temp) (s : State) : State :=
  if !awake s || s.time.left = 0 then s
  else
    let s := dueRefreshes (startCycle (nextBint s))
    recalFrame (sendSyncs (clearCounts (solsticeBarriers (takeSamples temps s))))

def execBaseIntervalStart (temps : List Temp) (s : State) : Host.Outcome State Fault Refusal := .next (baseIntervalStart temps s)

/-! ## THERMAL_DECISION (R43, R45, R47, R224) -/

/-- Step of a stack at a temperature, in sixteenths of a degree (R45). -/
def stepFor (t : Int) : Nat := if 1616 < t then 3 else if 1568 < t then 2 else if 1520 < t then 1 else 0

/-- Step of the Oboe at a temperature (R224). -/
def oboeStepFor (t : Int) : Nat := if 1600 < t then 3 else if 1520 < t then 2 else if 1440 < t then 1 else 0

/-- One stack's decision: the step rises by at most one, and a change raises `EV_THERMAL_STEP`. -/
def decideStack (s : State) (n : Nat) : State :=
  let x := stackAt s n
  let step := max (stepFor x.temp) (x.step - 1)
  let hot := x.samples.any (fun t => decide (1360 < t))
  let s := updStack s n (fun x => { x with stepNext := step, hotNext := hot })
  if step = x.step ∧ hot = x.hot then s else raise s 0x0101 none (unitId (.stack n)) (step + 4 * b2n hot)

/-- The Oboe's decision; in cascade every member takes the lowest of the group's steps. -/
def decideOboe (peerSteps : List Nat) (s : State) : State :=
  if !isA24F s then s
  else
    let o := s.oboe
    let own := max (oboeStepFor (max o.temp0 o.temp1)) (o.step - 1)
    let step := if o.casc then min 3 (peerSteps.foldl max own) else own
    let s := { s with oboe := { o with stepNext := step } }
    if step = o.step then s else raise s 0x0A01 none 0 step

/-- THERMAL_DECISION: once, in the base interval 8 of each cycle. -/
def thermalDecision (peerSteps : List Nat) (s : State) : State :=
  if !awake s || s.time.bint % 16 != 8 || s.time.decided == s.time.bint / 16 + 1 then s
  else
    let s := decideOboe peerSteps (forAll s (List.range (stackCount s)) decideStack)
    updTime s (fun t => { t with decided := s.time.bint / 16 + 1 })

def execThermalDecision (peerSteps : List Nat) (s : State) : Host.Outcome State Fault Refusal :=
  .next (thermalDecision peerSteps s)

/-! ## REFRESH_DUE (R65–R67, R337–R340) -/

/-- Refreshes a slice owes. -/
def refreshDebt (s : State) (i : Nat) : Nat := (stackAt s (stackOf i)).refDue - (sliceAt s i).refDone

/-- The most activated row since the last refresh with its activations, the lowest of equals. -/
def hottestRow (acts : SMap Nat) : Nat × Nat :=
  acts.foldl (fun m e => if m.2 < e.2 then e else m) (0, 0)

/-- The rows refreshed beside the most activated row, when that has been activated more than 4,096 times (R339). -/
def besideHot (acts : SMap Nat) : List Nat :=
  let hot := hottestRow acts
  if 4096 < hot.2 then [hot.1 - 1, hot.1 + 1].filter (fun r => r != hot.1 && decide (r < 8192)) else []

/-- The n refreshes of one slot (R337–R339): the row groups the counter names, and with the first of them the two rows beside
the most activated row since the refresh before. -/
def refreshRows (n : Nat) (x : Slice) : Slice :=
  if n = 0 then x
  else { x with refDone := x.refDone + n, rowCtr := (x.rowCtr + n) % 8192, adjacent := besideHot x.acts, acts := [] }

/-- REFRESH_DUE: the refresh slot of a slice in a base interval, at most one in each. A long sequence postpones up to 4, in a
throttled interval too (DEDUCED, log 124), and is suspended for one at the fifth; else the slot takes up to 4. More than 8
behind, the slice is fenced. -/
def refreshSlot (i : Nat) (s : State) : State :=
  let debt := refreshDebt s i
  if !awake s || decide (sliceCount s ≤ i) || debt = 0 || (sliceAt s i).refAt == s.time.bint + 1 then s
  else if 8 < debt then errorReport (.slice i) 0x06 debt [] s
  else
    let n := if (seqAt (sliceAt s i) s.time.bint).isSome then debt - 4 else min debt 4
    updSlice s i (fun x => refreshRows n { x with refAt := s.time.bint + 1 })

def execRefreshDue (slice : Nat) (s : State) : Host.Outcome State Fault Refusal := .next (refreshSlot slice s)

end Sys2Proof.Machine
end

