-- ==== Sys2Proof/Machine/Dispatch.lean ====
section
/-!
DEFINITION. The dispatch of a command to its meaning: one arm per constructor of `Instr`.
-/

namespace Sys2Proof.Machine

def exec (i : Instr) (s : State) : Host.Outcome State Fault Refusal :=
  match i with
  | .attend cid => Sys2Proof.Machine.execAttend cid s
  | .verify cid => Sys2Proof.Machine.execVerify cid s
  | .accept cid => Sys2Proof.Machine.execAccept cid s
  | .append cid => Sys2Proof.Machine.execAppend cid s
  | .pushLayer cid => Sys2Proof.Machine.execPushLayer cid s
  | .stateStep cid => Sys2Proof.Machine.execStateStep cid s
  | .select cid => Sys2Proof.Machine.execSelect cid s
  | .indexUpdateIndex cid tag => Sys2Proof.Machine.execIndexUpdateIndex cid tag s
  | .indexUpdateUnindex cid => Sys2Proof.Machine.execIndexUpdateUnindex cid s
  | .indexUpdateGrow cid => Sys2Proof.Machine.execIndexUpdateGrow cid s
  | .park cid => Sys2Proof.Machine.execPark cid s
  | .restore cid => Sys2Proof.Machine.execRestore cid s
  | .restoreWritePhase cid => Sys2Proof.Machine.execRestoreWritePhase cid s
  | .fork cid => Sys2Proof.Machine.execFork cid s
  | .drop cid => Sys2Proof.Machine.execDrop cid s
  | .flush cid => Sys2Proof.Machine.execFlush cid s
  | .migrate cid => Sys2Proof.Machine.execMigrate cid s
  | .migrateReverse cid => Sys2Proof.Machine.execMigrateReverse cid s
  | .read cid => Sys2Proof.Machine.execRead cid s
  | .write cid => Sys2Proof.Machine.execWrite cid s
  | .postChainPost cid => Sys2Proof.Machine.execPostChainPost cid s
  | .postChainFreeEntry cid => Sys2Proof.Machine.execPostChainFreeEntry cid s
  | .postChainCreateEvent cid => Sys2Proof.Machine.execPostChainCreateEvent cid s
  | .postChainFreeEvent cid => Sys2Proof.Machine.execPostChainFreeEvent cid s
  | .arm cid => Sys2Proof.Machine.execArm cid s
  | .fence cid => Sys2Proof.Machine.execFence cid s
  | .fenceRelease cid => Sys2Proof.Machine.execFenceRelease cid s
  | .streamOpen cid => Sys2Proof.Machine.execStreamOpen cid s
  | .streamOpenRecurrent cid => Sys2Proof.Machine.execStreamOpenRecurrent cid s
  | .streamClose cid => Sys2Proof.Machine.execStreamClose cid s
  | .progLoad cid => Sys2Proof.Machine.execProgLoad cid s
  | .progLoadClear cid => Sys2Proof.Machine.execProgLoadClear cid s
  | .queryCaps cid => Sys2Proof.Machine.execQueryCaps cid s
  | .partCtlCreate cid => Sys2Proof.Machine.execPartCtlCreate cid s
  | .partCtlDestroy cid => Sys2Proof.Machine.execPartCtlDestroy cid s
  | .partCtlQuiesce cid => Sys2Proof.Machine.execPartCtlQuiesce cid s
  | .quiesceComplete part => Sys2Proof.Machine.execQuiesceComplete part s
  | .partCtlRestart cid => Sys2Proof.Machine.execPartCtlRestart cid s
  | .partCtlReset cid => Sys2Proof.Machine.execPartCtlReset cid s
  | .partCtlResize cid => Sys2Proof.Machine.execPartCtlResize cid s
  | .partCtlGrant cid => Sys2Proof.Machine.execPartCtlGrant cid s
  | .partCtlSetWeight cid => Sys2Proof.Machine.execPartCtlSetWeight cid s
  | .partCtlRegisterWrite cid => Sys2Proof.Machine.execPartCtlRegisterWrite cid s
  | .partCtlMapLoad cid => Sys2Proof.Machine.execPartCtlMapLoad cid s
  | .partCtlMapCancel cid => Sys2Proof.Machine.execPartCtlMapCancel cid s
  | .partCtlMailboxRequest cid => Sys2Proof.Machine.execPartCtlMailboxRequest cid s
  | .dataReceive p d payload => Sys2Proof.Machine.execDataReceive p d payload s
  | .ackReceive p a => Sys2Proof.Machine.execAckReceive p a s
  | .nakReceive p n => Sys2Proof.Machine.execNakReceive p n s
  | .ackTimer conn now => Sys2Proof.Machine.execAckTimer conn now s
  | .retransmitTimeout conn msn pindex now => Sys2Proof.Machine.execRetransmitTimeout conn msn pindex now s
  | .flushPacket p fmsn ftag => Sys2Proof.Machine.execFlushPacket p fmsn ftag s
  | .flushAckReceive p fmsn ftag => Sys2Proof.Machine.execFlushAckReceive p fmsn ftag s
  | .pathsReceive p pseq live => Sys2Proof.Machine.execPathsReceive p pseq live s
  | .probeReceive p echo label resp => Sys2Proof.Machine.execProbeReceive p echo label resp s
  | .pairBadExpiry conn pair => Sys2Proof.Machine.execPairBadExpiry conn pair s
  | .close p reason => Sys2Proof.Machine.execClose p reason s
  | .connectReq p h addrs kx => Sys2Proof.Machine.execConnectReq p h addrs kx s
  | .connectRsp p h addrs kx => Sys2Proof.Machine.execConnectRsp p h addrs kx s
  | .connectCfm p scid => Sys2Proof.Machine.execConnectCfm p scid s
  | .connectCfmTimeout conn => Sys2Proof.Machine.execConnectCfmTimeout conn s
  | .timeSync p t => Sys2Proof.Machine.execTimeSync p t s
  | .timeDreq p t turn => Sys2Proof.Machine.execTimeDreq p t turn s
  | .timeDrsp p t => Sys2Proof.Machine.execTimeDrsp p t s
  | .timeDreqSend now => Sys2Proof.Machine.execTimeDreqSend now s
  | .frameHoldover => Sys2Proof.Machine.execFrameHoldover s
  | .ftickEdge width => Sys2Proof.Machine.execFtickEdge width s
  | .frameTickLost => Sys2Proof.Machine.execFrameTickLost s
  | .frameStart => Sys2Proof.Machine.execFrameStart s
  | .baseIntervalStart temps => Sys2Proof.Machine.execBaseIntervalStart temps s
  | .solsticeBarrierTimeout core => Sys2Proof.Machine.execSolsticeBarrierTimeout core s
  | .thermalDecision peerSteps => Sys2Proof.Machine.execThermalDecision peerSteps s
  | .refreshDue slice => Sys2Proof.Machine.execRefreshDue slice s
  | .maintenanceSlot => Sys2Proof.Machine.execMaintenanceSlot s
  | .admissionPass peers => Sys2Proof.Machine.execAdmissionPass peers s
  | .oboeSearchWindow search => Sys2Proof.Machine.execOboeSearchWindow search s
  | .oboeUpdateSlot => Sys2Proof.Machine.execOboeUpdateSlot s
  | .cascadeFail pos => Sys2Proof.Machine.execCascadeFail pos s
  | .serviceWindowClose => Sys2Proof.Machine.execServiceWindowClose s
  | .reserveWindow slice => Sys2Proof.Machine.execReserveWindow slice s
  | .ordinaryReadGrant slice => Sys2Proof.Machine.execOrdinaryReadGrant slice s
  | .sectorRead r fault => Sys2Proof.Machine.execSectorRead r fault s
  | .sectorWrite slice fault => Sys2Proof.Machine.execSectorWrite slice fault s
  | .piccoloTaskCommit core task => Sys2Proof.Machine.execPiccoloTaskCommit core task s
  | .deadlockDetect core => Sys2Proof.Machine.execDeadlockDetect core s
  | .frameOverrunWatchdog core => Sys2Proof.Machine.execFrameOverrunWatchdog core s
  | .coreFault unit cause engine queue => Sys2Proof.Machine.execCoreFault unit cause engine queue s
  | .coreReplay slice core => Sys2Proof.Machine.execCoreReplay slice core s
  | .mergeFold cid peers => Sys2Proof.Machine.execMergeFold cid peers s
  | .peerRecordMissing cid missing => Sys2Proof.Machine.execPeerRecordMissing cid missing s
  | .sealCode job => Sys2Proof.Machine.execSealCode job s
  | .sealUpload job => Sys2Proof.Machine.execSealUpload job s
  | .sealJob job => Sys2Proof.Machine.execSealJob job s
  | .writeBackJob job => Sys2Proof.Machine.execWriteBackJob job s
  | .migrationCopy handle page => Sys2Proof.Machine.execMigrationCopy handle page s
  | .migrationCopyFail handle page cause => Sys2Proof.Machine.execMigrationCopyFail handle page cause s
  | .longSequenceRerun job => Sys2Proof.Machine.execLongSequenceRerun job s
  | .vpoolHoldExpiry hub slot => Sys2Proof.Machine.execVpoolHoldExpiry hub slot s
  | .chainCompletionTrigger cid => Sys2Proof.Machine.execChainCompletionTrigger cid s
  | .egressPacketStart port now => Sys2Proof.Machine.execEgressPacketStart port now s
  | .shaperSlot => Sys2Proof.Machine.execShaperSlot s
  | .gateArm port value => Sys2Proof.Machine.execGateArm port value s
  | .gateCancel port value => Sys2Proof.Machine.execGateCancel port value s
  | .gateListSwitch port => Sys2Proof.Machine.execGateListSwitch port s
  | .equinox => Sys2Proof.Machine.execEquinox s
  | .mapGraceEnd => Sys2Proof.Machine.execMapGraceEnd s
  | .timeSliceSwitch group => Sys2Proof.Machine.execTimeSliceSwitch group s
  | .zeroingComplete part => Sys2Proof.Machine.execZeroingComplete part s
  | .partitionFault part => Sys2Proof.Machine.execPartitionFault part s
  | .errorReport unit cause data held => Sys2Proof.Machine.execErrorReport unit cause data held s
  | .targetedTestComplete unit passed held => Sys2Proof.Machine.execTargetedTestComplete unit passed held s
  | .heartbeatLost stack => Sys2Proof.Machine.execHeartbeatLost stack s
  | .bgtestStart => Sys2Proof.Machine.execBgtestStart s
  | .rowGroupTestDone slice group mismatch bad => Sys2Proof.Machine.execRowGroupTestDone slice group mismatch bad s
  | .laneDown port lane => Sys2Proof.Machine.execLaneDown port lane s
  | .laneFlap port lane now => Sys2Proof.Machine.execLaneFlap port lane now s
  | .portDown port => Sys2Proof.Machine.execPortDown port s
  | .portUp port lanes lmap => Sys2Proof.Machine.execPortUp port lanes lmap s
  | .nandReadDone hub handle page => Sys2Proof.Machine.execNandReadDone hub handle page s
  | .nandReadFail hub handle page target => Sys2Proof.Machine.execNandReadFail hub handle page target s
  | .nandProgramDone hub handle page channel block => Sys2Proof.Machine.execNandProgramDone hub handle page channel block s
  | .nandProgramFail hub channel block target => Sys2Proof.Machine.execNandProgramFail hub channel block target s
  | .nandEraseFail channel block => Sys2Proof.Machine.execNandEraseFail channel block s
  | .staticWearLevel channel block target => Sys2Proof.Machine.execStaticWearLevel channel block target s
  | .readDisturbRelocate channel block target weak => Sys2Proof.Machine.execReadDisturbRelocate channel block target weak s
  | .entropyHealthFail test => Sys2Proof.Machine.execEntropyHealthFail test s
  | .entropyFailTimeout => Sys2Proof.Machine.execEntropyFailTimeout s
  | .allLinksDownTimeout => Sys2Proof.Machine.execAllLinksDownTimeout s
  | .winterEntry => Sys2Proof.Machine.execWinterEntry s
  | .lifeReqSummer force => Sys2Proof.Machine.execLifeReqSummer force s
  | .lifeReqAutumn force => Sys2Proof.Machine.execLifeReqAutumn force s
  | .lifeReqWinter force => Sys2Proof.Machine.execLifeReqWinter force s
  | .lifeReqSpring force boot => Sys2Proof.Machine.execLifeReqSpring force boot s
  | .resetRelease straps boot => Sys2Proof.Machine.execResetRelease straps boot s
  | .boardPeerTimeout => Sys2Proof.Machine.execBoardPeerTimeout s
  | .timeJoin p j => Sys2Proof.Machine.execTimeJoin p j s
  | .bootWatchdog boot => Sys2Proof.Machine.execBootWatchdog boot s
  | .coldReset cause => Sys2Proof.Machine.execColdReset cause s
  | .auxOkAssert => Sys2Proof.Machine.execAuxOkAssert s
  | .mainOkTimeout => Sys2Proof.Machine.execMainOkTimeout s
  | .mainOkFall => Sys2Proof.Machine.execMainOkFall s
  | .vinMainOutOfRange => Sys2Proof.Machine.execVinMainOutOfRange s
  | .thermtrip sensor temp => Sys2Proof.Machine.execThermtrip sensor temp s
  | .pciePerst low => Sys2Proof.Machine.execPciePerst low s
  | .tapInstructionLoad instr => Sys2Proof.Machine.execTapInstructionLoad instr s
  | .trstRelease straps boot => Sys2Proof.Machine.execTrstRelease straps boot s
  | .spdmGetMeasurements session index nonce => Sys2Proof.Machine.execSpdmGetMeasurements session index nonce s
  | .spdmKeyExchange signer requester => Sys2Proof.Machine.execSpdmKeyExchange signer requester s
  | .ownerAnchorWrite session digest => Sys2Proof.Machine.execOwnerAnchorWrite session digest s
  | .smbusAlertResponse => Sys2Proof.Machine.execSmbusAlertResponse s
  | .mboxPartCtl src => Sys2Proof.Machine.execMboxPartCtl src s
  | .mboxAccessList src => Sys2Proof.Machine.execMboxAccessList src s
  | .mboxStagingWrite src => Sys2Proof.Machine.execMboxStagingWrite src s
  | .mboxFirmwareWrite src => Sys2Proof.Machine.execMboxFirmwareWrite src s
  | .tableReadGrant slice => Sys2Proof.Machine.execTableReadGrant slice s
  | .fwStage => Sys2Proof.Machine.execFwStage s
  | .fwCommit => Sys2Proof.Machine.execFwCommit s
  | .maintSliceTest part value path => Sys2Proof.Machine.execMaintSliceTest part value path s
  | .maintCoreTest part value path => Sys2Proof.Machine.execMaintCoreTest part value path s
  | .maintStackRecal part value path => Sys2Proof.Machine.execMaintStackRecal part value path s
  | .maintRowGroupTest part value path => Sys2Proof.Machine.execMaintRowGroupTest part value path s
  | .meterSnap part value => Sys2Proof.Machine.execMeterSnap part value s
  | .logSbackWrite value => Sys2Proof.Machine.execLogSbackWrite value s
  | .utcWrite value path => Sys2Proof.Machine.execUtcWrite value path s
  | .coreFaultRead stack => Sys2Proof.Machine.execCoreFaultRead stack s
  | .registerWrite path addr value => Sys2Proof.Machine.execRegisterWrite path addr value s
  | .drbgReseed => Sys2Proof.Machine.execDrbgReseed s
  | .powerLimitSample hub watts => Sys2Proof.Machine.execPowerLimitSample hub watts s
  | .hub0LogicFault => Sys2Proof.Machine.execHub0LogicFault s
  | .mainOkRise => Sys2Proof.Machine.execMainOkRise s
  | .vinAuxInRange => Sys2Proof.Machine.execVinAuxInRange s
  | .auxOkFall => Sys2Proof.Machine.execAuxOkFall s

end Sys2Proof.Machine
end

