-- ==== Sys2Proof/Safety.lean ====
section
/-!
DEFINITION. The terms the statements are written in: what it means that a command completes with its effect, that a
command's outcome is fixed and its record queued, that a change of the tables is due, and that stacked data is untouched.
-/

namespace Sys2Proof.Machine

/-- The command answers a next state, and that state has the property P. -/
def Completes (i : Instr) (s : State) (P : State → Prop) : Prop := ∃ t, exec i s = .next t ∧ P t

/-- The outcome fixed for a command, while it holds its queue entry (R372, R727). -/
def outcomeOf (s : State) (cid : Nat) : Option Outcome0 := (cmdAt s cid).bind (fun c => c.result)

/-- The phase of a command. -/
def phaseOf (s : State) (cid : Nat) : Option CmdState := (cmdAt s cid).map (fun c => c.st)

/-- Will an outcome of the command be sent: its connection is open, it wants a reply, and no record of it is on the wire
(R380, R470, R727). -/
def replies (s : State) (cid : Nat) : Bool :=
  match cmdAt s cid with
  | none => false
  | some c => !recordLeft s cid && !c.noreply && c.conn != mailboxConn && (mget s.conns c.conn).any (fun x => x.opened)

/-- A change of the tables is due at the start of frame f for a command (R77). -/
def dueAt (s : State) (f cid : Nat) (e : Eff) : Prop := ⟨f, cid, e⟩ ∈ s.adm.effs

/-- A stored sector of a slice, by its number in the pool: eight to a chunk. -/
def sectorOf (s : State) (i k : Nat) : Option Sector := mget (sliceAt s i).sectors k

/-- Every sector of every slice is as before. -/
def SameSectors (s t : State) : Prop := ∀ i k, sectorOf t i k = sectorOf s i k

/-- Every sector of the chunk pool is as before; the sectors of a slice's own tables, above it, may change. -/
def SamePool (s t : State) : Prop := ∀ i k, k < 8 * poolChunks → sectorOf t i k = sectorOf s i k

/-- What work on commands leaves alone: the queue, the lands and pins, life cycle, firmware, clocks, keys, mailbox, composition
map, ports and the egress schedule. -/
def SameNode (s t : State) : Prop :=
  t.pending = s.pending ∧ t.hw = s.hw ∧ t.pins = s.pins ∧ t.life = s.life ∧ t.fw = s.fw ∧ t.time = s.time ∧
  t.crypto = s.crypto ∧ t.mbox = s.mbox ∧ t.maps = s.maps ∧ t.ports = s.ports ∧ t.eg = s.eg

/-- The parts of the state a frame speaks of: the queue of commands; what the package fuses, its straps and its board group; pins,
life cycle, firmware; clocks; admission and commands; the tables of partitions, hubs, slices, cores and stacks; links; events;
keys; flash; mailbox; and what the node has sent. `partRegs` are the registers of every partition, `sectors` the stacked data itself,
`connBase` who is connected and with what rights. -/
inductive Field where
  | pending | fused | straps | board | pins | life | fwSlots | fwRun | svnFloor | frame | timeRegs | sync | window | energy | pass
  | reserved | jobs | cmds | effs | admitCounts | parts | partRegs | pool | streams | t0Pages | migs | index | lostTables
  | t2 | slices | sectors | cores | dramStacks | chains | maps | oboe | conns | connBase | ports | egress | log | units | reports | bgtest
  | goodput | cryptoRegs | owner | nodeId | anchors | utc | keys | ftl | irq | mbox | free | wire | spdm | sideband
  | unsupported
  deriving DecidableEq, Repr

/-- The type of a part of the state. -/
def Field.Ty : Field → Type
  | .pending => List Instr
  | .fused => Nat × Nat × Bytes × Bytes
  | .straps => Nat × Nat × Bool × Bool × Nat
  | .board => Nat × Nat × List Nat
  | .pins => Pins
  | .life => Life
  | .fwSlots => SMap U8 × SMap U8
  | .fwRun => Nat × Nat × Bool × Bool × Nat × Nat × List Bytes
  | .svnFloor => Nat
  | .frame => Nat × Nat × Nat × Bool
  | .timeRegs => Nat × Nat × Option Nat
  | .sync => Int × Bool × Bool × Bool × List Int × Int × Int × Nat × Nat × Nat × Bool × Option Int × (Option (Nat × Nat)) ×
      Nat × Nat × Option Nat × Option Nat × Bool × Nat × Nat × Nat
  | .window => Bool
  | .energy => Nat × Nat × Nat × Nat × (Nat × Nat × Nat)
  | .pass => Nat × Nat × Bool
  | .reserved => SMap FrameRes
  | .jobs => SMap Job × Nat
  | .cmds => SMap Cmd × Nat
  | .effs => List DueEff
  | .admitCounts => Nat × Nat
  | .parts => SMap Part0
  | .partRegs => Nat → (Nat × Bool × Nat × List (Nat × Nat) × Nat) × (Bool × Nat × Nat × Nat × Nat × Nat × Nat × Nat × Nat × Bool) ×
      (Nat × Nat × Nat × Nat × Nat × Nat × Nat)
  | .pool => Nat × Nat × Bool × Bool × Nat × Nat × SMap ReqCtx × SMap ReqCtx × SMap Nat × SMap Nat × (SMap (Nat × Nat)) ×
      (SMap (Nat × Nat)) × List Nat × List Nat
  | .streams => SMap Stream × SMap Stream
  | .t0Pages => SMap T0Page × SMap T0Page × (List (Nat × Nat × Nat)) × (List (Nat × Nat × Nat))
  | .migs => SMap MigRec × SMap MigRec
  | .index => SMap IndexRec × SMap IndexRec × List IndexRec × List IndexRec
  | .lostTables => List Nat × List Nat × SMap Nat × SMap Nat
  | .t2 => Nat × Nat × Nat × Nat
  | .slices => SMap Slice
  | .sectors => Nat → Nat → Option Sector
  | .cores => SMap Core
  | .dramStacks => SMap Stack
  | .chains => Chains
  | .maps => Maps
  | .oboe => Oboe
  | .conns => SMap Conn
  | .connBase => Nat → Option (Bool × Bool × Nat × Nat × Nat × Bool × Nat × Bool × Nat × List Nat × Nat × Bool × SMap Nat)
  | .ports => SMap Port
  | .egress => Egress
  | .log => SMap EvRec × Nat × Nat × Bool
  | .units => List Quar × List Fence × (List (RasUnit × Nat)) × List Replay × SMap MergeGroup × SMap MergeGroup × Nat × Nat ×
      (List (RasUnit × Nat)) × (List (RasUnit × Nat)) × List RasUnit
  | .reports => List (RasUnit × Nat × Nat)
  | .bgtest => Nat × Bool × Nat × Nat × Nat
  | .goodput => Nat × List Nat × SMap Nat × List Nat
  | .cryptoRegs => Nat × Bool × Bool × Bool × Nat
  | .owner => Bool × Nat
  | .nodeId => Nat
  | .anchors => SMap U64
  | .utc => Bool × Nat × Nat
  | .keys => Nat × Nat × SMap SpdmSess × Option KeyPair × Option KeyPair × Bytes
  | .ftl => Ftl × Ftl
  | .irq => Irq
  | .mbox => Mbox
  | .free => Nat
  | .wire => Nat × List TxPkt
  | .spdm => List SpdmRsp
  | .sideband => List Nat
  | .unsupported => List Nat

/-- A part of the state. -/
def view : (f : Field) → State → f.Ty
  | .pending, s => s.pending
  | .fused, s => (s.hw.variant, s.hw.mac, s.hw.secret, s.hw.idChain)
  | .straps, s => (s.hw.pos, s.hw.gsize, s.hw.strapFree, s.hw.leadSel, s.hw.sbAddr)
  | .board, s => (s.hw.peers, s.hw.boardErr, s.hw.peerIds)
  | .pins, s => s.pins
  | .life, s => s.life
  | .fwSlots, s => (s.fw.slot0, s.fw.slot1)
  | .fwRun, s => (s.fw.next, s.fw.running, s.fw.fallback, s.fw.staged, s.fw.stagedVer, s.fw.stageErr, s.fw.measured)
  | .svnFloor, s => s.fw.svnFloor
  | .frame, s => (s.time.frame, s.time.bint, s.time.left, s.time.half)
  | .timeRegs, s => (s.time.tickMode, s.time.len, s.time.lenPend)
  | .sync, s => (s.time.phaseErr, s.time.lost, s.time.holdover, s.time.locked, s.time.delays, s.time.slew, s.time.phase,
      s.time.quiet, s.time.badTicks, s.time.goodTicks, s.time.byLinks, s.time.resync, s.time.dreq, s.time.dreqNo,
      s.time.syncNo, s.time.joinConn, s.time.joinFrame, s.time.joined, s.time.sinceDreq, s.time.decided, s.time.tickOut)
  | .window, s => s.time.windowClosed
  | .energy, s => (s.adm.energyBase, s.adm.energyCap, s.adm.energyCoef, s.adm.energyLen, s.adm.sampled)
  | .pass, s => (s.adm.closed, s.adm.gained, s.adm.stopped)
  | .reserved, s => s.adm.res
  | .jobs, s => (s.adm.jobs, s.adm.nextJob)
  | .cmds, s => (s.adm.cmds, s.adm.nextCid)
  | .effs, s => s.adm.effs
  | .admitCounts, s => (s.adm.admitted, s.adm.deferred)
  | .parts, s => s.parts
  | .partRegs, s => fun k =>
      let p := partAt s k
      ((p.tsWeight, p.tsgEn, p.tsg, p.ranges, p.key),
        (p.deferNote, p.share, p.deferMax, p.depth, p.queueEn, p.quota0, p.quota1, p.entMax, p.evMax, p.solstice),
        (p.egBody, p.egFwd, p.egStat, p.egWeight, p.egBurst, p.egRate, p.idxMax))
  | .pool, s => (s.hub0.vhold, s.hub1.vhold, s.hub0.ven, s.hub1.ven, s.hub0.vsize, s.hub1.vsize, s.hub0.ctxs, s.hub1.ctxs,
      s.hub0.gens, s.hub1.gens, s.hub0.lostCtx, s.hub1.lostCtx, s.hub0.poolBad, s.hub1.poolBad)
  | .streams, s => (s.hub0.streams, s.hub1.streams)
  | .t0Pages, s => (s.hub0.t0, s.hub1.t0, s.hub0.heldT0, s.hub1.heldT0)
  | .migs, s => (s.hub0.migs, s.hub1.migs)
  | .index, s => (s.hub0.index, s.hub1.index, s.hub0.oldIndex, s.hub1.oldIndex)
  | .lostTables, s => (s.hub0.lostIds, s.hub1.lostIds, s.hub0.lostPages, s.hub1.lostPages)
  | .t2, s => (s.hub0.t2usable, s.hub1.t2usable, s.hub0.parkCtr, s.hub1.parkCtr)
  | .slices, s => s.slices
  | .sectors, s => fun i k => sectorOf s i k
  | .cores, s => s.cores
  | .dramStacks, s => s.dramStacks
  | .chains, s => s.chains
  | .maps, s => s.maps
  | .oboe, s => s.oboe
  | .conns, s => s.conns
  | .connBase, s => fun c => (mget s.conns c).map (fun x =>
      (x.opened, x.initiator, x.peerId, x.peerNode, x.gen, x.ordered, x.mps, x.mgmt, x.evmask, x.peerAddrs, x.src, x.onBoard,
        x.grants))
  | .ports, s => s.ports
  | .egress, s => s.eg
  | .log, s => (s.ras.log, s.ras.written, s.ras.sback, s.ras.sbLost)
  | .units, s => (s.ras.quar, s.ras.fences, s.ras.transients, s.ras.replays, s.ras.merge0, s.ras.merge1, s.ras.t0spare0,
      s.ras.t0spare1, s.ras.flash, s.ras.binds, s.ras.damps)
  | .reports, s => s.ras.reports
  | .bgtest, s => (s.ras.bgInterval, s.ras.bgEn, s.ras.bgLast, s.ras.bgGroup, s.ras.bgPasses)
  | .goodput, s => (s.ras.honoured, s.ras.lost, s.ras.frameFault, s.ras.toTally)
  | .cryptoRegs, s => (s.crypto.evCoarse, s.crypto.svcWr, s.crypto.lock, s.crypto.drbgOk, s.crypto.hsFail)
  | .owner, s => (s.crypto.ownerSet, s.crypto.ownerDigest)
  | .nodeId, s => s.crypto.nodeId
  | .anchors, s => s.crypto.anchors
  | .utc, s => (s.crypto.utcSet, s.crypto.utcSecs, s.crypto.utcNs)
  | .keys, s => (s.crypto.ksys, s.crypto.draws, s.crypto.sessions, s.crypto.identity, s.crypto.aliasKey, s.crypto.aliasCert)
  | .ftl, s => (s.ftl0, s.ftl1)
  | .irq, s => s.irq
  | .mbox, s => s.mbox
  | .free, s => s.out.free
  | .wire, s => (s.out.seq, s.out.wire)
  | .spdm, s => s.out.spdm
  | .sideband, s => s.out.sideband
  | .unsupported, s => s.out.unsupported

/-- From s to t nothing changes but the parts of the state a list names. -/
def Only (F : List Field) (s t : State) : Prop := ∀ f, f ∉ F → view f t = view f s

/-- What raising an event changes (R472, R690, R691). -/
def raises : List Field :=
  [.conns, .log, .irq]

/-- What completing a command changes: the command and its queue, its meters, its trigger, its record's message, the goodput
tally, and for a command of the mailbox its response and interrupt (R380, R399, R543, R622, R698). -/
def completion : List Field :=
  [.cmds, .parts, .chains, .conns, .goodput, .irq, .mbox, .wire]

/-- What stopping a command changes: what it holds goes as well (R586). -/
def stops : List Field :=
  [.jobs, .cmds, .effs, .parts, .pool, .t0Pages, .migs, .lostTables, .slices, .chains, .oboe, .conns, .log, .goodput, .ftl,
  .irq, .mbox, .wire]

/-- What taking a unit out of service changes: the work and the objects it holds, its partition's events, its links (R581–R594). -/
def outs : List Field :=
  [.sync, .jobs, .cmds, .effs, .parts, .pool, .streams, .t0Pages, .migs, .index, .lostTables, .slices, .dramStacks, .chains,
  .oboe, .conns, .connBase, .ports, .log, .units, .goodput, .ftl, .irq, .mbox, .wire]

/-- What a node reset changes (R633, R671): all but the queue of commands, the fuses and straps, the pins, the flash slots, the
owner anchor, the free values drawn, and what has been sent. -/
def resets : List Field :=
  [.board, .life, .fwRun, .frame, .timeRegs, .sync, .window, .energy, .pass, .reserved, .jobs, .cmds, .effs, .admitCounts,
  .parts, .partRegs, .pool, .streams, .t0Pages, .migs, .index, .lostTables, .t2, .slices, .sectors, .cores, .dramStacks,
  .chains, .maps, .oboe, .conns, .connBase, .ports, .egress, .log, .units, .reports, .bgtest, .goodput, .cryptoRegs,
  .anchors, .utc, .keys, .ftl, .irq, .mbox]

/-- What each command may change; every other part of the state it leaves as it was. -/
def touches : Instr → List Field
  | .attend _ => stops
  | .verify _ => stops
  | .accept _ => stops
  | .append _ => completion ++ [.jobs, .effs, .t0Pages, .slices]
  | .pushLayer _ => completion ++ [.jobs, .effs, .slices, .sectors]
  | .stateStep _ => [.cmds, .effs, .slices]
  | .select _ => stops
  | .indexUpdateIndex _ _ => stops ++ [.reserved, .index]
  | .indexUpdateUnindex _ => completion ++ [.effs]
  | .indexUpdateGrow _ => stops ++ [.reserved, .index]
  | .park _ => completion ++ [.effs, .t2, .reports, .ftl]
  | .restore _ => completion ++ [.ftl]
  | .restoreWritePhase _ => completion ++ [.effs, .slices, .sectors, .oboe, .log, .ftl]
  | .fork _ => completion ++ [.effs, .t0Pages, .slices, .sectors, .log, .reports]
  | .drop _ => completion ++ [.effs, .t0Pages, .slices, .log, .reports]
  | .flush _ => completion ++ [.t0Pages]
  | .migrate _ => [.cmds, .migs]
  | .migrateReverse _ => completion ++ [.effs, .migs, .slices, .log, .free]
  | .read _ => completion ++ [.slices, .reports]
  | .write _ => completion ++ [.jobs, .effs]
  | .postChainPost _ => completion
  | .postChainFreeEntry _ => completion
  | .postChainCreateEvent _ => completion
  | .postChainFreeEvent _ => completion
  | .arm _ => completion ++ [.pool]
  | .fence _ => completion
  | .fenceRelease _ => completion
  | .streamOpen _ => completion ++ [.effs, .lostTables, .slices, .log]
  | .streamOpenRecurrent _ => completion ++ [.effs, .lostTables, .slices, .log]
  | .streamClose _ => completion ++ [.effs]
  | .progLoad _ => completion ++ [.effs, .dramStacks]
  | .progLoadClear _ => completion ++ [.effs]
  | .queryCaps _ => completion
  | .partCtlCreate _ => completion ++ [.partRegs, .maps, .keys, .free]
  | .partCtlDestroy _ => completion ++ [.effs, .maps]
  | .partCtlQuiesce _ => completion ++ [.effs]
  | .quiesceComplete _ => completion
  | .partCtlRestart _ => completion
  | .partCtlReset _ => completion ++ [.effs]
  | .partCtlResize _ => completion ++ [.partRegs, .dramStacks]
  | .partCtlGrant _ => completion ++ [.connBase]
  | .partCtlSetWeight _ => completion ++ [.partRegs, .maps]
  | .partCtlRegisterWrite _ => stops ++ [.partRegs, .dramStacks, .units]
  | .partCtlMapLoad _ => completion ++ [.effs, .maps, .log]
  | .partCtlMapCancel _ => completion ++ [.maps]
  | .partCtlMailboxRequest _ => stops ++ [.life, .fwSlots, .fwRun, .svnFloor, .timeRegs, .sync, .energy, .partRegs,
      .dramStacks, .ports, .egress, .units, .bgtest, .cryptoRegs, .anchors, .utc]
  | .dataReceive _ _ _ => completion ++ [.sync, .pool, .ports, .egress, .log]
  | .ackReceive _ _ => raises ++ [.sync, .cmds, .parts, .chains, .connBase, .ports, .egress, .wire]
  | .nakReceive _ _ => raises ++ [.cmds, .parts, .ports, .egress]
  | .ackTimer _ _ => raises ++ [.ports, .wire]
  | .retransmitTimeout _ _ _ _ => raises ++ [.sync, .cmds, .parts, .chains, .connBase, .ports, .wire]
  | .flushPacket _ _ _ => raises ++ [.ports, .egress, .wire]
  | .flushAckReceive _ _ _ => raises ++ [.ports, .egress]
  | .pathsReceive _ _ _ => raises ++ [.ports, .egress]
  | .probeReceive _ _ _ _ => raises ++ [.ports, .egress, .wire]
  | .pairBadExpiry _ _ => raises ++ [.ports, .wire]
  | .close _ _ => raises ++ [.sync, .cmds, .parts, .chains, .connBase, .ports, .egress]
  | .connectReq _ _ _ _ => raises ++ [.sync, .cmds, .parts, .chains, .connBase, .ports, .egress, .cryptoRegs, .keys, .wire]
  | .connectRsp _ _ _ _ => raises ++ [.sync, .connBase, .ports, .wire]
  | .connectCfm _ _ => raises ++ [.connBase, .ports, .egress]
  | .connectCfmTimeout _ => raises ++ [.sync, .cmds, .parts, .chains, .connBase]
  | .timeSync _ _ => raises ++ [.life, .frame, .timeRegs, .sync, .energy, .pass, .cmds, .effs, .ports, .egress]
  | .timeDreq _ _ _ => raises ++ [.ports, .egress, .wire]
  | .timeDrsp _ _ => raises ++ [.sync, .ports, .egress]
  | .timeDreqSend _ => raises ++ [.sync, .ports, .wire]
  | .frameHoldover => raises ++ [.sync]
  | .ftickEdge _ => raises ++ [.sync]
  | .frameTickLost => raises ++ [.sync]
  | .frameStart => outs ++ [.life, .frame, .timeRegs, .window, .energy, .pass, .reserved, .partRegs, .sectors, .cores, .maps,
      .egress, .reports, .keys, .free]
  | .baseIntervalStart _ => outs ++ [.frame, .cores, .reports, .utc]
  | .solsticeBarrierTimeout _ => outs ++ [.cores]
  | .thermalDecision _ => raises ++ [.sync, .dramStacks, .oboe]
  | .refreshDue _ => outs ++ [.reports]
  | .maintenanceSlot => raises ++ [.parts, .dramStacks]
  | .admissionPass _ => completion ++ [.energy, .pass, .reserved, .jobs, .admitCounts, .pool, .t0Pages, .slices, .log,
      .reports]
  | .oboeSearchWindow _ => [.parts, .oboe]
  | .oboeUpdateSlot => stops ++ [.reserved, .index]
  | .cascadeFail _ => stops
  | .serviceWindowClose => [.window, .cmds, .slices]
  | .reserveWindow _ => stops ++ [.sectors, .reports]
  | .ordinaryReadGrant _ => [.slices]
  | .sectorRead _ _ => stops ++ [.reports]
  | .sectorWrite _ _ => stops ++ [.sectors, .reports]
  | .piccoloTaskCommit _ _ => outs ++ [.sectors, .cores, .reports]
  | .deadlockDetect _ => outs ++ [.cores]
  | .frameOverrunWatchdog _ => outs ++ [.cores]
  | .coreFault _ _ _ _ => outs ++ [.cores]
  | .coreReplay _ _ => stops ++ [.reserved, .units, .reports]
  | .mergeFold _ _ => completion ++ [.slices]
  | .peerRecordMissing _ _ => stops
  | .sealCode _ => [.jobs, .slices, .oboe]
  | .sealUpload _ => [.jobs, .reports]
  | .sealJob _ => [.jobs, .effs, .slices, .sectors]
  | .writeBackJob _ => [.reserved, .jobs, .effs, .parts, .slices, .oboe]
  | .migrationCopy _ _ => completion ++ [.reserved, .effs, .migs, .slices, .sectors, .oboe, .log, .reports]
  | .migrationCopyFail _ _ _ => completion ++ [.effs, .migs, .slices, .log]
  | .longSequenceRerun _ => [.jobs, .cmds, .effs, .chains, .conns]
  | .vpoolHoldExpiry _ _ => [.parts, .pool]
  | .chainCompletionTrigger _ => completion ++ [.pool, .log]
  | .egressPacketStart _ _ => raises ++ [.cmds, .parts, .chains, .ports, .goodput, .wire]
  | .shaperSlot => [.conns, .ports]
  | .gateArm _ _ => [.ports, .irq]
  | .gateCancel _ _ => [.ports, .irq]
  | .gateListSwitch _ => raises ++ [.ports]
  | .equinox => raises ++ [.sync, .maps, .connBase, .ports, .keys, .wire]
  | .mapGraceEnd => [.maps]
  | .timeSliceSwitch _ => [.parts, .partRegs, .maps]
  | .zeroingComplete _ => completion ++ [.jobs, .partRegs, .slices, .sectors, .maps, .connBase, .log]
  | .partitionFault _ => [.effs]
  | .errorReport _ _ _ _ => outs ++ [.reports]
  | .targetedTestComplete _ _ _ => outs
  | .heartbeatLost _ => stops ++ [.units]
  | .bgtestStart => [.jobs, .bgtest]
  | .rowGroupTestDone _ _ _ _ => outs ++ [.sectors, .reports]
  | .laneDown _ _ => stops ++ [.ports, .units]
  | .laneFlap _ _ _ => stops ++ [.ports, .units]
  | .portDown _ => stops ++ [.ports, .units]
  | .portUp _ _ _ => raises ++ [.ports, .units, .wire]
  | .nandReadDone _ _ _ => raises ++ [.jobs, .cmds, .effs, .parts, .streams, .t0Pages, .migs, .index, .lostTables, .slices,
      .oboe, .ftl]
  | .nandReadFail _ _ _ _ => raises ++ [.jobs, .cmds, .effs, .parts, .streams, .t0Pages, .migs, .index, .lostTables, .t2,
      .slices, .oboe, .ftl]
  | .nandProgramDone _ _ _ _ _ => [.parts, .ftl]
  | .nandProgramFail _ _ _ _ => raises ++ [.t2, .ftl]
  | .nandEraseFail _ _ => raises ++ [.t2, .ftl]
  | .staticWearLevel _ _ _ => [.ftl]
  | .readDisturbRelocate _ _ _ _ => [.ftl]
  | .entropyHealthFail _ => raises ++ [.cryptoRegs]
  | .entropyFailTimeout => [.life]
  | .allLinksDownTimeout => [.life]
  | .winterEntry => outs ++ [.life, .reserved, .partRegs, .sectors, .maps]
  | .lifeReqSummer _ => [.life]
  | .lifeReqAutumn _ => [.life]
  | .lifeReqWinter _ => [.life]
  | .lifeReqSpring _ _ => resets ++ [.pins, .nodeId, .wire]
  | .resetRelease _ _ => outs ++ [.straps, .board, .pins, .life, .fwRun, .timeRegs, .energy, .reserved, .partRegs, .t2,
      .sectors, .maps, .cryptoRegs, .nodeId, .keys]
  | .boardPeerTimeout => [.board]
  | .timeJoin _ _ => raises ++ [.life, .frame, .timeRegs, .sync, .energy, .pass, .cmds, .effs, .ports, .egress]
  | .bootWatchdog _ => resets ++ [.nodeId, .wire]
  | .coldReset _ => resets ++ [.pins]
  | .auxOkAssert => [.pins]
  | .mainOkTimeout => [.pins]
  | .mainOkFall => outs ++ [.pins, .life, .reserved, .partRegs, .t2, .sectors, .cores, .maps, .keys]
  | .vinMainOutOfRange => [.life]
  | .thermtrip _ _ => [.pins]
  | .pciePerst _ => [.pins]
  | .tapInstructionLoad _ => raises ++ [.pins, .sync, .cmds, .parts, .partRegs, .chains, .connBase, .keys]
  | .trstRelease _ _ => resets ++ [.straps, .pins, .nodeId, .wire]
  | .spdmGetMeasurements _ _ _ => [.keys, .spdm]
  | .spdmKeyExchange _ _ => [.keys, .spdm]
  | .ownerAnchorWrite _ _ => [.owner]
  | .smbusAlertResponse => [.sideband]
  | .mboxPartCtl _ => completion ++ [.pool]
  | .mboxAccessList _ => stops ++ [.life, .fwRun, .svnFloor, .timeRegs, .sync, .energy, .partRegs, .dramStacks, .ports,
      .egress, .units, .bgtest, .cryptoRegs, .anchors, .utc]
  | .mboxStagingWrite _ => completion
  | .mboxFirmwareWrite _ => completion ++ [.fwSlots, .fwRun]
  | .tableReadGrant _ => stops ++ [.life, .fwRun, .svnFloor, .timeRegs, .sync, .energy, .partRegs, .dramStacks, .ports,
      .egress, .units, .bgtest, .cryptoRegs, .anchors, .utc]
  | .fwStage => [.fwRun]
  | .fwCommit => [.svnFloor]
  | .maintSliceTest _ _ _ => stops ++ [.dramStacks, .units]
  | .maintCoreTest _ _ _ => stops ++ [.dramStacks, .units]
  | .maintStackRecal _ _ _ => stops ++ [.dramStacks, .units]
  | .maintRowGroupTest _ _ _ => stops ++ [.dramStacks, .units]
  | .meterSnap _ _ => [.parts, .irq]
  | .logSbackWrite _ => [.log]
  | .utcWrite _ _ => [.utc]
  | .coreFaultRead _ => [.dramStacks]
  | .registerWrite _ _ _ => stops ++ [.life, .fwRun, .svnFloor, .timeRegs, .sync, .energy, .partRegs, .dramStacks, .ports,
      .egress, .units, .bgtest, .cryptoRegs, .anchors, .utc, .unsupported]
  | .drbgReseed => [.parts, .partRegs, .cryptoRegs, .keys]
  | .powerLimitSample _ _ => raises
  | .hub0LogicFault => [.life]
  | .mainOkRise => [.pins]
  | .vinAuxInRange => [.pins]
  | .auxOkFall => [.pins]

/-- A table's keys rise strictly, so that each is listed once. -/
def Rising {α : Type} (m : SMap α) : Prop := (m.map (fun e => e.1)).Pairwise (fun a b => a < b)

/-- A command completes in a row: its outcome is fixed, LATE when the command is late already, only what the row may change changes,
and P holds of the state after it. -/
def Ends (i : Instr) (s : State) (cid : Nat) (o : Outcome0) (P : State → Prop) : Prop :=
  Completes i s (fun t => outcomeOf t cid = some { o with late := o.late || ((cmdAt s cid).map (fun c => c.late)).getD false } ∧
    Only (touches i) s t ∧ P t)

/-- Runs of chunks that can be taken one after another: slice and length of each. -/
def runsFit (s : State) (runs : List (Nat × Nat)) : Bool :=
  match runs with
  | [] => true
  | (i, n) :: r =>
    match allocRun (sliceAt s i) n with
    | none => false
    | some (_, x) => runsFit { s with slices := mset s.slices i x } r

/-- An outcome with no body. -/
def outcome (status detail cframe count0 count1 : Nat) : Outcome0 := ⟨status, detail, cframe, count0, count1, [], false⟩

/-- An ordinary write has been run (R266, R331, R555): its sector holds its bytes laid over `base`, which its read half gave,
under the key of its partition, at its own address and with its metadata under the version it takes, and every other sector of the
slice is as before. -/
def Written (s t : State) (i : Nat) (w : OrdWrite) (base : Bytes) : Prop :=
  let k := 8 * w.chunk + w.sector
  (∃ y, sectorOf t i k = some y ∧ y.addr = psaOf i w.chunk w.sector ∧ y.key = partKey s w.part ∧
    y.info = putField w.info 0 32 (ordVersion (sliceAt s i) w) ∧ y.plain = fitTo 512 (overwrite base w.offset w.data)) ∧
  ∀ j, j ≠ k → sectorOf t i j = sectorOf s i j

/-- Logical core l has faulted (R283, R309–R311): the record of Table 8-7 stands unless an earlier one does, the core is stopped,
the physical core is under test, and a spare is promised with the work of the frame to replay, or the slice fenced. -/
def CoreFaulted (s : State) (l cause engine queue : Nat) (t : State) : Prop :=
  let i := coreSlice l
  let n := coreStack l
  let g := coreGroup l
  let m := spareAt s n g
  let p := physOf m (l % 48)
  (coreAt t l).stopped = true ∧
  (stackAt t n).coreFault =
    (if (stackAt s n).coreFault = 0 then faultRecord engine cause queue p l else (stackAt s n).coreFault) ∧
  bit (spareAt t n g).testing p = true ∧ s.ras.written < t.ras.written ∧
  match freeSpare { m with testing := m.testing ||| 2 ^ p } with
  | none => ∃ f ∈ t.ras.fences, f.unit = .slice i
  | some q => (l % 48, q) ∈ (spareAt t n g).pendingBind ∧
      (affectedBy s i (l % 12) s.time.frame ≠ [] →
        ⟨i, l % 12, s.time.frame, affectedBy s i (l % 12) s.time.frame⟩ ∈ t.ras.replays)

/-- A job whose page has been coded at the hub: the seal job that admission takes next (R93). -/
def sealOf (s : State) (j : Job) (x : Stream) (raw : Bytes) : Job :=
  { j with
    kind := .seal, coded := (codePage x j.page raw).1, summary := (codePage x j.page raw).2
    k := chunksFor (codePage x j.page raw).1.length, target := s.time.frame + 1, granted := none }

/-- Job n, not left running by a freed page, has coded its page (R92, R93, R210): it is the page's seal job; the page of a stream
whose index is complete has its version, and its insert is queued. -/
def Coded (s : State) (n : Nat) (j : Job) (x : Stream) (raw : Bytes) (t : State) : Prop :=
  ∃ ver, jobAt t n = some { sealOf s j x raw with ver := ver } ∧
    (takesInsert s j.handle = false → ver = j.ver ∧ t.oboe.updates = s.oboe.updates) ∧
    (takesInsert s j.handle = true → (pageEnt s j.handle j.page ≠ none → ver ≠ none) ∧
      ∃ r, indexOf s j.handle = some r ∧
        t.oboe.updates = s.oboe.updates ++ [.insert (hubOfHandle j.handle) r.tag j.handle j.page (ver.getD 0)
          (sumSig x.dk (codePage x j.page raw).2) (codePage x j.page raw).2 false n])

/-- A legal state: the running and next firmware slots exist; the life-cycle state, and one that is due, is one of the four of
Table 16-1; at most 4,096 event records are unread (R693); and the addressed buffers — the mailbox's request and staging areas, the
two flash slots — are in their canonical form. -/
def Legal (s : State) : Prop :=
  s.fw.running < 2 ∧ s.fw.next < 2 ∧ s.life.state ≤ 3 ∧ (∀ d, s.life.due = some d → d.1 ≤ 3) ∧
  s.ras.sback ≤ s.ras.written ∧ s.ras.written ≤ s.ras.sback + 4096 ∧
  Memory.wf s.mbox.req = true ∧ Memory.wf s.mbox.staging = true ∧ Memory.wf s.fw.slot0 = true ∧ Memory.wf s.fw.slot1 = true

/-- The bytes of an access list of register reads (Tables 18-11, 18-13). -/
def readList (tag : Nat) (addrs : List Nat) : Bytes :=
  leBytes 16 (packFields [(0, 8, 2), (32, 32, addrs.length), (96, 32, tag)]) ++
    addrs.flatMap (fun a => leBytes 8 (a + 2 ^ 60) ++ leBytes 8 0)

end Sys2Proof.Machine
end

