-- ==== Sys2Proof/WellFormed.lean ====
section
/-!
DEFINITION. Well-formed commands: every operand lies in the range its field or its unit has (Tables 1-2, 11-1 to 11-19, 15-21,
17-1, 17-2, 18-1). A meaning runs on any operands; what these checks refuse is no event of the node.
-/

namespace Sys2Proof

/-- A number of at most w bits. -/
def fits (w x : Nat) : Bool := decide (x < 2 ^ w)

/-- A bank slice, a stack and a hub of the largest variant (Table 1-2, R15). -/
def sliceOk (i : Nat) : Bool := decide (i < 24576)
def stackOk (n : Nat) : Bool := decide (n < 24)
def hubOk (h : Nat) : Bool := decide (h < 2)

/-- A fabric port, board link (16–19) or the management port (20), and one of its lanes (Table 17-1). -/
def portOk (p : Nat) : Bool := decide (p ≤ 20)
def laneOk (l : Nat) : Bool := decide (l < 16)

/-- A logical core, by its number in the node: twelve to a slice (Table 1-2, R307). -/
def coreOk (i : Nat) : Bool := decide (i < 12 * 24576)

/-- A repairable unit by the widths of its SUBJECT (Table 15-21). -/
def RasUnit.wf : RasUnit → Bool
  | .core st g p => stackOk st && fits 8 g && decide (p < 50)
  | .merge h g p => hubOk h && fits 7 g && fits 6 p
  | .rowGroup i g => sliceOk i && fits 13 g
  | .slice i => sliceOk i
  | .stack n => stackOk n
  | .t0 h r => hubOk h && fits 9 r
  | .lane p l => decide (p < 16) && laneOk l
  | .port p => decide (p < 16)
  | .blane b l => fits 2 b && laneOk l
  | .blink b => fits 2 b
  | .laneGroup n g => stackOk n && fits 4 g
  | .bridge l => fits 10 l

/-- An object of T0 by the widths of its handle, slot or index (R106, R164, R209, R394, R426). -/
def T0Obj.wf : T0Obj → Bool
  | .stream h => fits 21 h
  | .page h p => fits 21 h && fits 18 p
  | .context hub sl => hubOk hub && fits 12 sl
  | .indexRec hub i => hubOk hub && fits 14 i
  | .command _ => true
  | .connection c => fits 16 c
  | .chainEntry i => fits 18 i
  | .event i => fits 16 i
  | .parkStaging h p => fits 21 h && fits 18 p
  | .restStaging h p => fits 21 h && fits 18 p
  | .mapCopy => true

/-- The base header's field widths (Table 11-2) and the addresses' (R413, R417). -/
def RxBase.wf (p : RxBase) : Bool :=
  portOk p.port && fits 128 p.src && fits 16 p.dport && fits 20 p.label && fits 32 p.sframe && fits 32 p.psn && fits 32 p.dcid &&
  fits 1 p.keyph && fits 3 p.tc && fits 4 p.tgen

/-- The DATA type header's field widths (Table 11-5). -/
def DataHdr.wf (d : DataHdr) : Bool :=
  fits 64 d.addr && fits 24 d.rgen && fits 24 d.region && fits 32 d.answers && fits 32 d.chainh && fits 32 d.offset &&
  fits 7 d.part && fits 3 d.kind && fits 25 d.mlen && fits 16 d.pindex && fits 16 d.pcount && fits 32 d.msn

def AckHdr.wf (a : AckHdr) : Bool :=
  fits 16 a.delay && fits 16 a.ce && fits 32 a.floor && fits 256 a.bitmap && fits 32 a.newest

def NakHdr.wf (n : NakHdr) : Bool := fits 8 n.reason && fits 16 n.pindex && fits 32 n.msn && fits 32 n.npsn

def HsHdr.wf (h : HsHdr) : Bool :=
  fits 16 h.evmask && fits 8 h.status && fits 2 h.mps && fits 16 h.gens && fits 32 h.scid

def Kx.wf (k : Kx) : Bool :=
  fits 8 k.kxver && fits 8 k.suite && k.nonce.length == 32 && k.epk.length == 97 && k.sig.length == 96 &&
  fits 16 k.chain.length && fits 384 k.root && fits 64 k.nodeId && fits 64 k.notBefore && fits 64 k.notAfter

def TimeHdr.wf (t : TimeHdr) : Bool :=
  decide (-(2 : Int) ^ 63 ≤ t.corr) && decide (t.corr < (2 : Int) ^ 63) && fits 32 t.seq && fits 32 t.sub && fits 64 t.bint

/-- A unit of THERMAL samples: stacks 0–23, hubs 24 and 25, each at most once (R43, R718). -/
def Temp.wf (t : Temp) : Bool := decide (t.unit < 26)

/-- Straps, Table 17-2. -/
def Straps.wf (x : Straps) : Bool := fits 2 x.pos && fits 2 x.gsize && fits 2 x.sbAddr

/-- Spring, Table 16-6: the last step is 1 to 8, the ports are the fabric's and the links', lanes at most 16. -/
def Boot.wf (b : Boot) : Bool :=
  decide (1 ≤ b.last) && decide (b.last ≤ 8) && b.failing.all RasUnit.wf &&
  b.lanes.all (fun e => portOk e.1 && fits 16 e.2.1) && b.peers.all (fun e => fits 2 e.1 && e.2.1.wf && fits 2 e.2.2.1 && fits 64 e.2.2.2)

/-- A sector as a bank unit stores it: 512 bytes, a 33-bit address, a 64-bit metadata word (Table 7-6). -/
def Sector.wf (y : Sector) : Bool := decide (y.plain.length = 512) && fits 33 y.addr && fits 64 y.info && fits 128 y.tweak

/-- Flipped symbols name one of 566 places and change it (R262). -/
def DramFault.wf : DramFault → Bool
  | .none => true
  | .flips es => es.all (fun e => decide (e.1 < 566) && decide (0 < e.2) && fits 10 e.2)
  | .replaced y => y.wf

def SectorReq.wf (r : SectorReq) : Bool := sliceOk r.slice && fits 17 r.chunk && fits 3 r.sector

/-- A credit operation names one of the eight queues of a core, and moves at least one (R278, R279). -/
def CreditOp.wf : CreditOp → Bool
  | .wait q _ n => fits 3 q && decide (0 < n)
  | .take q _ n => fits 3 q && decide (0 < n)
  | .give q _ n => fits 3 q && decide (0 < n)

/-- A scratchpad request names one of five engines and a word (R276, R288). -/
def PadReq.wf (w : PadReq) : Bool := decide (w.engine < 5) && fits 13 w.word

def TaskOp.wf (t : TaskOp) : Bool := t.credits.all CreditOp.wf && t.pad.all (fun c => c.all PadReq.wf)

/-- Another member's match: a position, an entry of a table of two halves, a handle, a page and its version (R106, R207, R225). -/
def OboeMatch.wf (m : OboeMatch) : Bool := fits 2 m.pos && fits 21 m.addr && fits 21 m.stream && fits 18 m.page && fits 32 m.version

def JoinMsg.wf : JoinMsg → Bool
  | .sync t => t.wf
  | .lead f b => fits 64 f && fits 64 b

def MboxSrc.wf : MboxSrc → Bool
  | .host => true
  | .owner sess _ => decide (sess < 4)

/-- A register access path: 0 the service endpoint, 1 an owner session, 2 PART_CTL (R687, R705). -/
def pathOk (p : Nat) : Bool := decide (p < 3)

/-- Every operand of the command in the range its field or unit has. -/
def Instr.wf : Instr → Bool
  | .attend _ => true
  | .verify _ => true
  | .accept _ => true
  | .append _ => true
  | .pushLayer _ => true
  | .stateStep _ => true
  | .select _ => true
  | .indexUpdateIndex _ tag => fits 16 tag
  | .indexUpdateUnindex _ => true
  | .indexUpdateGrow _ => true
  | .park _ => true
  | .restore _ => true
  | .restoreWritePhase _ => true
  | .fork _ => true
  | .drop _ => true
  | .flush _ => true
  | .migrate _ => true
  | .migrateReverse _ => true
  | .read _ => true
  | .write _ => true
  | .postChainPost _ => true
  | .postChainFreeEntry _ => true
  | .postChainCreateEvent _ => true
  | .postChainFreeEvent _ => true
  | .arm _ => true
  | .fence _ => true
  | .fenceRelease _ => true
  | .streamOpen _ => true
  | .streamOpenRecurrent _ => true
  | .streamClose _ => true
  | .progLoad _ => true
  | .progLoadClear _ => true
  | .queryCaps _ => true
  | .partCtlCreate _ => true
  | .partCtlDestroy _ => true
  | .partCtlQuiesce _ => true
  | .quiesceComplete k => fits 7 k
  | .partCtlRestart _ => true
  | .partCtlReset _ => true
  | .partCtlResize _ => true
  | .partCtlGrant _ => true
  | .partCtlSetWeight _ => true
  | .partCtlRegisterWrite _ => true
  | .partCtlMapLoad _ => true
  | .partCtlMapCancel _ => true
  | .partCtlMailboxRequest _ => true
  | .dataReceive p d payload => p.wf && d.wf && decide (payload.length ≤ 8192)
  | .ackReceive p a => p.wf && a.wf
  | .nakReceive p n => p.wf && n.wf
  | .ackTimer c _ => fits 16 c
  | .retransmitTimeout c _ _ _ => fits 16 c
  | .flushPacket p fmsn ftag => p.wf && fits 32 fmsn && fits 32 ftag
  | .flushAckReceive p fmsn ftag => p.wf && fits 32 fmsn && fits 32 ftag
  | .pathsReceive p pseq live => p.wf && fits 32 pseq && fits 16 live
  | .probeReceive p echo label _ => p.wf && fits 64 echo && fits 20 label
  | .pairBadExpiry c _ => fits 16 c
  | .close p reason => p.wf && fits 8 reason
  | .connectReq p h addrs kx => p.wf && h.wf && kx.wf && decide (1 ≤ addrs.length) && decide (addrs.length ≤ 16) && addrs.all (fits 128)
  | .connectRsp p h addrs kx => p.wf && h.wf && kx.wf && decide (1 ≤ addrs.length) && decide (addrs.length ≤ 16) && addrs.all (fits 128)
  | .connectCfm p scid => p.wf && fits 32 scid
  | .connectCfmTimeout c => fits 16 c
  | .timeSync p t => p.wf && t.wf
  | .timeDreq p t _ => p.wf && t.wf
  | .timeDrsp p t => p.wf && t.wf
  | .timeDreqSend _ => true
  | .frameHoldover => true
  | .ftickEdge _ => true
  | .frameTickLost => true
  | .frameStart => true
  | .baseIntervalStart ts => ts.all Temp.wf
  | .solsticeBarrierTimeout c => coreOk c
  | .thermalDecision steps => steps.all (fits 2)
  | .refreshDue i => sliceOk i
  | .maintenanceSlot => true
  | .admissionPass ps => ps.all (fun p => fits 2 p.pos)
  | .oboeSearchWindow r => r.peers.all OboeMatch.wf
  | .oboeUpdateSlot => true
  | .cascadeFail pos => fits 2 pos
  | .serviceWindowClose => true
  | .reserveWindow i => sliceOk i
  | .ordinaryReadGrant i => sliceOk i
  | .sectorRead r f => r.wf && f.wf
  | .sectorWrite i f => sliceOk i && f.wf
  | .piccoloTaskCommit c t => coreOk c && t.wf
  | .deadlockDetect c => coreOk c
  | .frameOverrunWatchdog c => coreOk c
  | .coreFault u cause e q => u.wf && fits 4 cause && fits 3 e && fits 3 q
  | .coreReplay i c => sliceOk i && coreOk c
  | .mergeFold _ ps => ps.all (fun p => fits 2 p.pos)
  | .peerRecordMissing _ m => fits 4 m
  | .sealCode _ => true
  | .sealUpload _ => true
  | .sealJob _ => true
  | .writeBackJob _ => true
  | .migrationCopy h p => fits 21 h && fits 18 p
  | .migrationCopyFail h p cause => fits 21 h && fits 18 p && fits 6 cause
  | .longSequenceRerun _ => true
  | .vpoolHoldExpiry h sl => hubOk h && fits 12 sl
  | .chainCompletionTrigger _ => true
  | .egressPacketStart p _ => portOk p
  | .shaperSlot => true
  | .gateArm p v => portOk p && fits 64 v
  | .gateCancel p v => portOk p && fits 64 v
  | .gateListSwitch p => portOk p
  | .equinox => true
  | .mapGraceEnd => true
  | .timeSliceSwitch g => fits 7 g
  | .zeroingComplete k => fits 7 k
  | .partitionFault k => fits 7 k
  | .errorReport u cause _ held => u.wf && fits 8 cause && held.all T0Obj.wf
  | .targetedTestComplete u _ held => u.wf && held.all T0Obj.wf
  | .heartbeatLost n => stackOk n
  | .bgtestStart => true
  | .rowGroupTestDone i g _ bad => sliceOk i && fits 13 g && bad.all (fun x => decide (x < 8 * 24576))
  | .laneDown p l => portOk p && laneOk l
  | .laneFlap p l _ => portOk p && laneOk l
  | .portDown p => portOk p
  | .portUp p lanes _ => portOk p && fits 16 lanes
  | .nandReadDone hub h p => hubOk hub && fits 21 h && fits 18 p
  | .nandReadFail hub h p _ => hubOk hub && fits 21 h && fits 18 p
  | .nandProgramDone hub h p _ _ => hubOk hub && fits 21 h && fits 18 p
  | .nandProgramFail hub _ _ _ => hubOk hub
  | .nandEraseFail _ _ => true
  | .staticWearLevel _ _ _ => true
  | .readDisturbRelocate _ _ _ _ => true
  | .entropyHealthFail _ => true
  | .entropyFailTimeout => true
  | .allLinksDownTimeout => true
  | .winterEntry => true
  | .lifeReqSummer _ => true
  | .lifeReqAutumn _ => true
  | .lifeReqWinter _ => true
  | .lifeReqSpring _ b => b.wf
  | .resetRelease x b => x.wf && b.wf
  | .boardPeerTimeout => true
  | .timeJoin p j => p.wf && j.wf
  | .bootWatchdog b => b.wf
  | .coldReset _ => true
  | .auxOkAssert => true
  | .mainOkTimeout => true
  | .mainOkFall => true
  | .vinMainOutOfRange => true
  | .thermtrip sensor _ => decide (sensor < 26)
  | .pciePerst _ => true
  | .tapInstructionLoad _ => true
  | .trstRelease x b => x.wf && b.wf
  | .spdmGetMeasurements sess ix nonce => decide (sess ≤ 4) && fits 8 ix && nonce.all (fits 256)
  | .spdmKeyExchange _ _ => true
  | .ownerAnchorWrite sess d => decide (sess < 4) && fits 384 d
  | .smbusAlertResponse => true
  | .mboxPartCtl src => src.wf
  | .mboxAccessList src => src.wf
  | .mboxStagingWrite src => src.wf
  | .mboxFirmwareWrite src => src.wf
  | .tableReadGrant i => sliceOk i
  | .fwStage => true
  | .fwCommit => true
  | .maintSliceTest k v path => fits 7 k && fits 64 v && pathOk path
  | .maintCoreTest k v path => fits 7 k && fits 64 v && pathOk path
  | .maintStackRecal k v path => fits 7 k && fits 64 v && pathOk path
  | .maintRowGroupTest k v path => fits 7 k && fits 64 v && pathOk path
  | .meterSnap k v => fits 7 k && fits 64 v
  | .logSbackWrite v => fits 64 v
  | .utcWrite v path => fits 64 v && pathOk path
  | .coreFaultRead n => stackOk n
  | .registerWrite path a v => pathOk path && decide (1 ≤ v.bytes) && decide (v.bytes ≤ 8) && fits 64 a && fits (8 * v.bytes) v.word
  | .drbgReseed => true
  | .powerLimitSample h _ => hubOk h
  | .hub0LogicFault => true
  | .mainOkRise => true
  | .vinAuxInRange => true
  | .auxOkFall => true

end Sys2Proof
end

