-- ==== Sys2Proof/Certificates/Slice0/Obligations.lean ====
section
/-!
DEFINITION. The statements about the model: what each command does and leaves alone, what every step keeps, and what holds at
reset.
-/

open Sys2Proof Sys2Proof.Machine

/-- A step runs the command at the front of the queue on the state with the queue's rest.
(The queue is the interface's; an empty queue idles by DESIGN CHOICE, log 2.) -/
def Obligations.StepRunsTheFrontCommand : Prop :=
  ∀ (c : Instr) (rest : List Instr) (s : State), step { s with pending := c :: rest } = exec c { s with pending := rest }

/-- R670, R671, R673, R675, R717: the rails, the holds on `MAIN_EN`, the thermal trip and the PCIe reset change pins and nothing
else. -/
def Obligations.PowerPinsFollowTheRails : Prop :=
  ∀ s : State,
    (s.pins.auxIn = false → exec .vinAuxInRange s = .next { s with pins := { s.pins with auxIn := true } }) ∧
    (s.pins.auxIn = true → s.pins.auxOk = false →
      exec .auxOkAssert s = .next { s with pins := { s.pins with auxOk := true, mainEn := !s.pins.lockout } }) ∧
    (s.pins.auxOk = true →
      exec .auxOkFall s = .next { s with pins := { s.pins with auxOk := false, lockout := false } }) ∧
    (s.pins.mainEn = true → s.pins.mainOk = false →
      exec .mainOkRise s = .next { s with pins := { s.pins with mainOk := true } } ∧
      (s.pins.rstN = false →
        exec .mainOkTimeout s = .next { s with pins := { s.pins with mainEn := false, lockout := true } })) ∧
    (∀ (sensor : Nat) (temp t : Int), s.pins.auxIn = true → tripTemp s sensor = some t → t ≤ temp →
      exec (.thermtrip sensor temp) s =
        .next { s with pins := { s.pins with tripped := true, mainEn := false, lockout := true } }) ∧
    (∀ low : Bool, exec (.pciePerst low) s =
      .next { s with pins := { s.pins with pcieUp := !low && s.pins.rstN && decide (2 ≤ s.life.step) } })

/-- R633, R671, R672, R682: what a cold reset, the loss of `MAIN_OK` and the reset at `TRST_N` leave. Every key but the
node's own secret is lost, `RST_N` low or a reset stops all work and puts the stacks into self-refresh, and the boot flash stays. -/
def Obligations.ResetsLoseEveryKeyAndStopAllWork : Prop :=
  ∀ s : State,
    let lost : State → Prop := fun t =>
      t.crypto.ksys = 0 ∧ t.crypto.sessions = [] ∧ t.crypto.identity = none ∧ t.crypto.aliasKey = none ∧
      (∀ k, (partAt t k).key = 0) ∧ (∀ c, mget t.conns c = none) ∧ t.hw.secret = s.hw.secret
    (s.pins.rstN = true → Completes (.coldReset 0) s (fun t =>
      lost t ∧ t.pins = { s.pins with rstN := false, pcieUp := false } ∧ t.life.selfRefresh = true ∧ t.adm = Adm.reset ∧
      t.parts = [] ∧ t.time = State.reset.time ∧ t.eg = Egress.reset ∧ t.hub0 = Hub.reset ∧ t.hub1 = Hub.reset ∧
      (∀ i k, sectorOf t i k = none) ∧ t.fw.slot0 = s.fw.slot0 ∧ t.fw.slot1 = s.fw.slot1 ∧ t.ras.flash = s.ras.flash)) ∧
    (s.pins.auxIn = true → Completes (.coldReset 1) s (fun t =>
      lost t ∧ t.pins = State.reset.pins ∧ t.life.selfRefresh = true ∧ t.adm = Adm.reset)) ∧
    (s.pins.mainOk = true → s.pins.rstN = true → s.life.state ≠ 3 → Completes .mainOkFall s (fun t =>
      lost t ∧ t.life.state = 3 ∧ t.life.wcause = 6 ∧ t.life.selfRefresh = true ∧ t.pins.mainOk = false ∧
      t.pins.mainEn = false ∧ (∀ i k, sectorOf t i k = none) ∧ t.hub0.streams = [] ∧ t.hub1.streams = [] ∧ t.hub0.ctxs = [] ∧
      t.hub1.ctxs = [])) ∧
    (s.pins.tapHot = true → s.pins.rstN = false → ∀ (x : Straps) (b : Boot), Completes (.trstRelease x b) s (fun t =>
      lost t ∧ t.pins = { s.pins with tapHot := false, pcieUp := false } ∧ t.adm = Adm.reset))

/-- R553, R682: any boundary-scan instruction but `BYPASS`, `IDCODE` and `SAMPLE/PRELOAD` clears every key; those three change
nothing. -/
def Obligations.BoundaryScanClearsEveryKey : Prop :=
  ∀ (s : State) (instr : Nat),
    (3 ≤ instr → instr ≤ 7 → Completes (.tapInstructionLoad instr) s (fun t =>
      t.crypto.ksys = 0 ∧ t.crypto.sessions = [] ∧ t.crypto.identity = none ∧ t.crypto.aliasKey = none ∧
      (∀ k, (partAt t k).key = 0) ∧ (∀ c, mget t.conns c = none) ∧ t.pins = { s.pins with tapHot := true })) ∧
    (instr < 3 → exec (.tapInstructionLoad instr) s = .next s)

/-- R545, R547, R634, R644, R656, R657: leaving reset samples the straps, sets `TICK_MODE` by them, and boots: with no slot that
can boot the node is in winter with cause 0x07 and `FAIL` 0x01; with one, and nothing failing, spring completes step 0x08 with the
node's identity derived from its fused secret and the DRBG healthy. `RST_N` rising, a request for spring and `TRST_N` rising do the same.
(That spring is one row is DEDUCED, log 56.) -/
def Obligations.SpringRunsFromReset : Prop :=
  ∀ (s : State) (x : Straps) (b : Boot),
    b.last = 8 → b.hub0Ok = true → b.hub1Ok = true → b.entropyOk = true → b.failing = [] → b.lanes = [] → b.peers = [] →
    let up : Hw → State → Prop := fun h t =>
      t.time.tickMode = strapTickMode h ∧ t.hw.pos = h.pos ∧ t.hw.gsize = h.gsize ∧
      match bootSlot s with
      | none => t.life.state = 3 ∧ t.life.wcause = 7 ∧ t.life.fail = 1
      | some (i, fb) =>
        t.life.state = 0 ∧ t.life.step = 8 ∧ t.fw.running = i ∧ t.fw.fallback = fb ∧ t.crypto.drbgOk = true ∧
        t.life.selfRefresh = false ∧ t.crypto.nodeId = nodeIdOf s.hw.secret ∧ t.crypto.identity = some (identityPair s.hw.secret)
    let strapped : Hw := { s.hw with
      pos := x.pos, gsize := x.gsize, strapFree := x.free, leadSel := x.leadSel, sbAddr := x.sbAddr }
    (s.pins = ⟨true, true, true, true, false, false, false, false, false⟩ → s.life.state = 0 → s.life.fail = 0 → s.parts = [] →
      s.ras.fences = [] → Completes (.resetRelease x b) s (up strapped)) ∧
    (s.pins.rstN = true → s.life.state = 3 → ∀ force, Completes (.lifeReqSpring force b) s (up s.hw)) ∧
    (s.pins.rstN = true → s.pins.tapHot = true → Completes (.trstRelease x b) s (up strapped))

/-- R644: the boot ROM resets the node once when the package has not completed step 0x08, and boots the other slot with
`FALLBACK` set; with none to boot, or at the second time, the node is in winter with cause 0x07 and `FAIL` 0x01. -/
def Obligations.TheBootWatchdogTriesTheOtherSlotOnce : Prop :=
  ∀ (s : State) (b : Boot), s.pins.rstN = true → s.life.state = 0 → s.life.step < 8 → b.last = 1 →
    Completes (.bootWatchdog b) s (fun t =>
      if s.life.tries = 0 ∧ packageOk s (1 - s.fw.running) = true then
        t.fw.running = 1 - s.fw.running ∧ t.fw.fallback = true ∧ t.life.step = 1 ∧ t.life.tries = 1
      else t.life.state = 3 ∧ t.life.wcause = 7 ∧ t.life.fail = 1)

/-- R629, R640, Table 16-4: each request for a lifecycle state that a row of the table allows is placed for the next frame start in
place of an earlier request, an unforced winter until the node is drained; a fatal fault already due stays due; one that no row
allows sets `ERR`. Nothing else changes. At the frame start the state that is due is the node's. -/
def Obligations.LifecycleRequestsFollowTheTable : Prop :=
  ∀ (s : State) (force : Bool), awake s = true →
    let asked := { s.life with force := force }
    let refused := { s with life := { asked with err := true } }
    let fatalDue := ∃ cause, s.life.due = some (3, cause) ∧ 3 ≤ cause
    let placed : Nat → Nat → State := fun st cause => { s with life := { asked with due := some (st, cause), pendWinter := false } }
    (s.life.state = 2 ∨ (s.life.state = 0 ∧ summerOk s = true) →
      (¬ fatalDue → exec (.lifeReqSummer force) s = .next (placed 1 0)) ∧
      (fatalDue → exec (.lifeReqSummer force) s = .next { s with life := asked })) ∧
    (s.life.state ≠ 2 → (s.life.state = 0 → summerOk s = false) → exec (.lifeReqSummer force) s = .next refused) ∧
    (s.life.state = 1 →
      (¬ fatalDue → exec (.lifeReqAutumn force) s = .next (placed 2 0)) ∧
      (fatalDue → exec (.lifeReqAutumn force) s = .next { s with life := asked })) ∧
    (s.life.state ≠ 1 → exec (.lifeReqAutumn force) s = .next refused) ∧
    (force = true → s.life.state = 1 ∨ s.life.state = 2 →
      (¬ fatalDue → exec (.lifeReqWinter force) s = .next (placed 3 2)) ∧
      (fatalDue → exec (.lifeReqWinter force) s = .next { s with life := asked })) ∧
    (force = false → s.life.state = 2 → isRoot s = false → isParent s = false →
      (¬ fatalDue → exec (.lifeReqWinter force) s = .next { s with life := { asked with pendWinter := true, due := none } }) ∧
      (fatalDue → exec (.lifeReqWinter force) s = .next { s with life := { asked with pendWinter := true } })) ∧
    (s.life.state ≠ 1 → s.life.state ≠ 2 → exec (.lifeReqWinter force) s = .next refused) ∧
    (force = false → s.life.state = 1 ∨ isRoot s = true ∨ isParent s = true → exec (.lifeReqWinter force) s = .next refused) ∧
    (s.life.entering = false → s.time.left = 0 →
      (∀ d, s.life.due = some d → Completes .frameStart s (fun t => t.life.state = d.1 ∧ t.life.due = none ∧
        t.life.entering = decide (d.1 = 3) ∧ (d.1 = 3 → t.life.wcause = d.2))) ∧
      (s.life.due = none → s.life.pendWinter = false → Completes .frameStart s (fun t => t.life = s.life)))

/-- Table 16-5, R712: each fatal fault places winter with its cause at the next frame start; nothing else changes. -/
def Obligations.FatalFaultsPlaceWinter : Prop :=
  ∀ s : State, awake s = true → s.life.state ≠ 3 → (∀ cause, s.life.due = some (3, cause) → cause < 3) →
    let placed : Nat → State := fun cause => { s with life := { s.life with due := some (3, cause) } }
    exec .hub0LogicFault s = .next (placed 3) ∧
    (5 ≤ s.life.step → s.crypto.drbgOk = false → exec .entropyFailTimeout s = .next (placed 4)) ∧
    (8 ≤ s.life.step → (∀ p, p < 20 → (portAt s p).up = false) → exec .allLinksDownTimeout s = .next (placed 5)) ∧
    (s.pins.mainOk = true → exec .vinMainOutOfRange s = .next (placed 6))

/-- R632: at the entry into winter every partition is free, no connection stays but the management, parent and child ones, a unit in
a cascade has left it, and the stacks are in self-refresh. R659: a position not confirmed within 1 s of step 0x08 sets `ERR` to 0x5, when it is 0. -/
def Obligations.WinterEntryEndsEveryPartition : Prop :=
  ∀ s : State,
    (s.life.entering = true → Completes .winterEntry s (fun t =>
      (∀ k, (partAt t k).state = 0) ∧
      (∀ c, (mget t.conns c).isSome = ((mget s.conns c).isSome && (keptConns s).contains c)) ∧
      (s.hw.variant = 0 → s.oboe.casc = true → s.hw.pos ≤ s.hw.gsize → t.oboe.en = false) ∧ t.life.selfRefresh = true ∧ t.life.entering = false ∧ t.life.state = s.life.state ∧
      Only (touches .winterEntry) s t)) ∧
    (s.life.step = 8 → 0 < s.hw.gsize → s.hw.boardErr = 0 → s.hw.peers ≠ 2 ^ (s.hw.gsize + 1) - 1 →
      exec .boardPeerTimeout s = .next { s with hw := { s.hw with boardErr := 5 } })

/-- R552: a failed health test clears `DRBG_OK` and raises `EV_ENTROPY_FAIL`, and from then on a reset's new key waits; a reseed
sets `DRBG_OK`, and every partition whose reset waited has a key drawn since. Nothing else changes. -/
def Obligations.AFailedHealthTestStopsEveryDraw : Prop :=
  ∀ s : State, s.pins.rstN = true → 5 ≤ s.life.step →
    (∀ test, Completes (.entropyHealthFail test) s (fun t =>
      t.crypto = { s.crypto with drbgOk := false } ∧ t.ras = logRecord s.ras ⟨0x0B01, 2, 0, s.time.frame, 0, test⟩ ∧
      Only (raises ++ [.cryptoRegs]) s t ∧
      (∀ k, partAt (drawKey t k) k = { partAt s k with key := 0, waitDraw := true }))) ∧
    (s.crypto.drbgOk = false → Completes .drbgReseed s (fun t =>
      t.crypto.drbgOk = true ∧ Only [.cryptoRegs, .keys, .parts, .partRegs] s t ∧
      (∀ k, (partAt s k).waitDraw = true →
        (partAt t k).waitDraw = false ∧ s.crypto.draws < (partAt t k).key ∧ (partAt t k).key ≤ t.crypto.draws) ∧
      (∀ k, (∀ e ∈ s.parts, e.1 = k → e.2.waitDraw = false) → partAt t k = partAt s k)))

/-- R548, R549, R573: a session opens unless four are open, and one whose requester authenticates itself opens only once the
owner anchor is written, and to the owner alone, signed with the key of its certificate slot; measurements are reported over an open
session or outside one, and signed with the alias key when the request carries a nonce. Only the draws, the sessions and the responses change. (The response codes are PRESUMED, log 40.) -/
def Obligations.SpdmSessionsAreForTheOwner : Prop :=
  ∀ s : State, spdmServed s = true → spdmDraws s = true →
    let n := s.crypto.draws + 1
    let answered : SpdmRsp → State := fun r => { s with out := { s.out with spdm := s.out.spdm ++ [r] } }
    (∀ (signer : Nat) (requester : Option Nat), signer < 2 →
      (4 ≤ s.crypto.sessions.length → exec (.spdmKeyExchange signer requester) s = .next (answered ⟨0x7F, 0x0A, [], []⟩)) ∧
      (s.crypto.sessions.length < 4 → requester ≠ none → (s.crypto.ownerSet = false ∨ requester ≠ some s.crypto.ownerDigest) →
        exec (.spdmKeyExchange signer requester) s = .next (answered ⟨0x7F, 0x06, [], []⟩)) ∧
      (s.crypto.sessions.length < 4 → (requester = none ∨ (s.crypto.ownerSet = true ∧ requester = some s.crypto.ownerDigest)) →
        Completes (.spdmKeyExchange signer requester) s (fun t =>
          t.crypto.draws = n ∧ t.crypto.sessions.length = s.crypto.sessions.length + 1 ∧
          (∃ id, id < 4 ∧ mget s.crypto.sessions id = none ∧ mget t.crypto.sessions id = some ⟨signer, requester.isSome⟩ ∧
            t.out.spdm = s.out.spdm ++
              [⟨0x64, id, [], signWith (slotKey s signer) (Config.spdmTranscript n) (Config.drawBytes n 48)⟩]) ∧
          Only [.keys, .spdm] s t))) ∧
    (∀ (session index : Nat) (nonce : Option Nat), (4 ≤ session ∨ (mget s.crypto.sessions session).isSome = true) →
      ∀ b, measureBlock s index = some b → Completes (.spdmGetMeasurements session index nonce) s (fun t =>
        (∃ sig, t.out.spdm = s.out.spdm ++ [⟨0x60, session, [b], sig⟩] ∧ (nonce = none → sig = []) ∧
          (∀ v, nonce = some v → sig = signWith s.crypto.aliasKey (sha384 (b.2 ++ leBytes 32 v ++ (Config.drawBytes n 80).take 32))
            ((Config.drawBytes n 80).drop 32))) ∧
        t.crypto = { s.crypto with draws := n } ∧ Only [.keys, .spdm] s t))

/-- R573, R574: the owner anchor is written once, over a session the node has authenticated with its identity key, while
`OWNER_SET` is 0, as it is at first; until then no requester opens a session as itself, and no write through any path changes an
anchor register. Only the service endpoint and the owner session write those and `CRYPTO.CTL`, and while `LOCK` is set neither does. -/
def Obligations.AnchorsFollowTheOwner : Prop :=
  State.reset.crypto.ownerSet = false ∧
  ∀ s : State,
    (∀ session digest x, mget s.crypto.sessions session = some x →
      (x.signer = 0 → s.crypto.ownerSet = false →
        exec (.ownerAnchorWrite session digest) s =
          .next { s with crypto := { s.crypto with ownerSet := true, ownerDigest := digest } }) ∧
      (s.crypto.ownerSet = true ∨ x.signer ≠ 0 → exec (.ownerAnchorWrite session digest) s = .next s)) ∧
    (∀ session digest, mget s.crypto.sessions session = none → exec (.ownerAnchorWrite session digest) s = .next s) ∧
    (s.crypto.ownerSet = false → ∀ signer d t, exec (.spdmKeyExchange signer (some d)) s = .next t →
      t.crypto.sessions = s.crypto.sessions) ∧
    (∀ path addr value, 0x40400 ≤ addr → addr < 0x40E00 → s.crypto.ownerSet = false ∨ s.crypto.lock = true →
      Completes (.registerWrite path addr value) s (fun t => t.crypto = s.crypto ∧ Only [.unsupported] s t)) ∧
    (∀ path value, s.crypto.lock = true →
      Completes (.registerWrite path 0x40000 value) s (fun t => t.crypto = s.crypto ∧ Only [.unsupported] s t)) ∧
    (∀ path addr value, 2 ≤ path → exec (.registerWrite path addr value) s = .next s) ∧
    (∀ path value, path < 2 → pathOpen s path = true → s.crypto.lock = false →
      exec (.registerWrite path 0x40000 ⟨8, value⟩) s = .next { s with crypto := { s.crypto with
        evCoarse := bits value 3 2, svcWr := bit value 1, lock := bit value 0 } })

/-- R5, R7, R687, Table 0-4: what a write does, by access type, over the service endpoint. `RO` registers and addresses of no
register ignore it; `RW` registers read back the fields written; a 1 clears a `W1C` bit; a write narrower than a register, or to an
address that is in no block or not 8-aligned, ends as an unsupported request and changes no register. -/
def Obligations.RegisterWritesFollowTheAccessTypes : Prop :=
  ∀ (s : State) (v : Nat), pathOpen s 0 = true →
    let reads : State → Nat → Nat → Prop := fun t a x => readReg t a = some (t, x)
    (∀ a ∈ [0x00000, 0x10, 0x20, 0x10010, 0x10018, 0x20010, 0x20018, 0x30000, 0x30018, 0x30020, 0x30040, 0x40008, 0x40010, 0x50008,
        0x60018, 0x70018, 0x70108, 0x78000, 0x80000, 0x100008, 0x1000000, 0x1000010, 0x1001000, 0x1002000, 0x4000010, 0x4000200,
        0x4400000, 0x8000000, 0x8000028, 0x8000100, 0x8000300, 0x8000380],
      exec (.registerWrite 0 a ⟨8, v⟩) s = .next s) ∧
    (∀ a n, n ≠ 8 ∨ regAt a = none → exec (.registerWrite 0 a ⟨n, v⟩) s =
      .next { s with out := { s.out with unsupported := s.out.unsupported ++ [a] } }) ∧
    Completes (.registerWrite 0 0x20000 ⟨8, v⟩) s (fun t => reads t 0x20000
      (bits v 47 32 * 2 ^ 32 + bits v 31 16 * 2 ^ 16 + bits v 7 0) ∧ Only [.energy] s t) ∧
    Completes (.registerWrite 0 0x30010 ⟨8, v⟩) s (fun t => reads t 0x30010 (max 16 (bits v 31 16) * 2 ^ 16 + bits v 0 0) ∧
      Only [.bgtest] s t) ∧
    Completes (.registerWrite 0 0x60000 ⟨8, v⟩) s (fun t => reads t 0x60000
      (max 8 (bits v 51 48) * 2 ^ 48 + bits v 47 0) ∧ Only [.egress] s t) ∧
    Completes (.registerWrite 0 0x18 ⟨8, v⟩) s (fun t => (∀ c, c < 16 → bit t.irq.pend c = (bit s.irq.pend c && !bit v (16 + c))) ∧
      t.irq.en = bits v 15 0 ∧ Only [.irq] s t) ∧
    Completes (.registerWrite 0 0x10008 ⟨8, v⟩) s (fun t => t.time = { s.time with lost := s.time.lost && !bit v 2 } ∧
      Only [.sync] s t) ∧
    (∀ k, k < 128 → (partAt s k).state ≠ 0 → Completes (.registerWrite 0 (0x8000008 + 0x10000 * k) ⟨8, v⟩) s (fun t =>
      reads t (0x8000008 + 0x10000 * k) (bits v 16 16 * 2 ^ 16 + bits v 15 8 * 2 ^ 8 + bits v 7 0) ∧ Only [.parts, .partRegs] s t))

/-- R688: a write of a register of a free partition is ignored and counted, and its reads return reset values; R692: the count
saturates at 65,535 and keeps the last address. -/
def Obligations.AFreePartitionsRegistersAreIgnored : Prop :=
  ∀ (s : State) (path k off v : Nat), path < 2 → pathOpen s path = true → k < 128 → (partAt s k).state = 0 → partRegKind off = some true →
    let a := 0x8000000 + 0x10000 * k + off
    off < 0x10000 →
    exec (.registerWrite path a ⟨8, v⟩) s =
      .next { s with irq := { s.irq with ignCount := min 65535 (s.irq.ignCount + 1), ignAddr := a } } ∧
    readReg s a = some (s, readPart { s with parts := [] } k off)

/-- R283, R544, R569, R674, R693, R716: the rows of one register or sample. A read of `CORE_FAULT` clears it; a write of 1 to
`METER_SNAP` asks for a snapshot; a write of `CRYPTO.UTC` sets `SET`; the sideband answers an alert with the node's address while
records are unread; `SBACK` moves forward, never past the next record; a hub above its power limit is reported. -/
def Obligations.SingleRegisterRows : Prop :=
  ∀ s : State,
    (∀ n, n < stackCount s → Completes (.coreFaultRead n) s (fun t =>
      stackAt t n = { stackAt s n with coreFault := 0 } ∧ (∀ m, m ≠ n → stackAt t m = stackAt s m) ∧ Only [.dramStacks] s t)) ∧
    (∀ k v, k < 128 → (partAt s k).state ≠ 0 → bit v 0 = true → Completes (.meterSnap k v) s (fun t =>
      partAt t k = { partAt s k with snapWanted := true } ∧ (∀ j, j ≠ k → partAt t j = partAt s j) ∧ Only [.parts] s t)) ∧
    (∀ v path, path < 2 → pathOpen s path = true →
      exec (.utcWrite v path) s =
        .next { s with crypto := { s.crypto with utcSet := true, utcSecs := bits v 62 0, utcNs := 0 } }) ∧
    (s.pins.auxIn = true → s.ras.sback < s.ras.written →
      exec .smbusAlertResponse s = .next { s with out := { s.out with sideband := s.out.sideband ++ [0x4C + s.hw.sbAddr] } }) ∧
    (∀ v, awake s = true → s.ras.sback ≤ s.ras.written → Completes (.logSbackWrite v) s (fun t =>
      t.ras.sback = min (s.ras.sback + (bits v 11 0 + 4096 - s.ras.sback % 4096) % 4096) s.ras.written ∧
      t.ras.sbLost = (s.ras.sbLost && !bit v 12) ∧ Only [.log] s t)) ∧
    (∀ hub watts, awake s = true → hub = 0 ∨ (hub = 1 ∧ s.hw.variant ≠ 2) →
      (if s.hw.variant = 2 then 1150 else 1100) < watts → Completes (.powerLimitSample hub watts) s (fun t =>
        t.ras = logRecord s.ras ⟨0x0201, 2, 0, s.time.frame, hub, watts⟩ ∧ Only raises s t))

/-- R642, R643: staging checks the inactive slot and changes `STAGED`, `STAGED_VER` and `STAGE_ERR` alone, a package that fails a
check leaving none staged (Table 16-10); committing raises
`SVN_FLOOR` to the running package's `SVN` and never lowers it, and is ignored while `FALLBACK` is 1; and no package below
`SVN_FLOOR` boots.
(Each clause holds whatever signatures verify: the check is an opaque constant.) -/
def Obligations.StagingAndCommittingFirmware : Prop :=
  ∀ s : State, awake s = true →
    (∀ i b, bootSlot s = some (i, b) → s.fw.svnFloor ≤ leNat (bread (fwSlot s i) 8 2)) ∧
    (packageErr s (1 - s.fw.running) = 0 →
      exec .fwStage s = .next { s with fw := { s.fw with
        staged := true, stagedVer := leNat (bread (fwSlot s (1 - s.fw.running)) 4 4), stageErr := 0 } }) ∧
    (packageErr s (1 - s.fw.running) ≠ 0 →
      exec .fwStage s = .next { s with fw := { s.fw with
        staged := false, stagedVer := 0, stageErr := packageErr s (1 - s.fw.running) } }) ∧
    exec .fwCommit s = .next { s with fw := { s.fw with
      svnFloor := if s.fw.fallback then s.fw.svnFloor else max s.fw.svnFloor (leNat (bread (fwSlot s s.fw.running) 8 2)) } }

/-- R615, Table 15-13: a request for a partition that is not free is refused at once when its target is not the partition's, or
is out of service; a write while a request is pending or running changes nothing. -/
def Obligations.MaintenanceRequestsAreRefusedAtOnce : Prop :=
  ∀ (s : State) (k v path : Nat), k < 128 → (partAt s k).state ≠ 0 → bit v 36 = true →
    let kind := bits v 34 32
    let row : Option Instr := if kind = 0 then some (.maintSliceTest k v path) else if kind = 1 then some (.maintCoreTest k v path)
      else if kind = 2 then some (.maintStackRecal k v path) else if kind = 3 then some (.maintRowGroupTest k v path) else none
    ∀ i, row = some i →
      (mrBusy (partAt s k) = true → exec i s = .next s) ∧
      (mrBusy (partAt s k) = false → mrTargetOk s k kind (bits v 18 0) (bits v 31 19) = false → Completes i s (fun t =>
        mrStatus (partAt t k) = 5 ∧ bit (partAt t k).maintReq.toNat 36 = false ∧ (∀ j, j ≠ k → partAt t j = partAt s j) ∧
        Only [.parts] s t))

/-- R614–R617: what each request of a partition starts, when its target is the partition's and in service. A slice test takes
its slice out from a frame not yet admitted; a logical core test binds a spare and puts the home core in quarantine; a stack
recalibration merges slots or takes 16 of them; a row-group test is a job of the next open frame. -/
def Obligations.MaintenanceRequestsStart : Prop :=
  ∀ (s : State) (k v path : Nat), k < 128 → (partAt s k).state ≠ 0 → bit v 36 = true → mrBusy (partAt s k) = false →
    let kind := bits v 34 32
    let target := bits v 18 0
    mrTargetOk s k kind target (bits v 31 19) = true →
    (kind = 0 → Completes (.maintSliceTest k v path) s (fun t =>
      mrStatus (partAt t k) = 1 ∧ ∃ q ∈ t.ras.quar, q.unit = .slice target ∧ q.requested = some k ∧ s.adm.closed < q.start)) ∧
    (kind = 1 → ∀ p, freeSpare (spareAt s (coreStack target) (coreGroup target)) = some p →
      Completes (.maintCoreTest k v path) s (fun t =>
        mrStatus (partAt t k) = 2 ∧ boundSpare (spareAt t (coreStack target) (coreGroup target)) (target % 48) = some p ∧
        ∃ q ∈ t.ras.quar, q.unit = .core (coreStack target) (coreGroup target) (target % 48) ∧ q.requested = some k)) ∧
    (kind = 2 → Completes (.maintStackRecal k v path) s (fun t =>
      mrStatus (partAt t k) = 2 ∧ (bit v 35 = false → (partAt t k).maintLeft = 16) ∧
      (bit v 35 = true → ∀ r ∈ (stackAt t target).recal, r ∈ (stackAt s target).recal ∨
        (r.2 = k ∧ r.1 % 16 = 15 ∧ s.adm.closed < frameOf s.time r.1)) ∧ Only [.parts, .dramStacks] s t)) ∧
    (kind = 3 → Completes (.maintRowGroupTest k v path) s (fun t =>
      mrStatus (partAt t k) = 2 ∧ (∃ q ∈ t.ras.quar, q.unit = .rowGroup target (bits v 31 19) ∧ q.requested = some k) ∧
      (∃ e ∈ t.adm.jobs, e.2.kind = .rowTest ∧ e.2.slice = target ∧ e.2.page = bits v 31 19 ∧ s.adm.closed < e.2.target) ∧
      Only [.parts, .units, .jobs] s t))

/-- R698, R702, R704: an access list of register reads from the service host runs its entries in order; the response holds 8
bytes for each, `DONE` counts them all, and at completion `STATE` is done, `GO` clears and `PEND` bit 15 is set. -/
def Obligations.AnAccessListReadsItsRegisters : Prop :=
  ∀ (s : State) (tag : Nat) (addrs : List Nat), s.pins.rstN = true → 2 ≤ s.life.step → s.mbox.go = true → s.mbox.state ≠ 1 →
    tag < 2 ^ 32 → 1 ≤ addrs.length → addrs.length ≤ 1024 →
    (∀ a ∈ addrs, a < 2 ^ 32 ∧ (regAt a).isSome = true ∧ ∀ n o, regAt a ≠ some (.stack n, o)) →
    bread s.mbox.req 0 s.mbox.reqLen = readList tag addrs →
    let busy := { s with mbox := { s.mbox with state := 1 } }
    Completes (.mboxAccessList .host) s (fun t =>
      t.mbox = { s.mbox with state := 2, go := false, rspLen := 16 + 8 * addrs.length,
                             rsp := mboxReply 2 stOK addrs.length tag (addrs.flatMap (fun a =>
                               leBytes 8 (((readReg busy a).map (fun r => r.2)).getD 0))) } ∧
      t.irq = raisePend s.irq 15 ∧ Only [.mbox, .irq] s t)

/-- R641, R700, R701, Table 18-15: a staging write stores its bytes at `OFFSET`, a firmware write stores them in the inactive
slot and clears `STAGED`, each within its area; a request for `PART_CTL` is checked as a command the mailbox delivers; and an
owner session's request for either of the service host's own operations is refused.
(What an owner session may ask and when the mailbox is served are DEDUCED, log 51.) -/
def Obligations.MailboxWritesAndCommands : Prop :=
  ∀ s : State, s.pins.rstN = true → 2 ≤ s.life.step →
    let reply : Nat → Nat → Nat → Mbox → State → Prop := fun op st tag m t =>
      t.mbox = { m with state := 2, go := false, rspLen := 16, rsp := mboxReply op st 0 tag [] } ∧ t.irq = raisePend s.irq 15
    (∀ req, bread s.mbox.req 0 s.mbox.reqLen = req → s.mbox.go = true → s.mbox.state ≠ 1 → mbHeaderOk req = true →
      (mbOp req = 3 → mbOffset req + mbCount req ≤ 1048576 → Completes (.mboxStagingWrite .host) s (fun t =>
        reply 3 stOK (mbTag req) { s.mbox with staging := bwrite s.mbox.staging (mbOffset req) (mbBody req) } t ∧
        Only [.mbox, .irq] s t)) ∧
      (mbOp req = 4 → mbOffset req + mbCount req ≤ 33554432 → Completes (.mboxFirmwareWrite .host) s (fun t =>
        reply 4 stOK (mbTag req) s.mbox t ∧ t.fw.staged = false ∧ (s.fw.running < 2 →
          fwSlot t (1 - s.fw.running) = bwrite (fwSlot s (1 - s.fw.running)) (mbOffset req) (mbBody req) ∧
          fwSlot t s.fw.running = fwSlot s s.fw.running) ∧ Only [.mbox, .irq, .fwSlots, .fwRun] s t)) ∧
      (mbOp req = 3 → 1048576 < mbOffset req + mbCount req → Completes (.mboxStagingWrite .host) s (fun t =>
        reply 3 stMALFORMED (mbTag req) s.mbox t ∧ Only [.mbox, .irq] s t)) ∧
      (mbOp req = 1 → mbStaged req = false → 64 ≤ (mbBody req).length → (parseHdr (mbBody req)).opcode = opPART →
        exec (.mboxPartCtl .host) s = .next (acceptBody { s with mbox := { s.mbox with state := 1 } }
          ⟨mailboxConn, 0, 0, 0, 0, false, false, none, none⟩ (mbBody req)))) ∧
    (∀ session x req, mget s.crypto.sessions session = some x → x.owner = true → mbHeaderOk req = true → mbOp req = 1 ∨ mbOp req = 3 →
      exec (if mbOp req = 1 then .mboxPartCtl (.owner session req) else .mboxStagingWrite (.owner session req)) s =
        .next { s with mbox := { s.mbox with
          owner := s.mbox.owner ++ [(session, mboxReply (mbOp req) stMALFORMED 0 (mbTag req) [])] } })

/-- R706, R707: a table read that waits takes one grant of its slice, which admission leaves unreserved in a base interval 0
mod 16; the object's bytes enter the response, and the list that it ends is answered. A slice out of service fails it with
`FENCED`. -/
def Obligations.ATableReadTakesAGrant : Prop :=
  ∀ (s : State) (i : Nat) (w : TableWait), tableWait s i = some w → w.path < 2 → w.rest.length = 16 →
    let answered : Bytes → State → Prop := fun rsp t =>
      if w.path = 0 then t.mbox.rsp = rsp ∧ t.mbox.state = 2 ∧ t.mbox.go = false
      else t.mbox.owner = s.mbox.owner ++ [(w.session, rsp)]
    (∀ b, sliceOut s i s.time.frame = false → s.time.bint % 16 = 0 → (sliceAt s i).grants < grantLimit s.time →
      readSliceTable (asOfFrame s) w.table i w.value = .ok b → Completes (.tableReadGrant i) s (fun t =>
        sliceAt t i = { sliceAt s i with grants := (sliceAt s i).grants + 1 } ∧
        answered (mboxReply 2 stOK (w.done + 1) w.tag (w.out ++ b)) t ∧
        t.mbox.waits = s.mbox.waits.erase w ∧ Only [.mbox, .irq, .slices] s t)) ∧
    (sliceOut s i s.time.frame = true → Completes (.tableReadGrant i) s (fun t =>
      answered (mboxReply 2 stFENCED w.done w.tag w.out) t ∧ t.mbox.waits = s.mbox.waits.erase w ∧ Only [.mbox, .irq] s t))

/-- R77, R169–R172, R328, R385–R387, R541, R542: the writers complete with `OK` in their completion frame with the positions they
write, and their streams' `LENGTH` grows from the frame after. An `ACCEPT` releases its context and a `FLUSH` whose range has no
dirty page ends at once, another waits. -/
def Obligations.WritersShowTheirRowsFromTheFrameAfter : Prop :=
  ∀ (s : State) (cid : Nat) (c : Cmd), replies s cid = true →
    let cf := c.planD.cframe
    let v := viewAt s c.planD.start
    let named := namedStreams v c.hdr
    (actable s cid opAPPEND = some c → ∃ filled, Ends (.append cid) s cid (outcome stOK 0 cf c.hdr.npos filled) (fun t =>
      ∀ w ∈ appendRows named c.hdr.pos c.hdr.npos c.payload, dueAt t (cf + 1) cid (.addLength w.h w.rows.length))) ∧
    (actable s cid opACCEPT = some c →
      (∀ d, findCtx s c = .error d → Ends (.accept cid) s cid (outcome stCTXLOST d cf 0 0) (fun _ => True)) ∧
      (∀ hub slot x, findCtx s c = .ok (hub, slot, x) → hub < 2 →
        ∃ filled, Ends (.accept cid) s cid (outcome stOK 0 cf c.hdr.acount filled) (fun t =>
          (hubAt t hub).ctxs = mdel (hubAt s hub).ctxs slot ∧
          (c.hdr.acount ≠ 0 → ∀ w ∈ acceptRows v x ((c.payload.take c.hdr.acount).map (fun b => b.toNat)),
            dueAt t (cf + 1) cid (.addLength w.h w.rows.length))))) ∧
    (∀ ds, dirtyPages v c = some ds →
      (actable s cid opWRITE = some c → ∃ full, Ends (.write cid) s cid (outcome stOK 0 cf c.hdr.npos full) (fun t =>
        ∀ e ∈ named, dueAt t (cf + 1) cid (.addLength e.2.1 c.hdr.npos))) ∧
      (actable s cid opPUSH = some c → pushState v c = none →
        let positions := 64 * (c.hdr.npage - 1) + c.hdr.lastRows
        ∃ full, Ends (.pushLayer cid) s cid (outcome stOK 0 cf positions full) (fun t =>
          ∀ e ∈ named, dueAt t (cf + 1) cid (.addLength e.2.1 positions)))) ∧
    (∀ h x data, actable s cid opPUSH = some c → pushState v c = some (h, x, data) →
      Ends (.pushLayer cid) s cid (outcome stOK 0 cf c.hdr.pos 0) (fun t =>
        ∃ versions, dueAt t (cf + 1) cid (.stateSet h c.hdr.pos versions))) ∧
    (actable s cid opFLUSH = some c →
      (flushPages s v c.planD.start c.hdr = [] → Ends (.flush cid) s cid (outcome stOK 0 c.planD.start 0 0) (fun _ => True)) ∧
      (flushPages s v c.planD.start c.hdr ≠ [] → Completes (.flush cid) s (fun t =>
        (∀ k, ∃ n, (cmdAt t cid).map (fun c => (c.st, c.aux)) = some (.waiting, n) ∧
          (k ∈ n ↔ ∃ e ∈ flushPages s v c.planD.start c.hdr, k = t0Key e.1 e.2)) ∧ Only (touches (.flush cid)) s t)))

/-- R25, R122–R140, R157–R161, R191–R198, R599: an attending command's row lays out its work on every slice that holds a page of it,
counts the pages it attends and omits, and leaves every stored sector as it is; the first stream with a page whose summary cannot
be read ends it with `INTEGRITY`, and the detail of a `VERIFY` whose context lives is its handle (R162). A prefiltering `SELECT`
waits for its search window.
(The detail of a stopped `VERIFY` is DEDUCED, log 133.) -/
def Obligations.AttendingCommandsLayOutTheirWork : Prop :=
  ∀ (s : State) (cid : Nat) (c : Cmd) (row : Nat × Instr),
    row ∈ [(opATTEND, Instr.attend cid), (opVERIFY, .verify cid), (opSELECT, .select cid)] → actable s cid row.1 = some c →
    (row.1 = opSELECT → searchRun s cid = false → exec row.2 s = .next s) ∧
    ((row.1 = opSELECT → searchRun s cid = true) →
    let v := viewAt s c.planD.start
    (∀ picks : List (AttStream × List Pick),
      picks.map (fun e => e.1) = attStreams v c → (∀ e ∈ picks, pickStream s v cid c e.1 = .ok e.2) →
      Completes row.2 s (fun t =>
        (∃ d, cmdAt t cid = some d ∧ d.st = .acted ∧ d.hdr = c.hdr ∧ d.result = none ∧
          d.omitted = (picks.map (fun e => (e.2.filter (fun k => k.us.isSome)).length)).sum ∧
          d.attended = (picks.map (fun e => (e.2.filter (fun k => k.us.isNone)).length)).sum) ∧
        (∀ e ∈ picks, ∀ k ∈ e.2, k.p.ent.openT0 = false →
          mget (sliceAt t k.p.slice).work cid = some (sliceTasks (partAt v c.hdr.part).solstice v c picks k.p.slice)) ∧
        SameSectors s t ∧ Only (touches row.2) s t)) ∧
    (∀ pre a rest p, attStreams v c = pre ++ a :: rest → (∀ b ∈ pre, ∃ ks, pickStream s v cid c b = .ok ks) →
      pickStream s v cid c a = .error p → replies s cid = true →
      let o := outcome stINTEGRITY (lossDetail false a.kvh 0x08 p) (endFrame s cid) 0 0
      Ends row.2 s cid (if row.1 = opVERIFY then keepHandle s c o else o) (fun t => SameSectors s t)))

/-- R121, R180–R185: a `STATE_STEP` lays out the work of each state it names on the state's slice; with `COMMIT` each state
changes from the frame after its completion frame, under versions drawn now, and without it nothing is due. -/
def Obligations.AStateStepCommitsFromTheFrameAfter : Prop :=
  ∀ (s : State) (cid : Nat) (c : Cmd), actable s cid opSTEP = some c →
    let v := viewAt s c.planD.start
    Completes (.stateStep cid) s (fun t =>
      phaseOf t cid = some .acted ∧
      (∀ e ∈ namedStreams v c.hdr, (c.hdr.commit = true →
          ∃ versions, dueAt t (c.planD.cframe + 1) cid (.stateStep e.2.1 c.hdr.tok versions)) ∧
        ∃ w ∈ (mget (sliceAt t (homeSlice v e.2.1 0)).states cid).getD [], w.handle = e.2.1 ∧ w.head = e.1 ∧ w.loaded = false) ∧
      (c.hdr.commit = false → t.adm.effs = s.adm.effs) ∧ SameSectors s t ∧ Only (touches (.stateStep cid)) s t)

/-- R80, R102–R104, R177–R180: `STREAM_OPEN` makes the stream the header describes from the frame after its completion frame,
its detail the new handle, its base the hint or the rotor's, which moves past it; opens accepted before it take theirs first. It
completes with `NO_BUDGET` when the hub has no entry left or the state's blocks, which are reserved at once, find no room. R116:
`STREAM_CLOSE` ends each named stream from the frame after. (That an earlier open takes its base first is DEDUCED, log 127.) -/
def Obligations.StreamsOpenAndCloseFromTheFrameAfter : Prop :=
  ∀ (s : State) (cid : Nat) (c : Cmd), replies s cid = true →
    let cf := c.planD.cframe
    let h := c.hdr
    let u := takeBases s cid h.part
    let xs := partList s h.part
    let row : Instr := if h.recurrent then .streamOpenRecurrent cid else .streamOpen cid
    let w := if h.recurrent then 1 else openWidth xs.length h.dWindow h.hintWidth
    let b := c.aux.headD (openBase u h)
    let hm := if h.hintHome = 0 then hubOfSlice (placeOf xs b w 0) else h.hintHome - 1
    let x := newStream (ownPfv s) h h.recurrent b w hm
    let fits := fun idx => h.recurrent = true → openState (acted u cid) (handleOf hm idx) x (placeOf xs b 1 0) ≠ none
    (actable s cid opOPEN = some c →
      ((∀ idx, freeIndex (acted s cid) hm = some idx → ¬ fits idx) →
        Ends row s cid (outcome stNOBUDGET 0 cf 0 0) (fun t => t.adm.effs = s.adm.effs ∧ t.slices = s.slices)) ∧
      (∀ idx, freeIndex (acted s cid) hm = some idx → fits idx →
        Ends row s cid (outcome stOK (handleOf hm idx) cf 0 0) (fun t =>
          t.adm.effs = s.adm.effs ++ [⟨cf + 1, cid, .create (handleOf hm idx) x⟩] ∧
          (partAt t h.part).rotor = (if c.aux = [] then rotorAfter u h else (partAt u h.part).rotor) ∧
          (h.recurrent = false → t.slices = s.slices)))) ∧
    (actable s cid opCLOSE = some c → Ends (.streamClose cid) s cid
      (outcome stOK 0 cf (namedStreams (viewAt s c.planD.start) h).length 0) (fun t =>
        ∀ e ∈ namedStreams (viewAt s c.planD.start) h, dueAt t (cf + 1) cid (.close e.2.1)))

/-- R112–R120, Table 5-14: `FORK` makes a child of each stream of its range from the frame after its completion frame, `DROP`
cuts each at its position then, and each does so for every stream of the range or for none. Forking or dropping a stream at a
page boundary copies no row. -/
def Obligations.ForkAndDropActOnEveryStreamOrNone : Prop :=
  ∀ (s : State) (cid : Nat) (c : Cmd), replies s cid = true →
    let cf := c.planD.cframe
    let named := namedStreams (viewAt s c.planD.start) c.hdr
    let none' : Instr → Prop := fun i => ∃ st d, st ∈ [stNOBUDGET, stINTEGRITY] ∧ Ends i s cid (outcome st d cf 0 0) (fun t =>
      t.adm.effs = s.adm.effs ∧ t.slices = s.slices)
    (actable s cid opFORK = some c →
      ((∃ n, Ends (.fork cid) s cid (outcome stOK 0 cf named.length n) (fun t =>
          ∀ e ∈ named, ∃ hd y, dueAt t (cf + 1) cid (.create hd y) ∧ y.ctx = c.hdr.childCtx ∧ y.kvh = e.2.2.kvh ∧
            (e.2.2.isState = false → y.parent = e.2.1 ∧ y.length = c.hdr.forkP ∧ y.forkPages = c.hdr.forkP / 64))) ∨
        none' (.fork cid)) ∧
      (∀ e idx, named = [e] → e.2.2.isState = false → c.hdr.forkP % 64 = 0 → freeIndex (acted s cid) e.2.2.home = some idx →
        Ends (.fork cid) s cid (outcome stOK 0 cf 1 0) (fun t =>
          t.adm.effs = s.adm.effs ++ [⟨cf + 1, cid, .create (handleOf e.2.2.home idx) (childOf c.hdr e.2.1 e.2.2)⟩]))) ∧
    (actable s cid opDROP = some c →
      ((∃ n, Ends (.drop cid) s cid (outcome stOK 0 cf named.length n) (fun t =>
          ∀ e ∈ named, c.hdr.dropQ ≠ e.2.2.length → ∃ q fill, dueAt t (cf + 1) cid (.dropTo e.2.1 q fill) ∧
            (e.2.2.isState = false → q = c.hdr.dropQ))) ∨ none' (.drop cid)) ∧
      (∀ e, named = [e] → e.2.2.isState = false → c.hdr.dropQ % 64 = 0 → c.hdr.dropQ ≠ e.2.2.length →
        Ends (.drop cid) s cid
          (outcome stOK 0 cf 1 (ownPages (viewAt s c.planD.start) e.2.1 e.2.2 (c.hdr.dropQ / 64))) (fun t =>
          t.adm.effs = s.adm.effs ++ [⟨cf + 1, cid, .dropTo e.2.1 c.hdr.dropQ none⟩])))

/-- R207–R210, R233–R236: indexing a stream makes its index record under a tag, reserves its entries and queues an insert for each
page that lacks one, or completes with `NO_BUDGET` when no tag is free; growing raises the reservation and queues what an
incomplete index lacks. Each waits for its completion frame and its last insert; with both behind it, it completes with the index
complete. A first page whose summary cannot be read ends the command with `INTEGRITY`. Unindexing ends the index from the frame
after the completion frame.
(What COUNT1 and COMPLETE show at a full reservation is DEDUCED, log 94.) -/
def Obligations.IndexCommandsKeepTheirReservations : Prop :=
  ∀ (s : State) (cid : Nat) (c : Cmd) (h : Nat) (x : Stream), actable s cid opINDEX = some c → replies s cid = true →
    let v := viewAt s c.planD.start
    let lack := lackingPages s v h x
    let sumOf := fun (p : PageView) => getSummary s p.slice x p.page p.ent
    let ended : State → Nat → Prop := fun u reserve =>
      (outcomeOf u cid).map (fun o => (o.status, o.cframe, o.count0, o.count1)) = some (stOK, s.time.frame, 0, reserve)
    let queued : State → Nat → Prop := fun u tag => ∀ p ∈ lack, ∀ sum, sumOf p = some sum →
      OboeUpd.insert (hubOfHandle h) tag h p.page p.ent.version (sumSig x.dk sum) sum true cid ∈ u.oboe.updates
    let inForce := c.planD.cframe ≤ s.time.frame ∧ streamAt s h = some x ∧ bulkLeft s cid = false ∧ lack = [] ∧
      lackingPages s s h x = []
    oneStream v c.hdr = some (h, x) →
    (∀ tag, c.hdr.indexOp = 0 → (1 < groupOfCmd s c && !isLead s) = false → freeTag s = none →
      Ends (.indexUpdateIndex cid tag) s cid (outcome stNOBUDGET 0 c.planD.cframe 0 0) (fun u => indexOf u h = indexOf s h)) ∧
    (∀ tag t, c.hdr.indexOp = 0 → (if 1 < groupOfCmd s c && !isLead s then t = tag else freeTag s = some t) →
      (∀ p ∈ lack, sumOf p ≠ none) →
      Completes (.indexUpdateIndex cid tag) s (fun u =>
        (∃ r, indexOf u h = some r ∧ r.stream = h ∧ r.tag = t ∧ r.reserve = c.hdr.reserve ∧ r.count = 0 ∧ r.part = x.part ∧
          (s.time.frame < c.planD.cframe ∨ lack ≠ [] → r.complete = false ∧ phaseOf u cid = some .waiting) ∧
          (inForce → r.complete = true ∧ ended u c.hdr.reserve)) ∧
        queued u t ∧ t ∈ u.oboe.tags ∧ (partAt u x.part).idxReserved = (partAt s x.part).idxReserved + c.hdr.reserve ∧
        Only (touches (.indexUpdateIndex cid tag)) s u)) ∧
    (∀ tag t p rest, c.hdr.indexOp = 0 → (if 1 < groupOfCmd s c && !isLead s then t = tag else freeTag s = some t) →
      lack = p :: rest → sumOf p = none → Completes (.indexUpdateIndex cid tag) s (fun u =>
        (outcomeOf u cid).map (fun o => (o.status, o.detail)) = some (stINTEGRITY, lossDetail false x.kvh 0x08 p.page))) ∧
    (∀ r, indexOf s h = some r →
      (c.hdr.indexOp = 2 → (r.complete = false → ∀ p ∈ lack, sumOf p ≠ none) →
        Completes (.indexUpdateGrow cid) s (fun u =>
          (∃ q, indexOf u h = some q ∧ q.reserve = c.hdr.reserve ∧ q.tag = r.tag ∧ q.count = r.count ∧
            (s.time.frame < c.planD.cframe → q.complete = r.complete ∧ phaseOf u cid = some .waiting) ∧
            (inForce → q.complete = true ∧ ended u c.hdr.reserve)) ∧
          (r.complete = false → queued u r.tag) ∧
          (partAt u x.part).idxReserved = (partAt s x.part).idxReserved + (c.hdr.reserve - r.reserve) ∧
          Only (touches (.indexUpdateGrow cid)) s u)) ∧
      (c.hdr.indexOp = 1 → Ends (.indexUpdateUnindex cid) s cid (outcome stOK 0 c.planD.cframe 0 r.reserve) (fun u =>
        u.adm.effs = s.adm.effs ++ [⟨c.planD.cframe + 1, cid, .indexOff (hubOfHandle h) r.tag⟩])))

/-- R351–R353, R563, R599: `PARK` stages every sealed page of its range, encrypted under the partition's key with the hub's next
nonces, to be parked from the frame after its completion frame, or none when one cannot be read; no stored sector changes.
R354–R356, Table 9-2: `RESTORE` queues the reads of its pages at acceptance once its hub's staging has room; its write phase
returns every staged page when their slices have room and none otherwise, and a page lost on its read ends it with `PAGE_LOST`.
(Which images a restore takes is DEDUCED, log 109; that a fetch waits for staging, log 148.) -/
def Obligations.ParkAndRestoreMoveAllOrNone : Prop :=
  ∀ (s : State) (cid : Nat) (c : Cmd), replies s cid = true →
    let cf := c.planD.cframe
    let v := viewAt s c.planD.start
    (∀ x ps, actable s cid opPARK = some c → parkPages v c.hdr = some (x, ps) → x.home < 2 →
      ((∀ q ∈ ps, ∃ b, loadForm s x q = .ok b) → Ends (.park cid) s cid (outcome stOK 0 cf ps.length 0) (fun t =>
        t.adm.effs = s.adm.effs ++ ps.map (fun q => ⟨cf + 1, cid, .parked q.own q.page⟩) ∧
        (ftlAt t x.home).programs = (ftlAt s x.home).programs ++ ps.map (fun q => (q.own, q.page)) ∧
        (ftlAt t x.home).parkStage = (ftlAt s x.home).parkStage + (ps.map (fun q => 4096 * formChunks x q.ent)).sum ∧
        (hubAt t x.home).parkCtr = (hubAt s x.home).parkCtr + ps.length ∧
        (∀ pre q rest b n, ps = pre ++ q :: rest → loadForm s x q = .ok (b, n) →
          (∀ r ∈ rest, t0Key r.own r.page ≠ t0Key q.own q.page) →
          mget (ftlAt t x.home).images (t0Key q.own q.page) = some (parkImage (partKey s x.part)
            (parkNonce x.home ((hubAt s x.home).parkCtr + pre.length)) q.own q.page q.ent.version x.fmtVer x.part b)) ∧
        SameSectors s t)) ∧
      (∀ pre q rest b, ps = pre ++ q :: rest → (∀ r ∈ pre, ∃ b, loadForm s x r = .ok b) → loadForm s x q = .error b →
        Ends (.park cid) s cid (outcome stINTEGRITY (lossDetail false x.kvh b.1 q.page) (endFrame s cid) 0 0) (fun t =>
          t.adm.effs = s.adm.effs ∧ t.ftl0 = s.ftl0 ∧ t.ftl1 = s.ftl1 ∧ t.slices = s.slices))) ∧
    (cmdAt s cid = some c → c.hdr.opcode = opRESTORE → c.st = .queued → c.result = none →
      let image := fun (q : PageView) => mget (ftlAt s (hubOfHandle q.own)).images (t0Key q.own q.page)
      let ps := ((restorePages (viewAt s s.time.frame) c.hdr).map (fun e => e.2)).filter (fun q => (image q).any (fun m => !m.lost))
      let hub := (ps.head?.map (fun q => hubOfHandle q.own)).getD 0
      let need := (ps.map (fun q => (mget (ftlAt s hub).images (t0Key q.own q.page)).elim 0 parkBytes)).sum
      let next := max c.target (s.adm.closed + 1)
      (8 * 1048576 < need → Ends (.restore cid) s cid (outcome stMALFORMED 0 next 0 0) (fun _ => True)) ∧
      (need ≤ 8 * 1048576 → 8 * 1048576 < restoreUse s hub + need → exec (.restore cid) s = .next s) ∧
      (restoreUse s hub + need ≤ 8 * 1048576 → Completes (.restore cid) s (fun t =>
        phaseOf t cid = some (.fetching ps.length) ∧ (cmdAt t cid).map (fun d => d.target) = some (if ps = [] then next else c.target) ∧
        ftlAt t hub = { ftlAt s hub with reads := (ftlAt s hub).reads ++ ps.map (fun q => (cid, q.own, q.page)) } ∧
        Only [.cmds, .ftl] s t))) ∧
    (∀ hd x, actable s cid opRESTORE = some c → oneStream v c.hdr = some (hd, x) →
      let stage := fun (q : PageView) => mget (ftlAt s (hubOfHandle q.own)).restStage (t0Key q.own q.page)
      let ps := (restorePages v c.hdr).map (fun e => e.2)
      let here := ps.filter (fun q => (stage q).isSome)
      let runs := here.map (fun q => (q.slice,
        if x.isState then q.ent.nchunk + 1 else chunksFor (((stage q).map (fun m => m.coded.length)).getD 0)))
      (runsFit s runs = true → (∀ q ∈ ps, (stage q).isSome = true) →
        Ends (.restoreWritePhase cid) s cid (outcome stOK 0 cf ps.length 0) (fun t =>
          ∀ q ∈ ps, ∃ ver ch n, dueAt t (cf + 1) cid (.restored q.own q.page ver ch n))) ∧
      (∀ pre q rest, runsFit s runs = true → ps = pre ++ q :: rest → (∀ r ∈ pre, (stage r).isSome = true) → stage q = none →
        Ends (.restoreWritePhase cid) s cid
          (outcome stPAGELOST (lossDetail false x.kvh 0x05 q.page) cf here.length (ps.length - here.length)) (fun t =>
          ∀ q ∈ here, ∃ ver ch n, dueAt t (cf + 1) cid (.restored q.own q.page ver ch n))) ∧
      (runsFit s runs = false → Ends (.restoreWritePhase cid) s cid (outcome stNOBUDGET 0 c.planD.start 0 0) (fun t =>
        t.slices = s.slices ∧ t.adm.effs = s.adm.effs)))

/-- R332–R336, R599, Table 9-6: `READ` returns the entries of its pages in order, as they stand at the start of its span, and
changes no stored sector; a state is one entry. A page that cannot be read ends it with `INTEGRITY`, its cause and its page. -/
def Obligations.ReadReturnsItsPagesInOrder : Prop :=
  ∀ (s : State) (cid : Nat) (c : Cmd) (hd : Nat) (x : Stream), actable s cid opREAD = some c → replies s cid = true →
    let cf := c.planD.cframe
    let v := viewAt s c.planD.start
    oneStream v c.hdr = some (hd, x) →
    (x.isState = false → ∀ bodies : List Bytes,
      (rangePages v c.hdr hd x).map (fun q => readPage v x q) = bodies.map (fun b => Except.ok b) →
      Ends (.read cid) s cid ⟨stOK, 0, cf, bodies.length, 0, bodies.flatten, false⟩ (fun t => SameSectors s t)) ∧
    (x.isState = false → ∀ pre q rest b, rangePages v c.hdr hd x = pre ++ q :: rest →
      (∀ r ∈ pre, ∃ e, readPage v x r = .ok e) → readPage v x q = .error b →
      Ends (.read cid) s cid (outcome stINTEGRITY (lossDetail false x.kvh b.1 q.page) (endFrame s cid) 0 0)
        (fun t => SameSectors s t)) ∧
    (x.isState = true → (∀ b, readState v hd x = .ok b →
      Ends (.read cid) s cid ⟨stOK, 0, cf, 1, 0, b, false⟩ (fun t => SameSectors s t)) ∧
      (∀ ch, readState v hd x = .error ch →
        Ends (.read cid) s cid (outcome stINTEGRITY (lossDetail false x.kvh 0x03 0) (endFrame s cid) 0 0) (fun t => SameSectors s t)))

/-- R343–R349: `MIGRATE` makes its stream's migration record, or resumes it, and waits; with `REVERSE` it turns the record
around and abandons the copies in flight. A page of one entry is copied, in the page order, when its slices serve, no other change
of it is under way and the copy fits: it is due in effect after its span. A copy to or from a fenced slice, or one that fails,
halts the record at its page, and the waiting `MIGRATE` completes with the failure.
(The status of a forward MIGRATE that a reverse ends is free, DEDUCED, log 22; what a copy from a fenced slice ends with, log 149.) -/
def Obligations.MigrationFollowsItsRecord : Prop :=
  ∀ (s : State) (h : Nat) (x : Stream),
    (∀ cid c, actable s cid opMIGRATE = some c → oneStream (viewAt s c.planD.start) c.hdr = some (h, x) →
      (c.hdr.reverse = false → Completes (.migrate cid) s (fun t =>
        phaseOf t cid = some .waiting ∧ (∃ m, migOf t h = some m ∧ m.state = 1 ∧ m.cid = cid ∧ m.bg = c.hdr.bg ∧ m.failed = none ∧
          (migOf s h = none → m.stream = h ∧ m.abase = c.hdr.migBase ∧ m.awidth = migTarget s x c.hdr ∧ m.doneTo = x.forkPages ∧
            m.copies = []) ∧
          (∀ m0, migOf s h = some m0 → m.abase = m0.abase ∧ m.awidth = m0.awidth ∧ m.doneTo = m0.doneTo)) ∧
        Only (touches (.migrate cid)) s t)) ∧
      (∀ m0, c.hdr.reverse = true → migOf s h = some m0 → Completes (.migrateReverse cid) s (fun t =>
        phaseOf t cid = some .waiting ∧ (∃ m, migOf t h = some m ∧ m.state = 2 ∧ m.cid = cid ∧ m.doneTo = m0.doneTo ∧
          m.abase = m0.abase ∧ m.awidth = m0.awidth ∧ (streamAt s h = some x → m.copies = [])) ∧
        Only (touches (.migrateReverse cid)) s t))) ∧
    (∀ m p, migOf s h = some m → streamAt s h = some x → nextCopy x m = some p → m.copies.length < 64 → s.adm.stopped = false →
      let ends := copyEnds s x m p
      let es := (entsIn (sliceAt s ends.1) h).filter (fun e => x.isState || e.2.page == p)
      let nd := copyCost x m ends (es.map (fun e => e.2))
      let out := fun i => sliceFenced s i s.time.frame || sliceOut s i s.time.frame
      let noted : Nat → State → Prop := fun cf t => dueAt t (cf + 1) (migOwner h p) (.migCopied h p) ∧
        (migOf t h).map (fun m => m.copies) = some (m.copies ++ [(p, false)]) ∧ Only (touches (.migrationCopy h p)) s t
      (sliceFenced s ends.1 s.time.frame = true ∨ sliceFenced s ends.2 s.time.frame = true →
        Completes (.migrationCopy h p) s (fun t => (migOf t h).map (fun m => (m.state, m.failed)) = some (3, some p))) ∧
      ((if x.isState then stateBusy s h else es.any (fun e => awaitsSeal x p e.2) || pageBusy s h p) = false →
        out ends.1 = false → out ends.2 = false →
        (ends.1 = ends.2 ∨ es = [] → Completes (.migrationCopy h p) s (fun t => noted s.time.frame t ∧ t.slices = s.slices)) ∧
        (∀ pl e u ver, ends.1 ≠ ends.2 → es = [e] → x.isState = false → lenAt s (s.adm.closed + 1) = s.time.len →
          planNeed s (fun _ => true) (migOwner h p) nd (s.adm.closed + 1) = some pl → withinCaps s [] 2 nd pl = true →
          otherFits s (windowSlots s pl.start) nd pl = true →
          copyPage (reserve s nd pl) h x pl.cframe ends p e.2 = some (.ok (u, ver)) →
          Completes (.migrationCopy h p) s (fun t => noted pl.cframe t ∧ t.slices = u.slices)))) ∧
    (∀ m p cause, migOf s h = some m → (p, false) ∈ m.copies → Completes (.migrationCopyFail h p cause) s (fun t =>
      (migOf t h).map (fun m => (m.state, m.failed)) = some (3, some p) ∧
      (∀ c, cmdAt s m.cid = some c → c.st = .waiting → replies s m.cid = true →
        (outcomeOf t m.cid).map (fun o => (o.status, o.detail, o.count0)) =
          some (if cause = 0 then stFENCED else stINTEGRITY, p, m.copied)) ∧
      Only (touches (.migrationCopyFail h p cause)) s t))

/-- R396–R398, R406–R408: `POST_CHAIN` posts an entry or makes an event object within its partition's limits, its detail the
handle, and frees one it names, whose waiters end with `OWNER_LOST`; in another partition, or with a bad image, it is
refused. `ARM` completes at once when the counter has reached its threshold, and waits otherwise. -/
def Obligations.ChainEntriesAndEvents : Prop :=
  ∀ (s : State) (cid : Nat) (c : Cmd), replies s cid = true →
    let n := c.planD.start
    let k := c.hdr.part
    let bad := outcome stMALFORMED (stepDetail 10 0) n 0 0
    (actable s cid opPOST = some c →
      let img := leAt c.payload 0 32
      (c.hdr.postOp = 0 → ceBad img = true → Ends (.postChainPost cid) s cid bad (fun t => t.chains.ents = s.chains.ents)) ∧
      (c.hdr.postOp = 0 → ceBad img = false → (partAt s k).entMax ≤ (partAt s k).entUsed →
        Ends (.postChainPost cid) s cid (outcome stNOBUDGET 0 n 0 0) (fun t => t.chains.ents = s.chains.ents)) ∧
      (∀ i, c.hdr.postOp = 0 → ceBad img = false → (partAt s k).entUsed < (partAt s k).entMax →
        freeSlot s.chains.ents (fun e => e.state == 0) 262144 = some i →
        let g := nextGen 14 ((mget s.chains.ents i).map (fun e => e.gen) |>.getD 0)
        Ends (.postChainPost cid) s cid (outcome stOK (g % 2 ^ 14 * 2 ^ 18 + i % 2 ^ 18) n 0 0) (fun t =>
          mget t.chains.ents i = some ⟨g, k, img, 1⟩ ∧ (∀ j, j ≠ i → mget t.chains.ents j = mget s.chains.ents j) ∧
          (partAt t k).entUsed = (partAt s k).entUsed + 1)) ∧
      (∀ e, c.hdr.postOp = 1 → chainEnt s c.hdr.postHandle = some e →
        (e.part = k → Ends (.postChainFreeEntry cid) s cid (outcome stOK 0 n 0 0) (fun t =>
          chainEnt t c.hdr.postHandle = none ∧ (partAt t k).entUsed = (partAt s k).entUsed - 1)) ∧
        (e.part ≠ k → Ends (.postChainFreeEntry cid) s cid bad (fun t => t.chains.ents = s.chains.ents))) ∧
      (∀ i, c.hdr.postOp = 2 → (partAt s k).evUsed < (partAt s k).evMax → freeSlot s.chains.events (fun e => !e.live) 65536 = some i →
        let g := nextGen 9 ((mget s.chains.events i).map (fun e => e.gen) |>.getD 0)
        Ends (.postChainCreateEvent cid) s cid (outcome stOK (k % 2 ^ 7 * 2 ^ 25 + g % 2 ^ 9 * 2 ^ 16 + i % 2 ^ 16) n 0 0) (fun t =>
          mget t.chains.events i = some ⟨g, k, 0, true⟩ ∧ (partAt t k).evUsed = (partAt s k).evUsed + 1)) ∧
      (∀ e, c.hdr.postOp = 3 → eventObj s c.hdr.postHandle = some e →
        (e.part = k → Ends (.postChainFreeEvent cid) s cid (outcome stOK 0 n 0 0) (fun t =>
          eventObj t c.hdr.postHandle = none ∧ ∀ w ∈ waitersOf s c.hdr.postHandle, cmdAt s w.1 = some w.2 → replies s w.1 = true →
            (outcomeOf t w.1).map (fun o => o.status) = some stOWNERLOST)) ∧
        (e.part ≠ k → Ends (.postChainFreeEvent cid) s cid bad (fun t => t.chains.events = s.chains.events)))) ∧
    (actable s cid opARM = some c → cid < s.adm.nextCid → (c.payload = [] ∨ wholeCmd c.payload ≠ none) →
      (eventObj s c.hdr.armEvent = none → Ends (.arm cid) s cid bad (fun _ => True)) ∧
      (∀ e, eventObj s c.hdr.armEvent = some e →
        (c.hdr.thresh ≤ e.counter → Completes (.arm cid) s (fun t =>
          (outcomeOf t cid).map (fun o => (o.status, o.cframe, o.count0, o.count1)) =
            some (stOK, n, e.counter % 2 ^ 32, e.counter / 2 ^ 32) ∧
          t.adm.nextCid = s.adm.nextCid + (if c.payload = [] then 0 else 1))) ∧
        (e.counter < c.hdr.thresh → waiterCount s < 65536 → Completes (.arm cid) s (fun t =>
          phaseOf t cid = some .waiting ∧ (t.chains = s.chains) ∧ Only [.cmds] s t)) ∧
        (e.counter < c.hdr.thresh → 65536 ≤ waiterCount s →
          Ends (.arm cid) s cid (outcome stNOBUDGET 0 n 0 0) (fun _ => True))))

/-- R376, R377: a `FENCE` with nothing earlier in its queues completes in its first pass, and otherwise waits for the last final
record, counting those it has waited for. R399, R405: in the frame after `CFRAME` a completion fires its entry, whose event
counts, unless the entry accepts success alone and the status is another. -/
def Obligations.FencesAndCompletionTriggers : Prop :=
  ∀ (s : State) (cid : Nat) (c : Cmd),
    (actable s cid opFENCE = some c →
      (fenceWaits s cid c = false → c.aux = [] → replies s cid = true →
        Ends (.fence cid) s cid (outcome stOK 0 c.target 0 0) (fun _ => True)) ∧
      (fenceWaits s cid c = true → Completes (.fence cid) s (fun t => phaseOf t cid = some .waiting ∧ Only [.cmds] s t))) ∧
    (cmdAt s cid = some c → c.hdr.opcode = opFENCE → c.st = .waiting → c.result = none → fenceWaits s cid c = false →
      replies s cid = true →
      Ends (.fenceRelease cid) s cid (outcome stOK 0 (c.aux.getD 1 c.target) (c.aux.getD 0 0) 0) (fun _ => True)) ∧
    (∀ h payload o frame d, mget s.chains.trigs cid = some (h, payload, o, frame, d) → frame ≤ s.time.frame →
      (∀ e ∈ s.chains.trigs, e.1 < cid → s.time.frame < e.2.2.2.2.1) →
      let gone := { s with chains := { s.chains with trigs := mdel s.chains.trigs cid } }
      (acceptsStatus gone h.chain o.status = false → exec (.chainCompletionTrigger cid) s = .next gone) ∧
      (∀ e ev, chainEnt s h.chain = some e → e.state = 1 → e.part = h.part → ceTrig e.image = 1 → ceAct e.image = 3 →
        ceNextEn e.image = false → acceptsStatus gone h.chain o.status = true → eventObj s (ceEvent e.image) = some ev →
        waitersOf s (ceEvent e.image) = [] → Completes (.chainCompletionTrigger cid) s (fun t =>
          eventObj t (ceEvent e.image) = some { ev with counter := min (2 ^ 64 - 1) (ev.counter + ceAdd e.image) } ∧
          (chainEnt t h.chain).map (fun e => e.state) = some (if cePersist e.image then 1 else 2) ∧
          t.chains.trigs = mdel s.chains.trigs cid ∧ Only [.chains] s t)))

/-- R302–R305: `PROG_LOAD` puts its image in the slot from the frame after its completion frame, and `CLEAR` empties it then; an
image takes a place in the program store of each of the partition's dies at once. R412: `QUERY_CAPS` answers the 64 bytes
of Table 10-22 in the frame it is accepted in. -/
def Obligations.ProgramsAndCapabilities : Prop :=
  ∀ (s : State) (cid : Nat) (c : Cmd), replies s cid = true →
    let cf := c.planD.cframe
    (actable s cid opPROG = some c →
      (c.hdr.progClear = false →
        let img := progParse c.hdr.ninst c.payload
        Ends (.progLoad cid) s cid (outcome stOK (b2n img.maskOnly) cf 0 0) (fun t =>
          t.adm.effs = s.adm.effs ++ [⟨cf + 1, cid, .setProg c.hdr.part c.hdr.progSlot (some img)⟩] ∧
          (∀ m, (stackAt t m).progUsed = (stackAt s m).progUsed + (if m ∈ partStacks s c.hdr.part then 1 else 0)))) ∧
      (c.hdr.progClear = true → Ends (.progLoadClear cid) s cid (outcome stOK 0 cf 0 0) (fun t =>
        t.adm.effs = s.adm.effs ++ [⟨cf + 1, cid, .setProg c.hdr.part c.hdr.progSlot none⟩] ∧ t.dramStacks = s.dramStacks))) ∧
    (cmdAt s cid = some c → c.hdr.opcode = opCAPS → c.st = .queued → c.result = none →
      Ends (.queryCaps cid) s cid ⟨stOK, 0, s.time.frame, 0, 0, capsBody s c, false⟩ (fun _ => (capsBody s c).length = 64))

/-- R507–R526: what each `PART_CTL` on a partition does when its conditions hold, from the frame of its pass: a create makes
the partition active from the next frame with a key of its own, quiesce and destroy wait, and reset, restart and resize
complete at once. A create of a partition that is not free is refused with sub-code 1.
(The sub-codes and the frame counted from are DEDUCED, logs 100, 101 and 102.) -/
def Obligations.PartitionsChangeAsTheirTableSays : Prop :=
  ∀ (s : State) (cid : Nat) (c : Cmd) (n : Nat), replies s cid = true →
    let k := c.hdr.part
    let state := partStateLast s k
    let ok := outcome stOK 0 n 0 0
    (pcTake s cid 0x01 = some (c, n) →
      (state ≠ 0 → Ends (.partCtlCreate cid) s cid (outcome stMALFORMED (stepDetail 10 1) n 0 0) (fun t => t.parts = s.parts)) ∧
      (∀ rs, state = 0 → s.crypto.drbgOk = true → rangeWords c.hdr.pcA c.payload = some rs →
        setFault s k (if c.hdr.pcTsgEn then some c.hdr.pcTsg else none) rs = 0 →
        (c.hdr.pcTsgEn && otherMembers s k c.hdr.pcTsg) = false → Ends (.partCtlCreate cid) s cid ok (fun t =>
          (partAt t k).state = 1 ∧ (partAt t k).actFrom = n + 1 ∧ (partAt t k).ranges = rs ∧ (partAt t k).tsWeight = c.hdr.pcWeight ∧
          (partAt t k).key = s.crypto.draws + 1 ∧ t.crypto.draws = s.crypto.draws + 1 ∧
          (partAt t k).meters = (partAt s k).meters ∧ ∀ j, j ≠ k → partAt t j = partAt s j))) ∧
    (pcTake s cid 0x02 = some (c, n) → state ≠ 0 → (partAt s k).tsgEn = false → Completes (.partCtlDestroy cid) s (fun t =>
      phaseOf t cid = some .waiting ∧ (state ≠ 5 → t.adm.effs = s.adm.effs ++ [⟨n, cid, .resetPart k 2⟩]) ∧
      Only (touches (.partCtlDestroy cid)) s t)) ∧
    (pcTake s cid 0x03 = some (c, n) → state = 1 → Completes (.partCtlQuiesce cid) s (fun t =>
      phaseOf t cid = some .waiting ∧ t.adm.effs = s.adm.effs ++ [⟨n, cid, .partState k 2⟩] ∧
      (∃ count, (partAt t k).quiesce = some (cid, count)) ∧ Only (touches (.partCtlQuiesce cid)) s t)) ∧
    (∀ j count, (partAt s j).quiesce = some (cid, count) → (partAt s j).state = 2 → quiesceMet s j = true →
      Ends (.quiesceComplete j) s cid (outcome stOK 0 s.time.frame count 0) (fun t =>
        (partAt t j).state = 3 ∧ (partAt t j).quiesce = none)) ∧
    (pcTake s cid 0x04 = some (c, n) → state = 3 → Ends (.partCtlRestart cid) s cid ok (fun t =>
      partAt t k = { partAt s k with state := 1, actFrom := n + 1 })) ∧
    (pcTake s cid 0x05 = some (c, n) → state ∈ [1, 2, 3] → Ends (.partCtlReset cid) s cid ok (fun t =>
      t.adm.effs = s.adm.effs ++ [⟨n, cid, .resetPart k 0⟩] ∧ t.parts = s.parts)) ∧
    (∀ rs, pcTake s cid 0x06 = some (c, n) → state = 3 → rangeWords c.hdr.pcA c.payload = some rs → setFault s k none rs = 0 →
      holdsStream s k = false → (partAt s k).tsgEn = false → Ends (.partCtlResize cid) s cid ok (fun t =>
        partAt t k = { partAt s k with ranges := rs, rotor := 0 }))

/-- R511, R520, R527–R531, R705: a grant gives a connection its rights in the partition or revokes them; a weight counts at
once without other members; a register write is the register's own; a map is pending from its load until its epoch is
cancelled; a mailbox request is answered within an `OK` record, with `MALFORMED` when the path does not accept it. -/
def Obligations.PartitionControlOfRightsAndMaps : Prop :=
  ∀ (s : State) (cid : Nat) (c : Cmd) (n : Nat), replies s cid = true →
    let k := c.hdr.part
    let ok := outcome stOK 0 n 0 0
    (∀ x, pcTake s cid 0x07 = some (c, n) → partStateLast s k ∈ [1, 2, 3] → mget s.conns c.hdr.pcA = some x → x.opened = true →
      x.mgmt = false → Ends (.partCtlGrant cid) s cid ok (fun t =>
        (mget t.conns c.hdr.pcA).map (fun x => x.grants) =
          some (if bits c.hdr.p1 3 0 = 0 then mdel x.grants k else mset x.grants k (bits c.hdr.p1 3 0)))) ∧
    (pcTake s cid 0x08 = some (c, n) → partStateLast s k ∈ [1, 2, 3] →
      ((partAt s k).tsgEn = false → Ends (.partCtlSetWeight cid) s cid ok (fun t =>
        partAt t k = { partAt s k with tsWeight := c.hdr.pcWeight } ∧ ∀ j, j ≠ k → partAt t j = partAt s j)) ∧
      (∀ f, (partAt s k).tsgEn = true → otherMembers s k (partAt s k).tsg = true →
        switchFrame s (partAt s k).tsg n c.hdr.p1 = some f → Ends (.partCtlSetWeight cid) s cid ok (fun t =>
          (groupAt t (partAt s k).tsg).pending = some (f, k, c.hdr.pcWeight, 1) ∧ t.parts = s.parts))) ∧
    (pcTake s cid 0x09 = some (c, n) → partStateLast s k ≠ 0 → partRegKind c.hdr.pcA = some true →
      (c.hdr.pcA = 0x48 → bit c.hdr.p1 35 = false) → Ends (.partCtlRegisterWrite cid) s cid ok (fun t =>
        ∀ j, partAt t j = partAt (writePartReg s k c.hdr.pcA c.hdr.p1) j)) ∧
    (pcTake s cid 0x10 = some (c, n) →
      let m := readMap c.payload (leAt c.payload 20 2)
      loadFault s c.payload (leAt c.payload 20 2) m = 0 → Ends (.partCtlMapLoad cid) s cid ok (fun t =>
        t.maps.pend = some m ∧ t.maps.cur = s.maps.cur ∧
        (curEpoch s = 0 → t.adm.effs = s.adm.effs ++ [⟨s.time.frame + 1, cid, .mapAdopt⟩]))) ∧
    (pcTake s cid 0x11 = some (c, n) →
      ((∃ m, s.maps.pend = some m ∧ m.epoch = c.hdr.pcA) → Ends (.partCtlMapCancel cid) s cid ok (fun t => t.maps.pend = none)) ∧
      ((∀ m, s.maps.pend = some m → m.epoch ≠ c.hdr.pcA) →
        Ends (.partCtlMapCancel cid) s cid (outcome stMALFORMED (stepDetail 10 7) n 0 0) (fun t => t.maps = s.maps))) ∧
    (pcTake s cid 0x12 = some (c, n) → mbHeaderOk c.payload = true → mbOp c.payload ∈ [1, 3] →
      Ends (.partCtlMailboxRequest cid) s cid
        ⟨stOK, 0, max n s.time.frame, 0, 0, mboxReply (mbOp c.payload) stMALFORMED 0 (mbTag c.payload) [], false⟩ (fun _ => True)) ∧
    (pcTake s cid 0x12 = some (c, n) → mbHeaderOk c.payload = true → mbOp c.payload = 4 → s.fw.running < 2 →
      mbOffset c.payload + mbCount c.payload ≤ 33554432 → Ends (.partCtlMailboxRequest cid) s cid
        ⟨stOK, 0, max n s.time.frame, 0, 0, mboxReply 4 stOK 0 (mbTag c.payload) [], false⟩ (fun t => t.fw.staged = false ∧
          fwSlot t (1 - s.fw.running) = bwrite (fwSlot s (1 - s.fw.running)) (mbOffset c.payload) (mbBody c.payload)))

/-- R414, R419–R424: a frame that fails R414's checks changes nothing, and a packet that verifies under no key changes only the
counters of its port and its connection: no sequence number, no window, no message and nothing the packet asks for.
(The order of the checks is DEDUCED, log 66; the tag check is symbolic, DESIGN CHOICE, log 5.) -/
def Obligations.PacketsThatDoNotAuthenticateDoNothing : Prop :=
  ∀ (s : State) (p : RxBase) (i : Instr),
    ((∃ d b, i = .dataReceive p d b) ∨ (∃ a, i = .ackReceive p a) ∨ (∃ n, i = .nakReceive p n) ∨ (∃ f g, i = .flushPacket p f g) ∨
      (∃ f g, i = .flushAckReceive p f g) ∨ (∃ n l, i = .pathsReceive p n l) ∨ (∃ e l r, i = .probeReceive p e l r) ∨
      (∃ r, i = .close p r) ∨ (∃ t, i = .timeSync p t) ∨ (∃ t n, i = .timeDreq p t n) ∨ (∃ t, i = .timeDrsp p t)) →
    (rxFrame s p = false → exec i s = .next s) ∧
    (p.tagKey = none → Completes i s (fun t => Only (raises ++ [.ports]) s t ∧
      ∀ c x, mget s.conns c = some x → ∃ y, mget t.conns c = some y ∧ y.rxPsn = x.rxPsn ∧ y.rxCsn = x.rxCsn ∧ y.floor = x.floor ∧
        y.inMsgs = x.inMsgs ∧ y.out = x.out ∧ y.grants = x.grants))

/-- R426–R438, Table 11-6: an authenticated `DATA` packet is handled by the first row of the table whose condition holds; one
that is placed joins its message, and a message that is complete in one packet and holds a command is checked as one. -/
def Obligations.DataPacketsFollowTheirTable : Prop :=
  ∀ (s a b : State) (p : RxBase) (d : DataHdr) (payload : Bytes) (q : Nat) (x : Conn), rxReliable s p = (a, some q) →
    let row := Instr.dataReceive p d payload
    let nak : State → Nat → Nat → Nat → Prop := fun u reason msn pindex =>
      exec row s = .next (sendNak u p.dcid q reason msn pindex)
    (police a p = (b, false) → nak b 0x11 d.msn d.pindex) ∧
    (police a p = (b, true) →
      let u := meterIngress b p d
      let top := (x.floor + 4096) % 2 ^ 32
      mget u.conns p.dcid = some x →
      (serialLt d.msn x.floor = true → ∀ r, loggedReason x d.msn = some r → nak u r d.msn d.pindex) ∧
      (serialLt d.msn x.floor = true → loggedReason x d.msn = none → exec row s = .next (oweAck u p q)) ∧
      (serialLt d.msn x.floor = false → d.msn = top ∨ serialLt top d.msn = true → nak u 0x10 d.msn d.pindex) ∧
      (serialLt d.msn x.floor = false → d.msn ≠ top → serialLt top d.msn = false →
        let st := mgetD x.states d.msn 0
        (0x100 ≤ st → nak u (st - 0x100) d.msn d.pindex) ∧
        (st < 0x100 → mhas x.states d.msn = true ∨ (mget x.inMsgs d.msn).any (fun m => m.placed.contains d.pindex) = true →
          exec row s = .next (oweAck u p q)) ∧
        (mhas x.states d.msn = false → (mget x.inMsgs d.msn).any (fun m => m.placed.contains d.pindex) = false →
          (x.ordered = true → x.ordNext ≠ (d.msn, d.pindex) → nak u 0x12 x.ordNext.1 x.ordNext.2) ∧
          (x.ordered = false ∨ x.ordNext = (d.msn, d.pindex) →
            (dataOk x d payload = false → Completes row s (fun t => ∀ y, mget t.conns p.dcid = some y →
              (d.msn, 0x0D) ∈ y.failLog)) ∧
            (dataOk x d payload = true → mhas x.inMsgs d.msn = false → d.kind ≠ 2 →
              (hasRoom u p.dcid x d = false → nak u 0x11 d.msn d.pindex) ∧
              (hasRoom u p.dcid x d = true →
                (d.pcount ≠ 1 → Completes row s (fun t => ∃ y m, mget t.conns p.dcid = some y ∧ mget y.inMsgs d.msn = some m ∧
                  m.placed = [d.pindex] ∧ m.bytes = [(d.pindex, payload)] ∧ m.hdr = dataFields d)) ∧
                (d.pcount = 1 → d.kind = 1 → (parseHdr payload).opcode ≠ opFLUSH → Completes row s (fun t =>
                  s.adm.nextCid < t.adm.nextCid))))))))

/-- R439–R449: an `ACK` marks the packets it shows; a `NAK` with a final reason abandons its message and raises its event,
and one outside the window makes its packet wait for it; an owed `ACK` leaves when its timer ends; a packet whose timeout
has passed waits to be resent, and one sent 16 times closes its connection. -/
def Obligations.AcknowledgementAndLoss : Prop :=
  ∀ (s u : State) (p : RxBase) (q c now : Nat) (x : Conn),
    (∀ a : AckHdr, rxControl s p = (u, some q) → mget u.conns p.dcid = some x → a.floor = x.peerFloor →
      widenSeq x.txPsn a.newest = some ((x.txPsn : Int) - 1) → 0 < x.txPsn →
      (∀ e ∈ sentPkts x, e.2.2.shown = true ∨ e.2.2.lost = true ∨ ackShows (x.txPsn - 1) a e.2.2.psn = true ∨
        x.txPsn - 1 < e.2.2.psn + s.eg.reorder) →
      Completes (.ackReceive p a) s (fun t => ∃ y, mget t.conns p.dcid = some y ∧ sentPkts y = (sentPkts x).map (fun e =>
        if ackShows (x.txPsn - 1) a e.2.2.psn then (e.1, e.2.1, { e.2.2 with shown := true, lost := false, windowed := false })
        else e) ∧ y.ceFrame = (x.ceFrame || decide (0 < a.ce)))) ∧
    (∀ (n : NakHdr) key, rxControl s p = (u, some q) → mget u.conns p.dcid = some x → keyOfMsn x n.msn = some key →
      (n.reason ∈ [0x0A, 0x0D, 0x0E] → exec (.nakReceive p n) s =
        .next (raise (forgetMsg u p.dcid key) 0x0702 none p.dcid (packFields [(0, 32, n.msn), (32, 8, n.reason)]))) ∧
      (n.reason = 0x10 → exec (.nakReceive p n) s =
        .next (updPkt u p.dcid key n.pindex (fun k => { k with windowed := !k.shown })))) ∧
    (∀ r, mget s.conns c = some x → x.opened = true → 0 < x.owedAck → pathOf s x x.txCsn = some r → mayCount s false x = true →
      Completes (.ackTimer c now) s (fun t =>
        (mget t.conns c).map (fun y => (y.owedAck, y.ceSeen, y.txCsn)) = some (0, 0, x.txCsn + 1) ∧
        (∃ k, t.out.wire = s.out.wire ++ [k] ∧ k.conn = c ∧ k.ptype = 0x02 ∧ k.psn = x.txCsn % 2 ^ 32 ∧ k.tc = 1) ∧
        Only (touches (.ackTimer c now)) s t)) ∧
    (∀ key m msn pindex k, mget s.conns c = some x → keyOfMsn x msn = some key → mget x.out key = some m →
      mget m.pkts pindex = some k → k.shown = false → k.lost = false → k.sent + k.rto * 256 * 2 ^ min k.tries 6 ≤ now →
      (k.tries < 15 → Completes (.retransmitTimeout c msn pindex now) s (fun t =>
        ((mget t.conns c).bind (fun y => (mget y.out key).bind (fun m => mget m.pkts pindex))) =
          some { k with lost := true, windowed := false })) ∧
      (15 ≤ k.tries → exec (.retransmitTimeout c msn pindex now) s = .next (closeByNode s c 0x01)))

/-- R450–R458, R463–R470, R504, R552, R566–R568: flushes wait for the messages before them, path sets and probes are taken in order, a
closed connection is gone, and a connection opens by request, response and confirmation when its key exchange is accepted, the answer signed over the
transcript and the keys of both directions derived from it;
while the DRBG cannot draw, a request is dropped without reply. -/
def Obligations.ConnectionsOpenCloseAndTakePaths : Prop :=
  ∀ (s u : State) (p : RxBase) (q : Nat) (x : Conn),
    (∀ w fmsn ftag, rxReliable s p = (u, some q) → police u p = (w, true) → mget w.conns p.dcid = some x →
      serialLt ((x.floor + 4096) % 2 ^ 32) fmsn = false → serialLt x.floor fmsn = true → Completes (.flushPacket p fmsn ftag) s
        (fun t => ∃ y, mget t.conns p.dcid = some y ∧ (fmsn, ftag) ∈ y.flushes)) ∧
    (rxControl s p = (u, some q) →
      (∀ fmsn ftag, exec (.flushAckReceive p fmsn ftag) s = .next u) ∧
      (mget u.conns p.dcid = some x →
        (∀ pseq live, x.peerPseq.all (fun e => serialLt e pseq) = true → exec (.pathsReceive p pseq live) s =
          .next (updConn u p.dcid (fun x => { x with peerPseq := some pseq, peerLive := live }))) ∧
        (∀ pseq live, x.peerPseq.all (fun e => serialLt e pseq) = false →
          Completes (.pathsReceive p pseq live) s (fun t => mget t.conns p.dcid = some x)) ∧
        (∀ echo label pair, mget x.probes pair = some echo → Completes (.probeReceive p echo label true) s (fun t =>
          (mget t.conns p.dcid).all (fun y => !(y.probes.any (fun e => e.1 == pair)) && !(y.pairBad.any (fun e => e.1 == pair))) =
            true)) ∧
        (∀ echo label i, i < 16 → x.peerAddrs.findIdx? (fun a => a == p.src) = some i → mayCount u false x = true →
          Completes (.probeReceive p echo label false) s (fun t =>
          ∃ k, t.out.wire = s.out.wire ++ [k] ∧ k.port = p.port ∧ k.label = label ∧ k.ptype = 0x07 ∧ k.fields = [0, 1, label, echo])) ∧
        (∀ reason, exec (.close p reason) s = .next (closeConn u p.dcid reason) ∧
          Completes (.close p reason) s (fun t => (Rising s.conns → mget t.conns p.dcid = none) ∧
            ∀ c, c ≠ p.dcid → (mget t.conns c).isSome = (mget s.conns c).isSome)))) ∧
    (∀ conn pair f, mget s.conns conn = some x → mget x.pairBad pair = some f → f ≤ s.time.frame →
      (portAt s (pair / 16)).up = true → bit x.peerLive (pair % 16) = true → mayCount s false x = true → Completes (.pairBadExpiry conn pair) s (fun t =>
        (mget t.conns conn).map (fun y => mget y.probes pair) = some (some (x.txCsn % 2 ^ 32)) ∧
        ∃ k, t.out.wire = s.out.wire ++ [k] ∧ k.port = pair / 16 ∧ k.ptype = 0x07 ∧ k.fields = [0, 0, 0, x.txCsn % 2 ^ 32])) ∧
    (∀ h addrs kx, rxFrame s p = true → p.rsvd = false → (portAt s p.port).hsCount < s.eg.hsMax →
      s.conns.find? (fun e => !e.2.initiator && e.2.src == p.src && e.2.peerId == h.scid) = none →
      (s.crypto.drbgOk = false → Completes (.connectReq p h addrs kx) s (fun t => t.out = s.out ∧ t.crypto = s.crypto ∧
        ∀ c, (mget t.conns c).isSome = (mget s.conns c).isSome)) ∧
      (∀ gen i, s.crypto.drbgOk = true → commonGen h.gens = some gen → freeConn s p.port = some i →
        (h.mgmt = true → p.port = 20) → kxAccepted s p.port h.mgmt kx (reqDigest p h addrs kx) = true → Completes (.connectReq p h addrs kx) s (fun t =>
          (mget t.conns i).map (fun y => (y.opened, y.peerId, y.peerNode, y.gen, y.mgmt, y.grants)) =
            some (false, h.scid, kx.nodeId, gen, h.mgmt, []) ∧
          t.crypto.draws = s.crypto.draws + 1 ∧
          let d := Config.drawBytes (s.crypto.draws + 1) 128
          ∃ k own, t.out.wire = s.out.wire ++ [k] ∧ k.ptype = 0x11 ∧ k.conn = i ∧ k.dst = p.src ∧
            let th := sha384 (rxToChain 0x10 p h addrs kx ++ kx.sig ++ own)
            let keys := linkKeys (kx.nonce ++ fitTo 32 (d.take 32)) (Config.ecdh (slice d 32 48) kx.epk) th
            k.payload = own.drop 32 ++ signWith s.crypto.aliasKey th (d.drop 80) ∧
            (mget t.conns i).map (fun y => (y.rxKeys, y.txKeys)) = some (keys.1.hold 0 1, keys.2))) ∧
      (s.crypto.drbgOk = true → commonGen h.gens ≠ none → freeConn s p.port ≠ none →
        kxAccepted s p.port h.mgmt kx (reqDigest p h addrs kx) = false →
        Completes (.connectReq p h addrs kx) s (fun t => t.crypto.hsFail = min 65535 (s.crypto.hsFail + 1) ∧
          ∀ c, (mget t.conns c).isSome = (mget s.conns c).isSome))) ∧
    (∀ h addrs kx gen, rxFrame s p = true → p.rsvd = false → mget s.conns p.dcid = some x → x.opened = false → x.initiator = true →
      (aged s p.dcid x = true → ageOk s p.sframe = true) → commonGen h.gens = some gen → h.status = 0 →
      kxSound s kx (answerTh x p h addrs kx) = true → kx.gwecen = true → (x.onBoard = true ∨ kx.nodeId = x.peerNode) → Completes (.connectRsp p h addrs kx) s (fun t =>
        (mget t.conns p.dcid).map (fun y => (y.opened, y.peerId, y.gen)) = some (true, h.scid, gen) ∧
        ∀ o, x.own = some o →
          let keys := linkKeys (o.nonce ++ kx.nonce) (Config.ecdh o.priv kx.epk) (answerTh x p h addrs kx)
          (mget t.conns p.dcid).map (fun y => (y.txKeys, y.rxKeys, y.own)) = some (keys.1, keys.2.hold 0 1, none))) ∧
    (∀ scid, rxFrame s p = true → p.rsvd = false → mget s.conns p.dcid = some x → x.opened = false → x.initiator = false →
      p.psn = 0 → p.keyph = 0 → p.tagKey = some 0 → (aged s p.dcid x = true → ageOk s p.sframe = true) → scid = x.peerId →
      s.eg.ctlMax ≠ 0 → Completes (.connectCfm p scid) s (fun t =>
        (mget t.conns p.dcid).map (fun y => (y.opened, y.rxCsn, y.rsp)) = some (true, some 0, none))) ∧
    (∀ c, mget s.conns c = some x → x.opened = false → x.initiator = false → x.created + 1024 ≤ s.time.frame →
      exec (.connectCfmTimeout c) s = .next (closeConn s c 0))

/-- R455, R481–R506: a free port that is up starts the packet the hierarchy chooses: its connection's next PSN, its charged
length counted and, in bulk, spent; with no packet it changes nothing that is sent. Shapers gain their rate up to their
burst. A gate list is armed, withdrawn, and switched at its frame.
(The levels shapers start at are DEDUCED, log 73.) -/
def Obligations.EgressStartsTheChosenPacket : Prop :=
  ∀ (s : State) (port now : Nat), portPresent s port = true → (portAt s port).up = true →
    (lineRate8 s port ≠ 0 → (portAt s port).busy ≤ now → frameStartNs s.time ≤ now →
      now < frameStartNs s.time + frameNs s.time.len → (∀ e ∈ s.conns, ∀ r, pathOf s e.2 0 = some r → orderedMove r.1 e.2 = e.2) →
      (choosePacket s port (now - frameStartNs s.time) = none → Completes (.egressPacketStart port now) s (fun t =>
        t.out = s.out ∧ t.adm = s.adm)) ∧
      (∀ c f x m, choosePacket s port (now - frameStartNs s.time) = some (c, f) → mget s.conns c.conn = some x →
        mget x.out c.key = some m → Completes (.egressPacketStart port now) s (fun t =>
          (∃ k, t.out.wire = s.out.wire ++ [k] ∧ k.conn = c.conn ∧ k.ptype = 0x01 ∧ k.tc = c.tc ∧ k.psn = x.txPsn % 2 ^ 32 ∧
            k.payload = pktBytes x m c.idx) ∧
          (mget t.conns c.conn).map (fun y => y.txPsn) = some (x.txPsn + 1) ∧
          (portAt t port).busy = now + ceilDiv (8 * c.len) (lineRate8 s port) ∧
          (c.tc < 3 → (mget t.conns c.conn).map (fun y => y.shaper) = some x.shaper) ∧
          (3 ≤ c.tc → (mget t.conns c.conn).map (fun y => y.shaper.credit) = some (x.shaper.credit - (c.len : Int))) ∧
          Only (touches (.egressPacketStart port now)) s t))) ∧
    Completes .shaperSlot s (fun t => (∀ c, (mget t.conns c).map (fun y => (y.shaper, y.policer)) =
        (mget s.conns c).map (fun x => (gain x.shaper, gain x.policer))) ∧ Only (touches .shaperSlot) s t) ∧
    (port < 16 → ∀ v,
      let x := portAt s port
      let y := writeCount (writeCount { x with switchF := bits v 63 32, err := x.err && !bit v 17, arm := x.arm && !bit v 18 } 1
        (bits v 13 9)) 0 (bits v 8 4)
      (bit v 16 = true → armOk s y (bits v 63 32) = true → Completes (.gateArm port v) s (fun t =>
        (portAt t port).arm = true ∧ (portAt t port).err = y.err ∧ (portAt t port).active = x.active ∧
        (∃ f : Nat, widenFrame s.time.frame (bits v 63 32) = some (f : Int) ∧ (portAt t port).armFrame = f) ∧
        Only (touches (.gateArm port v)) s t)) ∧
      (bit v 16 = true → armOk s y (bits v 63 32) = false → Completes (.gateArm port v) s (fun t =>
        (portAt t port).arm = false ∧ (portAt t port).err = true)) ∧
      (bit v 18 = true → bit v 16 = false → Completes (.gateCancel port v) s (fun t =>
        portAt t port = y ∧ (portAt t port).arm = false ∧ Only (touches (.gateCancel port v)) s t))) ∧
    ((portAt s port).arm = true → (portAt s port).armFrame ≤ s.time.frame → Completes (.gateListSwitch port) s (fun t =>
      portAt t port = { portAt s port with active := 1 - (portAt s port).active, arm := false } ∧
      Only (touches (.gateListSwitch port)) s t)) ∧
    ((portAt s port).arm = false → exec (.gateListSwitch port) s = .next s)

/-- R33, R36, R37, R474–R476: a parent's `TIME_SYNC` gives the phase error, which a node in service slews away when it is within
±384 ns and otherwise stops admission for; an exchange gives the path delay; a child's request is answered; and a node that has
heard no parent for 16,384 base intervals is in holdover.
(Delays before the first exchange and rounding are DEDUCED, log 33.) -/
def Obligations.FabricTimeFollowsTheParent : Prop :=
  ∀ (s u : State) (p : RxBase) (q : Nat), rxControl s p = (u, some q) →
    (∀ h : TimeHdr, parentConn u = some p.dcid → joins u = false →
      let e := phaseError u.time h
      (u.time.tickMode = 3 ∨ (u.time.tickMode = 1 ∧ u.time.byLinks = false) → exec (.timeSync p h) s =
        .next { u with time := { u.time with quiet := 0, holdover := false } }) ∧
      (u.time.tickMode ≠ 3 → (u.time.tickMode = 1 → u.time.byLinks = true) → s.life.state ≠ 0 → s.time.resync = none →
        (-(384 * nsUnits) ≤ e → e ≤ 384 * nsUnits → exec (.timeSync p h) s = .next { u with time := { u.time with
          phaseErr := errNs e, locked := inLock e, quiet := 0, holdover := false, slew := -e } }) ∧
        (e < -(384 * nsUnits) ∨ 384 * nsUnits < e → Completes (.timeSync p h) s (fun t =>
          t.adm.stopped = true ∧ t.time = { u.time with
            phaseErr := errNs e, locked := inLock e, quiet := 0, holdover := false, lost := true, resync := some e, slew := 0 })))) ∧
    (∀ h : TimeHdr, parentConn u ≠ some p.dcid → exec (.timeSync p h) s = .next u) ∧
    (∀ (h : TimeHdr) turn x r, p.dcid ∈ childConns u → mget u.conns p.dcid = some x → pathOf u x x.txCsn = some r →
      mayCount u false x = true → Completes (.timeDreq p h turn) s (fun t => (∃ k, t.out.wire = s.out.wire ++ [k] ∧ k.conn = p.dcid ∧ k.ptype = 0x1A ∧
        k.fields = [wrapInt 64 h.corr, turn % 2 ^ 32, h.seq, 0]) ∧ t.time = s.time)) ∧
    (∀ (h : TimeHdr) turn, p.dcid ∉ childConns u → exec (.timeDreq p h turn) s = .next u) ∧
    (∀ (h : TimeHdr) t1, u.time.dreq = some (h.seq, t1) → parentConn u = some p.dcid → exec (.timeDrsp p h) s =
      .next { u with time := { u.time with dreq := none, delays := (pathDelay t1 h :: u.time.delays).take 8 } }) ∧
    (∀ c now, parentConn s = some c → 256 ≤ s.time.sinceDreq → Completes (.timeDreqSend now) s (fun t =>
      t.time = { s.time with dreq := some (s.time.dreqNo % 2 ^ 32, now), dreqNo := s.time.dreqNo + 1, sinceDreq := 0 } ∧
      Only (touches (.timeDreqSend now)) s t)) ∧
    (awake s = true → s.time.holdover = false → 16384 ≤ s.time.quiet → Completes .frameHoldover s (fun t =>
        t.time = { s.time with holdover := true } ∧ t.ras = logRecord s.ras ⟨0x0002, 2, 0, s.time.frame, 0, 0⟩ ∧
        Only (touches .frameHoldover) s t))

/-- R35, R634, R637, R665–R667: the tick line's markers are checked against `FRAME.BINT`; the fourth wrong one in a row, or its edges
missing, hands the node to its board links, and the 16th right one at a frame mark takes the tick back. A node joins fabric
time once, at its parent's first `TIME_SYNC` or its lead's counters: its frame number is then the fabric's, and spring step 0x09 is
done. -/
def Obligations.TheTickLineAndTheTimeJoin : Prop :=
  ∀ s : State,
    (∀ width, s.time.tickMode = 1 → (decide (128 ≤ width) = true ↔ s.time.bint % 16 = 0) → Completes (.ftickEdge width) s (fun t =>
      t.time.badTicks = 0 ∧ t.time.goodTicks = s.time.goodTicks + 1 ∧
      (t.time.byLinks = true ↔ s.time.byLinks = true ∧ ¬(s.time.bint % 16 = 0 ∧ 16 ≤ s.time.goodTicks + 1)) ∧
      Only (touches (.ftickEdge width)) s t)) ∧
    (∀ width, s.time.tickMode = 1 → ¬(decide (128 ≤ width) = true ↔ s.time.bint % 16 = 0) → Completes (.ftickEdge width) s (fun t =>
      t.time.goodTicks = 0 ∧ (t.time.byLinks = true ↔ s.time.byLinks = true ∨ 3 ≤ s.time.badTicks) ∧
      t.time.frame = s.time.frame ∧ Only (touches (.ftickEdge width)) s t)) ∧
    (s.time.tickMode = 1 → s.time.byLinks = false → Completes .frameTickLost s (fun t =>
      t.time = { s.time with byLinks := true, badTicks := 0, goodTicks := 0 } ∧
      t.ras = logRecord s.ras ⟨0x0001, 2, 0, s.time.frame, 0, 0⟩ ∧ Only (touches .frameTickLost) s t)) ∧
    (∀ (u : State) (p : RxBase) (q : Nat), rxControl s p = (u, some q) →
      (∀ (h : TimeHdr) near, joins s = true → parentConn s = some p.dcid → s.time.joinFrame = some near →
        let e := (((h.sub : Int) + h.corr) / bintUnits).toNat
        let len := (s.maps.cur.map (fun m => m.len)).getD s.time.len
        Completes (.timeJoin p (.sync h)) s (fun t =>
          t.time.joined = true ∧ t.time.bint = h.bint + e ∧ t.time.len = len ∧
          t.time.frame = joinFrameOf near p.sframe + (if len = 0 then 2 * e else e / bintsPerFrame len) ∧
          t.adm.closed = t.time.frame ∧ t.life.step = 9)) ∧
      (∀ frame bint, s.life.state = 0 → s.time.joined = false → s.time.tickMode = 1 → boardConn s (leadPos s) = some p.dcid →
        Completes (.timeJoin p (.lead frame bint)) s (fun t =>
          t.time.joined = true ∧ t.time.bint = bint ∧ t.time.frame = frame ∧ t.time.len = s.time.len ∧ t.adm.closed = frame ∧
          t.life.step = 9))) ∧
    (∀ (p : RxBase) (j : JoinMsg), s.time.joined = true → exec (.timeJoin p j) s = .next s)

/-- R28–R31, R38, R39, R42, R569: a frame starts when every base interval of the last has, and the frame number rises by one (twice in a
base interval of two frames); a base interval's start counts `FRAME.BINT`, advances UTC, clears the counts kept per
interval, and takes each unit's sample; a cycle of 16 puts the decided steps in force. Nothing starts while a winter is entered.
(That a frame waits for its base intervals and for winter's entry is a DESIGN CHOICE, log 1.) -/
def Obligations.FramesAndBaseIntervalsAreCounted : Prop :=
  ∀ s : State, awake s = true →
    (s.life.entering = false → s.time.left = 0 → Completes .frameStart s (fun t =>
      t.time.frame = s.time.frame + 1 ∧ t.time.bint = s.time.bint ∧ t.adm.closed = max s.adm.closed (s.time.frame + 1) ∧
      (s.time.len = 0 ∧ s.time.half = false → t.time.half = true ∧ t.time.left = 0 ∧ t.time.len = s.time.len) ∧
      (s.time.len ≠ 0 ∨ s.time.half = true → t.time.half = false ∧ t.time.len = nextLen s ∧ t.time.lenPend = none ∧
        t.time.left = bintsPerFrame (nextLen s)))) ∧
    (s.life.entering = true ∨ s.time.left ≠ 0 → exec .frameStart s = .next s) ∧
    (∀ temps, s.time.left = 0 → exec (.baseIntervalStart temps) s = .next s) ∧
    (∀ temps, s.time.left ≠ 0 → Completes (.baseIntervalStart temps) s (fun t =>
      t.time.bint = s.time.bint + 1 ∧ t.time.left = s.time.left - 1 ∧ t.time.frame = s.time.frame ∧ t.crypto = utcTick s.crypto ∧
      (∀ n, n < stackCount s → (stackAt t n).temp = (sampleOf temps n 1632).1 ∧
        (stackAt t n).step = if (s.time.bint + 1) % 16 = 0 then (stackAt s n).stepNext else (stackAt s n).step) ∧
      (∀ p x, mget t.ports p = some x → x.hsCount = 0) ∧ (∀ i x, mget t.slices i = some x → x.grants = 0)))

/-- R39, R43–R47, R65–R67, R224, R338, R339, R614: once in base interval 8 of each cycle every stack's step is decided, rising by at
most one, and its refresh rate from its samples; a refresh slot, one in a base interval, takes up to four owed refreshes, under a
long sequence those beyond four, moves the row-group counter by as many and refreshes the rows beside the most activated row; a
slice more than eight behind is reported; and each stack in service takes its maintenance slot at the end of a cycle, the spare lane
group of a stack taking the place of a failed one.
(What stands for a hub's missing samples is DEDUCED, log 53.) -/
def Obligations.StepsRefreshesAndSlots : Prop :=
  ∀ s : State,
    (awake s = true → s.time.bint % 16 = 8 → s.time.decided ≠ s.time.bint / 16 + 1 →
      ∀ peers, Completes (.thermalDecision peers) s (fun t =>
        (∀ n, n < stackCount s → stackAt t n = { stackAt s n with
          stepNext := max (stepFor (stackAt s n).temp) ((stackAt s n).step - 1)
          hotNext := (stackAt s n).samples.any (fun x => decide (1360 < x)) }) ∧
        (s.hw.variant = 0 → s.oboe.casc = false →
          t.oboe.stepNext = max (oboeStepFor (max s.oboe.temp0 s.oboe.temp1)) (s.oboe.step - 1)) ∧
        t.time.decided = s.time.bint / 16 + 1 ∧ Only (touches (.thermalDecision peers)) s t)) ∧
    (s.time.bint % 16 ≠ 8 ∨ s.time.decided = s.time.bint / 16 + 1 → ∀ peers, exec (.thermalDecision peers) s = .next s) ∧
    (∀ i, awake s = true → i < sliceCount s →
      let x := sliceAt s i
      let debt := (stackAt s (i / 1024)).refDue - x.refDone
      let n := if (seqAt x s.time.bint).isSome = true then debt - 4 else min debt 4
      (x.refAt = s.time.bint + 1 → exec (.refreshDue i) s = .next s) ∧
      (x.refAt ≠ s.time.bint + 1 → 1 ≤ debt → debt ≤ 8 → Completes (.refreshDue i) s (fun t =>
        sliceAt t i = (if n = 0 then { x with refAt := s.time.bint + 1 } else { x with
          refAt := s.time.bint + 1, refDone := x.refDone + n, rowCtr := (x.rowCtr + n) % 8192
          adjacent := besideHot x.acts, acts := [] }) ∧ (∀ j, j ≠ i → sliceAt t j = sliceAt s j) ∧ Only [.slices] s t)) ∧
      (x.refAt ≠ s.time.bint + 1 → 8 < debt → exec (.refreshDue i) s = exec (.errorReport (.slice i) 0x06 debt []) s)) ∧
    (s.time.bint % 16 = 15 → (∀ k, (partAt s k).maintLeft = 0) → Completes .maintenanceSlot s (fun t =>
      ∀ n, n < stackCount s → stackAt t n = if fencedAt s (.stack n) s.time.frame then stackAt s n else stackSlot s n (stackAt s n))) ∧
    (s.time.bint % 16 ≠ 15 → exec .maintenanceSlot s = .next s)

/-- R56, R61, R62: an admission pass closes the frame after the current one, samples the `ADMIT` registers, and leaves the clock,
every stored sector and every stream as they are; it does not run before the rows granted earlier have, and with no command and no job it
changes nothing else.
(That a pass waits for the rows granted earlier is a DESIGN CHOICE, log 1.) -/
def Obligations.AdmissionClosesTheNextFrame : Prop :=
  ∀ (s : State) (peers : List PeerOutcome),
    (passReady s = true → Completes (.admissionPass peers) s (fun t =>
      t.adm.closed = s.time.frame + 1 ∧ t.adm.sampled = (s.adm.energyBase, s.adm.energyCap, s.adm.energyCoef) ∧ t.time = s.time ∧
      SameSectors s t ∧ t.hub0.streams = s.hub0.streams ∧ t.hub1.streams = s.hub1.streams ∧
      (s.adm.cmds = [] → s.adm.jobs = [] → t = { s with adm := { s.adm with
        closed := s.time.frame + 1, sampled := (s.adm.energyBase, s.adm.energyCap, s.adm.energyCoef) } }))) ∧
    (passReady s = false → exec (.admissionPass peers) s = .next s)

/-- R207–R229: a search window leaves a command the entries of its tags whose signatures match its keys, in cascade with those
of the other members, by board position and entry address, and takes no entry; a member that does not lead a striped stream
takes the lead's candidates and union bounds; an update slot, outside the search window and within the frame's number, runs the
oldest waiting update, bulk inserts last; and a failed cascade stops searches on every member, whose granted prefiltering
`SELECT`s end with `FENCED`, reason 0x02.
(How other members' candidates arrive is a DESIGN CHOICE, log 91; where an update waits for a search is DEDUCED, log 94.) -/
def Obligations.TheOboeSearchesAndUpdates : Prop :=
  ∀ s : State, s.hw.variant = 0 →
    (∀ cid c peers bounds, cmdAt s cid = some c → c.st = .granted → c.hdr.prefilter = true → s.oboe.en = true →
      c.planD.start = s.time.frame + 1 → mhas s.oboe.results cid = false →
      let row := Instr.oboeSearchWindow ⟨cid, peers, bounds⟩
      let v := viewAt s c.planD.start
      Completes row s (fun t =>
        (groupOfCmd s c ≤ 1 ∨ isLead s = true → t.oboe.bounds = s.oboe.bounds ∧
          mget t.oboe.results cid = some (boardMatches ((attStreams v c).flatMap (streamMatches s v c))
            (peers.filter (fun m => s.oboe.casc && m.pos != s.hw.pos)))) ∧
        (1 < groupOfCmd s c → isLead s = false → mget t.oboe.bounds cid = some bounds ∧
          mget t.oboe.results cid = some (boardMatches [] peers)) ∧
        t.oboe.ents0 = s.oboe.ents0 ∧ t.oboe.ents1 = s.oboe.ents1 ∧ t.oboe.updates = s.oboe.updates ∧ Only (touches row) s t)) ∧
    (∀ i u, searchWaits s = false → s.oboe.slotsUsed < updateSlots s.oboe.step s.time.len → nextUpdate s = some i →
      s.oboe.updates[i]? = some u → Completes .oboeUpdateSlot s (fun t =>
        t.oboe.slotsUsed = s.oboe.slotsUsed + 1 ∧
        (∀ hub tag stream page version, u = .rewrite hub tag stream page version →
          t.oboe.updates = s.oboe.updates.eraseIdx i ∧
          ∀ e ∈ oboeEnts t, e.stream = stream → e.page = page → e.version = version) ∧
        (∀ hub tag stream page, u = .remove hub tag stream page → hasEntry t stream page = false) ∧
        (∀ hub tag stream page version sig sum job r x, u = .insert hub tag stream page version sig sum false job →
          mget (hubAt s hub).index (idxOfHandle stream) = some r → streamAt s stream = some x → r.tag = tag →
          r.complete = true → r.count < r.reserve → t.oboe.updates = s.oboe.updates.eraseIdx i ∧
            (⟨tag, sig, version, stream, page⟩ : OboeEnt) ∈ oboeEnts t ∧
            (mget (hubAt t hub).index (idxOfHandle stream)).map (fun q => q.count) = some (r.count + 1)))) ∧
    (searchWaits s = true ∨ updateSlots s.oboe.step s.time.len ≤ s.oboe.slotsUsed → exec .oboeUpdateSlot s = .next s) ∧
    (∀ i u, nextUpdate s = some i → s.oboe.updates[i]? = some u →
      (bulkOf u = none → ∀ j v, j < i → s.oboe.updates[j]? = some v → bulkOf v ≠ none) ∧
      (bulkOf u ≠ none → (∀ v ∈ s.oboe.updates, bulkOf v ≠ none) ∧ bulkReady s u = true ∧
        ∀ j v, j < i → s.oboe.updates[j]? = some v → bulkReady s v = false)) ∧
    (∀ pos, s.oboe.casc = true → pos ≤ s.hw.gsize → Completes (.cascadeFail pos) s (fun t => t.oboe.en = false ∧
      s.ras.written + 1 ≤ t.ras.written ∧
      ∀ cid c, cmdAt s cid = some c → c.st = .granted → c.hdr.opcode = opSELECT → c.hdr.prefilter = true →
        mhas s.oboe.results cid = false → replies s cid = true →
        (outcomeOf t cid).map (fun o => (o.status, o.detail)) = some (stFENCED, fencedDetail 0x02 0)))

/-- R263–R267, R331, R332, R274, R557–R561: a reserve window runs the slice's ordinary writes that finish by it; a write leaves its
sector with its bytes laid over what it read, bound to its address, its metadata and its partition's key, and one whose read half
fails writes nothing, is reported, and ends its command with `INTEGRITY` or gives its job back; a sector that passes its checks
within the fetch window and a staging buffer with room is staged for its page, and one that fails is reported and stops the
command it is for; a sector of the slice's tables is checked against the integrity tree as well; and when the service window
closes every slice partial that is complete and due leaves.
(That a table's failure stops the command that reads is a DESIGN CHOICE, log 141; how far FETCH looks ahead, log 145.) -/
def Obligations.SectorsAreWrittenReadAndChecked : Prop :=
  ∀ (s : State) (i : Nat),
    (sliceOut s i s.time.frame = true → ∀ f, exec (.reserveWindow i) s = .next s ∧ exec (.sectorWrite i f) s = .next s ∧
      exec (.ordinaryReadGrant i) s = .next s) ∧
    (sliceOut s i s.time.frame = false →
      Completes (.reserveWindow i) s (fun t =>
        (∀ w ∈ (sliceAt t i).ordq, w ∈ (sliceAt s i).ordq ∧ s.time.frame < w.done) ∧ Only (touches (.reserveWindow i)) s t ∧
        ∀ w base fixed, (sliceAt s i).ordq = [w] → w.done ≤ s.time.frame → ordBase s i w .none = .ok (base, fixed) →
          Written s t i w base ∧ ∀ j, j ≠ i → sliceAt t j = sliceAt s j) ∧
      (∀ w r f, (sliceAt s i).ordq = w :: r →
        (∀ base fixed, ordBase s i w f = .ok (base, fixed) → Completes (.sectorWrite i f) s (fun t =>
          (sliceAt t i).ordq = r ∧ Written s t i w base ∧ Only [.slices, .sectors, .reports] s t ∧
          t.ras.reports = s.ras.reports ++ (if fixed = true then [(.rowGroup i (w.chunk / 3), 0x01, 0)] else []))) ∧
        (∀ cause, ordBase s i w f = .error cause → Completes (.sectorWrite i f) s (fun t =>
          SameSectors s t ∧ (∀ v ∈ (sliceAt t i).ordq, v ∈ r) ∧ (.rowGroup i (w.chunk / 3), cause, 0) ∈ t.ras.reports ∧
          (w.cid < 2 ^ 40 → replies s w.cid = true → (outcomeOf t w.cid).map (fun o => o.status) = some stINTEGRITY) ∧
          (2 ^ 40 ≤ w.cid → w.cid < 2 ^ 50 → ∀ j, jobAt t (w.cid - 2 ^ 40) = some j → j.granted = none)))) ∧
      ((sliceAt s i).reads ≠ [] → (sliceAt s i).grants < grantLimit s.time →
        (∀ e ∈ s.adm.jobs, e.2.kind = .rowTest → e.2.slice = i → e.2.granted ≠ some s.time.frame) →
        Completes (.ordinaryReadGrant i) s (fun t =>
          sliceAt t i = { sliceAt s i with grants := (sliceAt s i).grants + 1 } ∧ Only [.slices] s t))) ∧
    (∀ r f c, cmdAt s r.cid = some c → c.result = none → sliceOut s r.slice s.time.frame = false →
      (∀ t tc, r.chunk < tableChunk → s.time.windowClosed = false → taskReading s r = some t → taskCtx c t = some tc →
        (taskSectors tc.x t).contains (8 * (r.chunk - t.chunk) + r.sector) = true → stagingFull (sliceAt s r.slice) r.chunk = false →
        withinFetch s r = true →
        let got := readTaskSector (sliceAt s r.slice) r.slice (partKey s c.hdr.part) tc.x t (8 * (r.chunk - t.chunk) + r.sector) f
        (∀ d fixed, got = .ok (d, fixed) → Completes (.sectorRead r f) s (fun u =>
          mget (sliceAt u r.slice).staging (8 * r.chunk + r.sector) = some d ∧ Only [.slices, .reports] s u ∧
          u.ras.reports = s.ras.reports ++ (if fixed = true then [(.rowGroup r.slice (r.chunk / 3), 0x01, 0)] else []))) ∧
        (∀ cause, got = .error cause → replies s r.cid = true →
          Ends (.sectorRead r f) s r.cid
            (keepHandle s c (outcome stINTEGRITY (lossDetail false t.kvh 0x03 t.page) (endFrame s r.cid) 0 0))
            (fun u => SameSectors s u ∧ (.rowGroup r.slice (r.chunk / 3), cause, 0) ∈ u.ras.reports))) ∧
      (∀ cause, tableChunk ≤ r.chunk → r.chunk < tableChunk + 160 → planTouches c r.slice = true →
        readTableSector (sliceAt s r.slice) r.slice s.crypto.ksys (8 * (r.chunk - tableChunk) + r.sector) f = .error cause →
        replies s r.cid = true → Ends (.sectorRead r f) s r.cid
          (keepHandle s c (outcome stINTEGRITY (lossDetail false c.hdr.kvh 0x03 0) (endFrame s r.cid) 0 0))
          (fun u => SameSectors s u))) ∧
    Completes .serviceWindowClose s (fun t => t.time.windowClosed = true ∧ SameSectors s t ∧ Only (touches .serviceWindowClose) s t ∧
      ∀ cid w c, mget (sliceAt s i).work cid = some w → cmdAt s cid = some c → sliceOut s i s.time.frame = false →
        (mget (sliceAt t i).work cid).map (fun v => v.released) =
          some (w.released || (w.pages.all pageDone && decide (c.planD.service ≤ s.time.frame))))

/-- R271, R272, R278–R292, R309–R313: a task's engines move their counters and its result is committed whole by the core it is
assigned to; an engine that waits for a counter holds the task; a counter that would leave its range, a scratchpad word that
cannot be corrected, a deadlock, an overrun, a barrier timeout or a reported fault stops the logical core, is kept in `CORE_FAULT`
when that is empty, tests the physical core, and promises a spare or fences the slice; and the hub replays the work it stopped
within its reserve, or its commands end with `PAGE_LOST`.
(The cycles a replay takes are DEDUCED, log 85; that any core commits a W task is a DESIGN CHOICE, log 142.) -/
def Obligations.CoresFaultAndReplay : Prop :=
  ∀ (s : State) (l : Nat),
    (unitPresent s (.slice (coreSlice l)) = true → (coreAt s l).stopped = false →
      sliceFenced s (coreSlice l) s.time.frame = false →
      (solsticeSlice s (coreSlice l) = false → allBlocked s l = true → Completes (.deadlockDetect l) s (CoreFaulted s l 3 7 7)) ∧
      (overruns s l = true → Completes (.frameOverrunWatchdog l) s (CoreFaulted s l 4 7 7)) ∧
      (solsticeSlice s (coreSlice l) = true → Completes (.solsticeBarrierTimeout l) s (CoreFaulted s l 7 7 7)) ∧
      (∀ n g p k cause engine queue, placeServed (spareAt s n g) p = some k → coreNo n g (k / 12) (k % 12) = l →
        unitPresent s (.core n g p) = true → 1 ≤ cause → cause ≤ 7 → engine ≤ 7 → queue ≤ 7 →
        (if solsticeSlice s (coreSlice l) = true then 3 < cause else cause ≠ 7) →
        Completes (.coreFault (.core n g p) cause engine queue) s (CoreFaulted s l cause engine queue)) ∧
      (∀ task c, cmdAt s task.cid = some c → c.result = none → sliceOut s (coreSlice l) s.time.frame = false →
        replayWaits s (coreSlice l) task.cid = false →
        let row := Instr.piccoloTaskCommit l task
        let r := runCredits (solsticeSlice s (coreSlice l)) (creditsOf (coreAt s l)) (coreAt s l).waits task.credits
        let moved := if task.credits = [] then s else updCore s l (fun x => { x with credits := r.1, waits := r.2.1 })
        let u := (runPad moved l c.hdr.part task.pad).1
        (∀ cause q e, r.2.2 = .fault cause q e → Completes row s (CoreFaulted s l cause e q)) ∧
        (r.2.2 = .blocked → exec row s = .next moved) ∧
        (∀ e, r.2.2 = .done → (runPad moved l c.hdr.part task.pad).2 = some e → Completes row s (CoreFaulted s l 5 e 7)) ∧
        (r.2.2 = .done → (runPad moved l c.hdr.part task.pad).2 = none → Completes row s (fun t =>
          (coreAt t l).credits = (if task.credits = [] then (coreAt s l).credits else r.1) ∧ (coreAt t l).stopped = false ∧
          (task.kind = .write → ∀ w q base fixed, (sliceAt s (coreSlice l)).ordq.filter (fun w => w.cid == task.cid) = w :: q →
            ordBase s (coreSlice l) w .none = .ok (base, fixed) → Written s t (coreSlice l) w base) ∧
          (∀ w g p tc, taskPage task.kind = some g → mget (sliceAt s (coreSlice l)).work task.cid = some w →
            w.pages[g]? = some p → taskCtx c p = some tc → p.frame ≤ s.time.frame →
            assigned (scoreCore u (coreSlice l)) tc.x.dv (l % 12) task.kind = true →
            boardFull (sliceAt s (coreSlice l)) w task.kind = false →
            ∃ v, mget (sliceAt t (coreSlice l)).work task.cid = some v ∧
              let done := runTask c w (fun q => (stagedBytes (sliceAt s (coreSlice l)) tc.x q).bind (taskRaw tc.x q)) task.kind
              v.pages.map (fun q => { q with cores := [] }) = done.pages.map (fun q => { q with cores := [] }) ∧
              v.folds = done.folds))))) ∧
    ((coreAt s l).stopped = true → exec (.deadlockDetect l) s = .next s ∧ exec (.frameOverrunWatchdog l) s = .next s ∧
      exec (.solsticeBarrierTimeout l) s = .next s ∧ ∀ task, exec (.piccoloTaskCommit l task) s = .next s) ∧
    (solsticeSlice s (coreSlice l) = true ∨ allBlocked s l = false → exec (.deadlockDetect l) s = .next s) ∧
    (solsticeSlice s (coreSlice l) = false → exec (.solsticeBarrierTimeout l) s = .next s) ∧
    (∀ i core r, s.ras.replays.find? (fun r => r.slice == i && r.core == core) = some r → r.frame < s.time.frame →
      (∀ q ∈ s.ras.replays, hubOfSlice q.slice = hubOfSlice i → q.frame < s.time.frame → i ≤ q.slice) →
      let used := if hubOfSlice i = 1 then (resAt s s.time.frame).replay1 else (resAt s s.time.frame).replay0
      let fits := sliceOut s i s.time.frame = false ∧ used + replayCycles s r ≤ 16 * mergeCycles s.time.len
      Completes (.coreReplay i core) s (fun t =>
        t.ras.replays = s.ras.replays.filter (fun q => q != r) ∧ SameSectors s t ∧
        (fits → (if hubOfSlice i = 1 then (resAt t s.time.frame).replay1 else (resAt t s.time.frame).replay0) =
            used + replayCycles s r ∧
          ∀ cid c w, r.cids = [cid] → cmdAt s cid = some c → mget (sliceAt s i).work cid = some w →
            badPage s i c w r.frame = none → ∃ v, mget (sliceAt t i).work cid = some v ∧
              v.pages = (finishPages c w (workData s i c) r.frame).pages) ∧
        (¬ fits → ∀ cid ∈ r.cids, replies s cid = true →
          (outcomeOf t cid).map (fun o => o.status) = some stPAGELOST)))

/-- R143–R148, R161, R183–R187, R274, R598, R621: once every slice partial has left and the service frame has come, an
attending command ends with the fold of its partials, each board member's records in ascending position on the lead; a member
that is missing ends it with `FENCED`, reason 0x01; and the outputs of a `STATE_STEP` leave after its output frame, ending it
there when that frame is also its completion frame.
(What a member that does not lead answers is DEDUCED, log 90.) -/
def Obligations.FoldsEndTheAttendingCommands : Prop :=
  ∀ (s : State) (cid : Nat) (c : Cmd) (peers : List PeerRecord), cmdAt s cid = some c → c.st = .acted → c.result = none →
    ([opATTEND, opVERIFY, opSELECT].contains c.hdr.opcode = true →
      (s.time.frame < c.planD.service ∨ workReady s cid = false → exec (.mergeFold cid peers) s = .next s) ∧
      (c.planD.service ≤ s.time.frame → workReady s cid = true → replies s cid = true →
        let own := ownRecords s cid c
        let g := groupOfCmd s c
        (g ≤ 1 → Ends (.mergeFold cid peers) s cid (attendOutcome c own (recordsBody c own 0)) (fun t => SameSectors s t)) ∧
        (2 ≤ g → isLead s = true →
          ((∃ b, b < g ∧ b ≠ s.hw.pos ∧ ∀ p ∈ peers, p.pos ≠ b) → exec (.mergeFold cid peers) s = .next s) ∧
          ((∀ b, b < g → b = s.hw.pos ∨ ∃ p ∈ peers, p.pos = b) →
            let all := mergedRecords s c own g peers
            let d := { c with late := c.late || peers.any (fun p => p.late) }
            Ends (.mergeFold cid peers) s cid (attendOutcome d all (recordsBody d all flPeer)) (fun t => SameSectors s t))) ∧
        (2 ≤ g → isLead s = false →
          Ends (.mergeFold cid peers) s cid (attendOutcome c own []) (fun t => SameSectors s t)) ∧
        (∀ missing, isLead s = true → c.planD.service < s.time.frame → missing % 2 ^ g ≠ 0 →
          bit (missing % 2 ^ g) s.hw.pos = false →
          Ends (.peerRecordMissing cid missing) s cid
            (keepHandle s c (outcome stFENCED (fencedDetail 0x01 (missing % 2 ^ g)) c.planD.cframe 0 0))
            (fun t => SameSectors s t)))) ∧
    (c.hdr.opcode = opSTEP → c.outSent = false → outputsWait s cid = false → c.planD.outFrame ≤ s.time.frame →
      (stepOutputs s cid c = none → exec (.mergeFold cid peers) s = .next s) ∧
      (∀ body, stepOutputs s cid c = some body →
        (c.planD.outFrame ≠ c.planD.cframe → Completes (.mergeFold cid peers) s (fun t =>
          (cmdAt t cid).map (fun d => (d.outSent, d.result)) = some (true, none) ∧ SameSectors s t)) ∧
        (c.planD.outFrame = c.planD.cframe → replies s cid = true →
          (c.hdr.commit = true → ∀ e ∈ s.slices, ∀ w ∈ mgetD e.2.states cid [], w.written = true) →
          Ends (.mergeFold cid peers) s cid ⟨stOK, 0, c.planD.cframe, c.hdr.nhead * c.hdr.tok, 0, body, c.late⟩
            (fun t => SameSectors s t))))

/-- R92–R99, R210, R242–R244, R264, R324, R325: a filled page is uploaded from its slice, coded at the hub, its insert queued when
its stream's index is complete, and sealed in its slice under a new version, every sector of its chunks written, its sealed form in
force from the frame after; an upload whose read fails is reported and admitted again; a dirty page is written back raw or coded.
(When a page of an indexed stream takes its version is DEDUCED, log 113; the failed upload, log 139.) -/
def Obligations.PagesAreCodedAndSealed : Prop :=
  ∀ (s : State) (n : Nat) (j : Job), jobAt s n = some j → j.left = none → ∀ x, streamAt s j.handle = some x →
    (∀ raw, j.kind = .code → j.target ≤ s.time.frame →
      (j.source = 2 ∧ raw = j.coded ∨
        j.source = 0 ∧ ∃ t, t0At s j.handle j.page = some t ∧ raw = rawPage x.fmt x.dcode t.rows t.trailer) →
      Completes (.sealCode n) s (fun t => Coded s n j x raw t ∧ Only (touches (.sealCode n)) s t)) ∧
    (∀ e i k ent, j.granted = some e → pageEnt s j.handle j.page = some (i, k, ent) →
      (sliceOut s i s.time.frame = false →
        (j.kind = .upload → rerunDue s (jobOwner n) = false →
          (∀ raw, openRaw s x ent i 64 = .ok raw → Completes (.sealUpload n) s (fun t => jobAt t n = some { j with
            kind := .code, source := 2, coded := raw, target := max e s.time.frame + 1, granted := none } ∧ Only [.jobs] s t)) ∧
          (∀ c, openRaw s x ent i 64 = .error c → Completes (.sealUpload n) s (fun t =>
            jobAt t n = some { j with granted := none, acted := false, target := s.adm.closed + 1 } ∧
            t.ras.reports = s.ras.reports ++ [(.rowGroup i (c / 3), 0x03, 0)] ∧ Only [.jobs, .reports] s t))) ∧
        (j.kind = .seal → j.acted = false → rerunDue s (jobOwner n) = false → Completes (.sealJob n) s (fun t =>
          let c := sealChunk x ent
          let v := (sealDraw s n).2
          jobAt t n = some { j with acted := true, ver := some v } ∧
          (j.ver = none → v = (nextVersion 64 (sliceAt s i) c j.k).1) ∧
          dueAt t (max e s.time.frame + 1) (jobOwner n) (.sealedForm j.handle j.page v j.coded.length c j.k) ∧
          (∀ m, m < 8 * ceilDiv j.coded.length 4096 →
            (sectorOf t i (8 * c + m)).map (fun y => (y.plain, y.key, y.addr)) =
              some (fitTo 512 (slice j.coded (512 * m) 512), partKey s x.part, psaOf i (c + m / 8) (m % 8))) ∧
          Only (touches (.sealJob n)) s t)) ∧
        (∀ t, j.kind = .writePart → j.acted = false → t0At s j.handle j.page = some t → Completes (.writeBackJob n) s (fun u =>
          jobAt u n = some { j with acted := true } ∧
          dueAt u (max e s.time.frame + 1) (jobOwner n) (.openInSlice j.handle j.page ent.version) ∧
          (∃ ws, (sliceAt u i).ordq = (sliceAt s i).ordq ++ ws ∧ ∀ w ∈ ws, w.cid = jobOwner n ∧ w.done = max e s.time.frame) ∧
          SameSectors s u))) ∧
      (sliceOut s i s.time.frame = true → j.kind = .upload → rerunDue s (jobOwner n) = false → Completes (.sealUpload n) s (fun t =>
        jobAt t n = some { j with granted := none, acted := false, target := s.adm.closed + 1 } ∧ Only [.jobs] s t))) ∧
    (∀ t q, j.kind = .code → j.source = 1 → j.target ≤ s.time.frame → wbFirst s n j = true →
      t0At s j.handle j.page = some t → pageEnt s j.handle j.page = some q →
      (∀ u, takeTiles s (hubOfHandle j.handle) (blockCount x.dcode) = some u → Completes (.writeBackJob n) s (fun v =>
        Coded s n j x (rawPage x.fmt x.dcode t.rows t.trailer) v ∧ Only (touches (.writeBackJob n)) s v)) ∧
      (takeTiles s (hubOfHandle j.handle) (blockCount x.dcode) = none → exec (.writeBackJob n) s = .next s))

/-- R186, R189, R315, R168, R169: with the last re-run of a stopped owner, what waits for it takes effect in the frame after the
latest of its sequences completes, and a `STATE_STEP`'s outputs leave with its new output frame; until then the other re-runs keep
the frames this one gives. A request context is released when its hold has ended, and its handle is remembered as expired. -/
def Obligations.RerunsAndHeldContexts : Prop :=
  ∀ s : State,
    (∀ n j e c, jobAt s n = some j → j.kind = .rerun → j.granted = some e → j.acted = false → cmdAt s j.cid = some c →
      (if c.hdr.opcode = opSTEP then j.target else e) ≤ s.time.frame →
      let cf := max j.frames.1 (max e s.time.frame)
      let out := max j.frames.2 j.target
      let rest := if s.time.frame < e then updJob s n (fun y => { y with acted := true }) else delJob s n
      Completes (.longSequenceRerun n) s (fun t => Only (touches (.longSequenceRerun n)) s t ∧
        (rerunDue rest j.cid = true → t.adm.effs = s.adm.effs ∧ t.adm.cmds = s.adm.cmds ∧
          ∀ m y, jobAt t m = some y → y.kind = .rerun → y.cid = j.cid → y.acted = false → cf ≤ y.frames.1 ∧ out ≤ y.frames.2) ∧
        (rerunDue rest j.cid = false →
          (∀ f ∈ t.adm.effs, f.cid = j.cid → f.frame = cf + 1) ∧
          (cmdAt t j.cid).map (fun d => d.plan) = some (c.plan.map (fun p =>
            { p with cframe := cf, service := cf, outFrame := if c.outSent then p.outFrame else out }))))) ∧
    (∀ n j e, jobAt s n = some j → j.kind = .rerun → j.granted = some e → (∀ c, cmdAt s j.cid = some c → c.hdr.opcode ≠ opSTEP) →
      s.time.frame < e → exec (.longSequenceRerun n) s = .next s) ∧
    (∀ hub slot x, mget (hubAt s hub).ctxs slot = some x →
      (x.expiry < s.time.frame → Completes (.vpoolHoldExpiry hub slot) s (fun t =>
        mget (hubAt t hub).lostCtx slot = some (x.part * 2 ^ 19 + x.gen, 3) ∧
        (Rising (hubAt s hub).ctxs → mget (hubAt t hub).ctxs slot = none) ∧
        Only (touches (.vpoolHoldExpiry hub slot)) s t)) ∧
      (s.time.frame ≤ x.expiry → exec (.vpoolHoldExpiry hub slot) s = .next s))

/-- R520, R522, R525, R526, R532, R653: at its equinox the pending map becomes current and the current one old, dropped when its
grace ends; a pending change of a time-slicing group is its calendar from its switch frame on; a faulted partition is reset in the
frame after; and a partition whose chunks are zeroed is active again, or free after a destroy, whose command ends. -/
def Obligations.MapsCalendarsAndZeroing : Prop :=
  ∀ s : State,
    (∀ old m, s.maps.cur = some old → s.maps.pend = some m →
      (m.equinox ≤ s.time.frame → Completes .equinox s (fun t =>
        t.maps.cur = some m ∧ t.maps.pend = none ∧ t.maps.old = some old ∧ t.maps.oldEnd = m.equinox + m.grace ∧
        Only (touches .equinox) s t)) ∧
      (s.time.frame < m.equinox → exec .equinox s = .next s)) ∧
    (s.maps.old ≠ none → s.maps.oldEnd ≤ s.time.frame → exec .mapGraceEnd s = .next { s with maps := { s.maps with old := none } }) ∧
    (s.time.frame < s.maps.oldEnd → exec .mapGraceEnd s = .next s) ∧
    (∀ g f k w kind, (groupAt s g).pending = some (f, k, w, kind) →
      (f ≤ s.time.frame → Completes (.timeSliceSwitch g) s (fun t =>
        groupAt t g = ⟨f, none, (groupAt s g).ghosts.filter (fun e => !(kind == 0 && e.1 == k))⟩ ∧
        (kind ≠ 0 → (partAt s k).tsgEn = true → (partAt s k).tsg = g → partAt t k = { partAt s k with tsWeight := w }) ∧
        (∀ j, j ≠ k → partAt t j = partAt s j) ∧ Only (touches (.timeSliceSwitch g)) s t)) ∧
      (s.time.frame < f → exec (.timeSliceSwitch g) s = .next s)) ∧
    (∀ k, partStateLast s k = 1 ∨ partStateLast s k = 2 ∨ partStateLast s k = 3 → Completes (.partitionFault k) s (fun t =>
      dueAt t (s.time.frame + 1) 0 (.resetPart k 1) ∧ Only [.effs] s t)) ∧
    (∀ k, (partAt s k).state = 4 ∨ (partAt s k).state = 5 → (partAt s k).waitDraw = false → zeroed s k = true →
      ((partAt s k).destroying = false → Completes (.zeroingComplete k) s (fun t =>
        partAt t k = { partAt s k with state := 1, actFrom := s.time.frame + 1 } ∧ t.ras.written = s.ras.written + 1 ∧
        Only (touches (.zeroingComplete k)) s t)) ∧
      ((partAt s k).destroying = true → Completes (.zeroingComplete k) s (fun t =>
        (partAt t k).state = 0 ∧ (partAt t k).resets = (partAt s k).resets ∧
        (∀ cid c, cmdAt s cid = some c → c.hdr.opcode = opPART → c.hdr.part = k → c.hdr.pcOp = 0x02 → c.st = .waiting →
          c.result = none → replies s cid = true → (outcomeOf t cid).map (fun o => o.status) = some stOK) ∧
        Only (touches (.zeroingComplete k)) s t))) ∧
    (∀ k, (partAt s k).state ≠ 4 → (partAt s k).state ≠ 5 → exec (.zeroingComplete k) s = .next s)

/-- R579–R584, R591, R609–R613: an error report fences its unit at the next frame start or starts its targeted test, a row group's as a
job of its slice; a test that passes is a transient, the third within 10 s fences the unit, and so does a failure; the walk tests
the next row group of every slice, and a group that fails is replaced by a spare while the slice has one, else retired.
(When a row group is repaired is DEDUCED, log 83.) -/
def Obligations.UnitsAreTestedAndFenced : Prop :=
  ∀ s : State,
    (∀ u cause data held, unitPresent s u = true → reportOk u cause = true → (∀ f ∈ s.ras.fences, f.unit ≠ u) →
      (cause = 0x06 ∨ cause = 0x0B → Completes (.errorReport u cause data held) s (fun t =>
        ⟨u, cause, s.time.frame + 1⟩ ∈ t.ras.fences ∧ t.ras.flash = s.ras.flash ++ [(u, cause)] ∧
        Only (touches (.errorReport u cause data held)) s t)) ∧
      (cause ≠ 0x06 → cause ≠ 0x0B → quarOf s u = none → Completes (.errorReport u cause data held) s (fun t =>
        ⟨u, cause, quarStart s u, false, none, none, []⟩ ∈ t.ras.quar ∧ s.ras.written < t.ras.written ∧
        (∀ i g, u = .rowGroup i g → ∃ n j, jobAt t n = some j ∧ j.kind = .rowTest ∧ j.slice = i ∧ j.page = g ∧ j.granted = none) ∧
        Only (touches (.errorReport u cause data held)) s t))) ∧
    (∀ u cause data held, (∃ f ∈ s.ras.fences, f.unit = u) → exec (.errorReport u cause data held) s =
      .next { s with ras := { s.ras with reports := s.ras.reports.erase (u, cause, data) } }) ∧
    (∀ n, unitPresent s (.stack n) = true → (∀ f ∈ s.ras.fences, f.unit ≠ .stack n) → quarOf s (.stack n) = none →
      Completes (.heartbeatLost n) s (fun t => ⟨.stack n, 0x0A, quarStart s (.stack n), false, none, none, []⟩ ∈ t.ras.quar ∧
        Only (touches (.heartbeatLost n)) s t)) ∧
    (∀ u passed held q, (∀ i g, u ≠ .rowGroup i g) → (∀ p, u ≠ .port p) → (∀ b, u ≠ .blink b) → quarOf s u = some q →
      q.requested = none → (∀ f ∈ s.ras.fences, f.unit ≠ u) → Completes (.targetedTestComplete u passed held) s (fun t =>
        (passed = true → q.worse = false → recentTransients s u < 2 → quarOf t u = none ∧ t.ras.fences = s.ras.fences ∧
          (u, s.time.bint) ∈ t.ras.transients) ∧
        (passed = false ∨ q.worse = true ∨ 2 ≤ recentTransients s u → ⟨u, q.cause, s.time.frame + 1⟩ ∈ t.ras.fences) ∧
        Only (touches (.targetedTestComplete u passed held)) s t)) ∧
    (s.ras.bgEn = true → s.ras.bgLast + s.ras.bgInterval ≤ s.time.bint → Completes .bgtestStart s (fun t =>
      t.ras.bgGroup = (s.ras.bgGroup + 1) % 8192 ∧ t.ras.bgLast = s.time.bint ∧
      (∀ i, i < sliceCount s → sliceFenced s i s.time.frame = false →
        ∃ n j, jobAt t n = some j ∧ j.kind = .rowTest ∧ j.slice = i ∧ j.page = s.ras.bgGroup) ∧ Only (touches .bgtestStart) s t)) ∧
    (s.ras.bgEn = false ∨ s.time.bint < s.ras.bgLast + s.ras.bgInterval → exec .bgtestStart s = .next s) ∧
    (∀ i g mismatch bad n j f, s.adm.jobs.find? (fun e => e.2.kind == .rowTest && e.2.slice == i && e.2.page == g &&
        (match e.2.granted with
         | some f => decide (f ≤ s.time.frame)
         | none => false)) = some (n, j) → j.granted = some f →
      (quarOf s (.rowGroup i g) = none → mismatch = false → bad = [] →
        exec (.rowGroupTestDone i g mismatch bad) s = .next (delJob s n)) ∧
      (quarOf s (.rowGroup i g) = none → mismatch = true → Completes (.rowGroupTestDone i g mismatch bad) s (fun t =>
        ((sliceAt s i).spares.length < 4 → mget (sliceAt t i).spares g = some (sliceAt s i).spares.length) ∧
        (4 ≤ (sliceAt s i).spares.length → g ∈ (sliceAt t i).retired) ∧ (∀ x ∈ t.ras.fences, x.unit ≠ .rowGroup i g) ∧
        Only (touches (.rowGroupTestDone i g mismatch bad)) s t)))

/-- R457, R603–R608: a lane that goes down leaves its port, which narrows to what its good lanes allow, at once when both partners
have the lane-map capability and by a retraining when not; the fourth flap of a lane within a second damps it; a port without a
link goes down, and comes up at the width its tested lanes allow.
(The port's lane test is DEDUCED, log 38.) -/
def Obligations.LanesAndPortsFollowTheirLinks : Prop :=
  ∀ (s : State) (p : Nat),
    (∀ l, laneOk s p l = true →
      let k := ((goodLanes s p).filter (fun x => x != l)).length
      Completes (.laneDown p l) s (fun t =>
        bit (portAt t p).laneOut l = true ∧
        (quarOf s (laneUnit p l) = none → ∃ q ∈ t.ras.quar, q.unit = laneUnit p l ∧ q.cause = 0x0E ∧ q.back = none) ∧
        ((portAt s p).up = true → (portAt s p).lanes ≠ 0 →
          (widthFor p k = 0 → (portAt t p).up = false ∧ (portAt t p).lanes = 0) ∧
          (widthFor p k = (portAt s p).lanes → (portAt t p).up = true ∧ (portAt t p).lanes = (portAt s p).lanes) ∧
          (widthFor p k ≠ 0 → widthFor p k ≠ (portAt s p).lanes →
            (laneMap s p = true → (portAt t p).up = true ∧ (portAt t p).lanes = widthFor p k) ∧
            (laneMap s p = false → (portAt t p).up = false))) ∧
        Only (touches (.laneDown p l)) s t) ∧
      ∀ now, let recent := (mgetD (portAt s p).flapTimes l []).filter (fun t => decide (now < t + 1000000000))
        (recent.length < 3 → Completes (.laneFlap p l now) s (fun t =>
          (portAt t p).flaps = min 8191 ((portAt s p).flaps + 1) ∧ (portAt t p).laneOut = (portAt s p).laneOut ∧
          Only [.ports] s t)) ∧
        (3 ≤ recent.length → Completes (.laneFlap p l now) s (fun t =>
          bit (portAt t p).damped l = true ∧ bit (portAt t p).laneOut l = true ∧ Only (touches (.laneFlap p l now)) s t))) ∧
    (∀ l, laneOk s p l = false → exec (.laneDown p l) s = .next s ∧ ∀ now, exec (.laneFlap p l now) s = .next s) ∧
    (portPresent s p = true → (portAt s p).up = true → Completes (.portDown p) s (fun t =>
      (portAt t p).up = false ∧ (portAt t p).lanes = 0 ∧ Only (touches (.portDown p)) s t)) ∧
    ((portAt s p).up = false → exec (.portDown p) s = .next s) ∧
    (∀ lanes lmap, portPresent s p = true → (portAt s p).up = false → p < 20 → (∀ f ∈ s.ras.fences, f.unit ≠ portUnit p) →
      let good := (List.range (laneCount p)).filter (fun l => !bit (portAt s p).laneOut l && bit lanes l)
      (widthFor p good.length ≠ 0 → quarOf s (portUnit p) = none → Completes (.portUp p lanes lmap) s (fun t =>
        (portAt t p).up = true ∧ (portAt t p).lanes = widthFor p good.length ∧
        (portAt t p).lmap = (lmap || decide (16 ≤ p)) ∧ Only (touches (.portUp p lanes lmap)) s t)) ∧
      (widthFor p good.length = 0 → exec (.portUp p lanes lmap) s = .next s)) ∧
    (∀ lanes lmap, (portAt s p).up = true → exec (.portUp p lanes lmap) s = .next s)

/-- R353–R362, R564: a NAND read brings its image to restore staging, one whose tag fails is lost and one that cannot be read retires
its block; a program puts a staged page into a block that may take it, and one that fails, like a failing erase, retires the block
and leaves the capacity that the blocks in service give; and data moves off blocks that wear levelling or read disturb names;
programs wait for restore reads, and relocation for both unless free blocks are low.
(The block within the least-worn rule is the row's, DESIGN CHOICE, log 63; that rows that relocate are served as they arise is
DEDUCED, log 151.) -/
def Obligations.NandKeepsParkedPages : Prop :=
  ∀ (s : State) (c b target : Nat),
    (∀ hub h p cid u img, takeRead s hub h p = some (cid, u) → mget (ftlAt s hub).images (t0Key h p) = some img →
      (parkTagOk (partKey s img.part) h p img = true → Completes (.nandReadDone hub h p) s (fun t =>
        mget (ftlAt t hub).restStage (t0Key h p) = some img ∧ Only (touches (.nandReadDone hub h p)) s t)) ∧
      (parkTagOk (partKey s img.part) h p img = false → hub = hubOfHandle h → (hubAt s hub).lostPages.length < 262144 →
        Completes (.nandReadDone hub h p) s (fun t =>
          (mget (ftlAt t hub).images (t0Key h p)).map (fun m => m.lost) = some true ∧
          mget (hubAt t hub).lostPages (t0Key h p) = some 0x05 ∧ Only (touches (.nandReadDone hub h p)) s t)) ∧
      (img.staged = false → imagesIn s (img.block / 2 ^ 20) (img.block % 2 ^ 20) = [(t0Key h p, img)] →
        hub = hubOfChannel (img.block / 2 ^ 20) → Completes (.nandReadFail hub h p target) s (fun t =>
          (blockAt t (img.block / 2 ^ 20) (img.block % 2 ^ 20)).retired = true ∧
          Only (touches (.nandReadFail hub h p target)) s t))) ∧
    (∀ hub h p img, mget (ftlAt s hub).images (t0Key h p) = some img → (ftlAt s hub).programs.contains (h, p) = true →
      img.staged = true → hubOfChannel c = hub →
      (takesData s c b (ceilDiv img.bytes 16384) = true → (ftlAt s hub).reads = [] → Completes (.nandProgramDone hub h p c b) s (fun t =>
        mget (ftlAt t hub).images (t0Key h p) = some { img with staged := false, block := blockNo c b } ∧
        (ftlAt t hub).parkStage = (ftlAt s hub).parkStage - parkBytes img ∧ (blockAt t c b).written = true ∧
        Only (touches (.nandProgramDone hub h p c b)) s t)) ∧
      (takesData s c b (ceilDiv img.bytes 16384) = false ∨ (ftlAt s hub).reads ≠ [] → exec (.nandProgramDone hub h p c b) s = .next s)) ∧
    (blockExists s c b = true → (blockAt s c b).retired = false →
      (imagesIn s c b = [] →
        Completes (.nandEraseFail c b) s (fun t => (blockAt t c b).retired = true ∧
          (hubAt t (hubOfChannel c)).t2usable = usableGb (ftlAt t (hubOfChannel c)) ∧ Only (touches (.nandEraseFail c b)) s t) ∧
        (∀ hub, hubOfChannel c = hub → (ftlAt s hub).programs ≠ [] → Completes (.nandProgramFail hub c b target) s (fun t =>
          (blockAt t c b).retired = true ∧ (ftlAt t hub).images = (ftlAt s hub).images ∧
          Only (touches (.nandProgramFail hub c b target)) s t))) ∧
      (∀ u, moveBlock s c b target = some u → servesMoves s c = true →
        ((imagesIn s c b).isEmpty = false → (blockAt s c b).erases = (eraseRange s c).1 → (eraseRange s c).1 + 200 < (eraseRange s c).2 →
          Completes (.staticWearLevel c b target) s (fun t => t = noteFree u (hubOfChannel c) ∧ imagesIn t c b = [] ∧
            Only (touches (.staticWearLevel c b target)) s t)) ∧
        (∀ weak, weak = true ∨ 200000 ≤ (blockAt s c b).reads → Completes (.readDisturbRelocate c b target weak) s (fun t =>
          (blockAt t c b).erases = (blockAt u c b).erases + 1 ∧ (blockAt t c b).reads = 0 ∧ (blockAt t c b).written = false ∧
          (ftlAt t (hubOfChannel c)).images = (ftlAt u (hubOfChannel c)).images ∧
          Only (touches (.readDisturbRelocate c b target weak)) s t)))) ∧
    (servesMoves s c = false → exec (.staticWearLevel c b target) s = .next s ∧
      ∀ weak, exec (.readDisturbRelocate c b target weak) s = .next s) ∧
    (blockExists s c b = false ∨ (blockAt s c b).retired = true → exec (.nandEraseFail c b) s = .next s ∧
      exec (.staticWearLevel c b target) s = .next s ∧ ∀ weak, exec (.readDisturbRelocate c b target weak) s = .next s)

/-- The frame of every command: what it may change is what its row of `touches` names, and every other part of the state is as it
was: no register, table, stored sector, key, flash slot or message elsewhere moves. -/
def Obligations.ACommandChangesOnlyWhatItMay : Prop :=
  ∀ (i : Instr) (s t : State), exec i s = .next t → Only (touches i) s t

/-- R545, R547, R573, R643, R633: no step changes the fused package, the MAC, the fused secret or an owner anchor once written,
gives the node another `NODE_ID` than the one it has or the digest of the secret's identity key,
lowers the SVN floor, or reorders the commands that wait. -/
def Obligations.TheNodesIdentityOutlivesEveryStep : Prop :=
  ∀ (s t : State), Sys2Proof.Machine.step s = .next t →
    t.hw.variant = s.hw.variant ∧ t.hw.mac = s.hw.mac ∧ t.hw.secret = s.hw.secret ∧
    (t.crypto.nodeId = s.crypto.nodeId ∨ t.crypto.nodeId = nodeIdOf s.hw.secret) ∧
    (s.crypto.ownerSet = true → t.crypto.ownerSet = true ∧ t.crypto.ownerDigest = s.crypto.ownerDigest) ∧
    s.fw.svnFloor ≤ t.fw.svnFloor ∧ t.pending = s.pending.tail

/-- R472, R644, R693 and the addressed buffers of 16_life and 18_registers: a legal state stays legal in every step. The running and next firmware slots
exist, the life-cycle state is one of the four, the event log holds at most its 4,096 records unread, and each buffer keeps its
canonical form. -/
def Obligations.EveryStepKeepsTheStateLegal : Prop :=
  ∀ (s t : State), Legal s → Sys2Proof.Machine.step s = .next t → Legal t

/-- Tables 2-1, 2-11, 5-5, 11-20, 12-1 to 12-8, 15-3, 14-7: the reset values the spec gives, as register reads show them, with no event
logged and no command, and the state is legal. -/
def Obligations.ResetHoldsTheValuesTheTablesGive : Prop :=
  Legal State.reset ∧ State.reset.pending = [] ∧ State.reset.life.state = 0 ∧
  ∀ r ∈ ([(0x10000, 0x1), (0x10010, 0), (0x10018, 0), (0x20000, 0x3D7119A001B), (0x20010, 0), (0x30000, 0), (0x30008, 0),
      (0x30010, 0x10000001), (0x30018, 0), (0x40000, 0x6), (0x08, 0xC289D00010084010), (0x18, 0), (0x20, 0),
      (0x60000, 0xE0082926A2C2E), (0x60008, 0x802030008), (0x60010, 0x404010000500), (0x100000, 0x100000000120), (0x200000, 0x100000000120),
      (0x8000008, 0x140), (0x8000010, 0x400FFFF), (0x8000038, 0x543),
      (0x8000040, 0x1000040500), (0x8000300, 0)] : List (Nat × Nat)), (readReg State.reset r.1).map (fun x => x.2) = some r.2

/-- R239–R246: a page decodes from its stored form, coded or raw, to the bytes it had: no element, scale byte or channel scale is lost. -/
def Obligations.APageDecodesFromItsStoredForm : Prop :=
  ∀ (fmt dcode : Nat) (raw : Bytes), fmt ≤ 7 → dcode ≤ 5 → raw.length = rawSize fmt dcode →
    (encodePage fmt dcode raw).length ≤ rawSize fmt dcode ∧
    decodePage fmt dcode (encodePage fmt dcode raw).length ((encodePage fmt dcode raw).length == rawSize fmt dcode)
      (encodePage fmt dcode raw) = some raw
end

