-- ==== Sys2Proof/Laws/Maps.lean ====
section
/-!
SUPPORT. Sparse maps and addressed buffers: reads after writes, that the keys keep rising, and that every buffer operation keeps
the canonical form.
-/

namespace Sys2Proof.Machine

variable {α : Type}

/-! ## Reads after writes -/

theorem mget_mset_same (m : SMap α) (k : Nat) (v : α) : mget (mset m k v) k = some v := by
  induction m with
  | nil => simp [mset, mget]
  | cons e r ih =>
    simp only [mset]
    split
    · simp [mget]
    · split
      · simp [mget]
      · rename_i h1 h2; simp [mget, Ne.symm h2, ih]

theorem mget_mset_other (m : SMap α) (k j : Nat) (v : α) (h : j ≠ k) : mget (mset m k v) j = mget m j := by
  induction m with
  | nil => simp [mset, mget, Ne.symm h]
  | cons e r ih =>
    simp only [mset]
    split
    · simp [mget, Ne.symm h]
    · split
      · rename_i h1 h2; subst h2; simp [mget, Ne.symm h]
      · simp [mget, ih]

theorem mget_mset (m : SMap α) (k j : Nat) (v : α) : mget (mset m k v) j = if j = k then some v else mget m j := by
  split
  · rename_i h; subst h; exact mget_mset_same m j v
  · rename_i h; exact mget_mset_other m k j v h

@[simp] theorem mgetD_mupd_same (m : SMap α) (k : Nat) (d : α) (f : α → α) : mgetD (mupd m k d f) k d = f (mgetD m k d) := by
  simp [mgetD, mupd, mget_mset_same]

theorem mgetD_mupd_other (m : SMap α) (k j : Nat) (d e : α) (f : α → α) (h : j ≠ k) : mgetD (mupd m k d f) j e = mgetD m j e := by
  simp [mgetD, mupd, mget_mset_other _ _ _ _ h]

theorem mget_mmod_same (m : SMap α) (k : Nat) (f : α → α) : mget (mmod m k f) k = (mget m k).map f := by
  unfold mmod; split
  · rename_i v h; simp [mget_mset_same, h]
  · rename_i h; simp [h]

theorem mget_mmod_other (m : SMap α) (k j : Nat) (f : α → α) (h : j ≠ k) : mget (mmod m k f) j = mget m j := by
  unfold mmod; split
  · exact mget_mset_other _ _ _ _ h
  · rfl

theorem mget_mdel_other (m : SMap α) (k j : Nat) (h : j ≠ k) : mget (mdel m k) j = mget m j := by
  induction m with
  | nil => simp [mdel]
  | cons e r ih =>
    simp only [mdel]
    split
    · rename_i h1; subst h1; simp [mget, Ne.symm h]
    · simp [mget, ih]

theorem mget_none_of_lt (m : SMap α) (k : Nat) (h : ∀ e ∈ m, k < e.1) : mget m k = none := by
  induction m with
  | nil => rfl
  | cons e r ih =>
    have := h e (by simp)
    simp only [mget]
    rw [if_neg (by omega)]
    exact ih (fun x hx => h x (by simp [hx]))

theorem mget_mem {m : SMap α} {k : Nat} {v : α} (h : mget m k = some v) : (k, v) ∈ m := by
  induction m with
  | nil => simp [mget] at h
  | cons e r ih =>
    simp only [mget] at h
    split at h
    · rename_i hk; injection h with h; subst hk; subst h; simp
    · simp [ih h]

/-! ## Rising keys -/

theorem rising_cons {e : Nat × α} {r : SMap α} : Rising (e :: r) ↔ (∀ x ∈ r, e.1 < x.1) ∧ Rising r := by
  simp [Rising, List.pairwise_cons]

theorem rising_nil : Rising ([] : SMap α) := by simp [Rising]

theorem msorted_eq (m : SMap α) : msorted m = true ↔ Rising m := by
  induction m with
  | nil => simp [msorted, Rising]
  | cons e r ih =>
    cases r with
    | nil => simp [msorted, Rising]
    | cons x r =>
      rw [rising_cons]
      simp only [msorted, Bool.and_eq_true, decide_eq_true_eq, ih]
      constructor
      · rintro ⟨h, hr⟩
        refine ⟨?_, hr⟩
        intro y hy
        rcases List.mem_cons.mp hy with rfl | hy
        · exact h
        · exact Nat.lt_trans h ((rising_cons.mp hr).1 y hy)
      · rintro ⟨h, hr⟩
        exact ⟨h x (by simp), hr⟩

theorem mem_mset {m : SMap α} {k : Nat} {v : α} {e : Nat × α} (h : e ∈ mset m k v) : e = (k, v) ∨ e ∈ m := by
  induction m with
  | nil => simp [mset] at h; exact .inl h
  | cons x r ih =>
    simp only [mset] at h
    split at h
    · rcases List.mem_cons.mp h with rfl | h
      · exact .inl rfl
      · exact .inr h
    · split at h
      · rcases List.mem_cons.mp h with rfl | h
        · exact .inl rfl
        · exact .inr (List.mem_cons_of_mem _ h)
      · rcases List.mem_cons.mp h with rfl | h
        · exact .inr (by simp)
        · rcases ih h with rfl | h
          · exact .inl rfl
          · exact .inr (List.mem_cons_of_mem _ h)

theorem rising_mset {m : SMap α} (k : Nat) (v : α) (h : Rising m) : Rising (mset m k v) := by
  induction m with
  | nil => simp [mset, Rising]
  | cons x r ih =>
    have hr := rising_cons.mp h
    simp only [mset]
    split
    · rename_i hk
      refine rising_cons.mpr ⟨?_, h⟩
      intro y hy
      rcases List.mem_cons.mp hy with rfl | hy
      · exact hk
      · exact Nat.lt_trans hk (hr.1 y hy)
    · split
      · rename_i hk; subst hk
        exact rising_cons.mpr hr
      · refine rising_cons.mpr ⟨?_, ih hr.2⟩
        intro y hy
        rcases mem_mset hy with rfl | hy
        · simp only; omega
        · exact hr.1 y hy

theorem mem_mdel {m : SMap α} {k : Nat} {e : Nat × α} (h : e ∈ mdel m k) : e ∈ m := by
  induction m with
  | nil => simp [mdel] at h
  | cons x r ih =>
    simp only [mdel] at h
    split at h
    · exact List.mem_cons_of_mem _ h
    · rcases List.mem_cons.mp h with rfl | h
      · simp
      · exact List.mem_cons_of_mem _ (ih h)

theorem rising_mdel {m : SMap α} (k : Nat) (h : Rising m) : Rising (mdel m k) := by
  induction m with
  | nil => exact h
  | cons x r ih =>
    have hr := rising_cons.mp h
    simp only [mdel]
    split
    · exact hr.2
    · exact rising_cons.mpr ⟨fun y hy => hr.1 y (mem_mdel hy), ih hr.2⟩

theorem mget_mdel_same {m : SMap α} (k : Nat) (h : Rising m) : mget (mdel m k) k = none := by
  induction m with
  | nil => rfl
  | cons x r ih =>
    have hr := rising_cons.mp h
    simp only [mdel]
    split
    · rename_i hk; subst hk
      exact mget_none_of_lt r _ hr.1
    · rename_i hk
      simp only [mget]
      rw [if_neg (Ne.symm hk)]
      exact ih hr.2

theorem rising_mupd {m : SMap α} (k : Nat) (d : α) (f : α → α) (h : Rising m) : Rising (mupd m k d f) := rising_mset k _ h

theorem rising_mmod {m : SMap α} (k : Nat) (f : α → α) (h : Rising m) : Rising (mmod m k f) := by
  unfold mmod; split
  · exact rising_mset k _ h
  · exact h

theorem rising_mfilter {m : SMap α} (p : Nat → α → Bool) (h : Rising m) : Rising (mfilter m p) :=
  List.Pairwise.sublist (List.Sublist.map _ List.filter_sublist) h

/-! ## Addressed buffers -/

theorem wf_iff (m : SMap Byte) : Memory.wf m = true ↔ Rising m ∧ ∀ e ∈ m, e.2 ≠ 0#8 := by
  simp [Memory.wf, msorted_eq]

/-- A byte write keeps the canonical form. -/
theorem wf_bset {m : SMap Byte} (k : Nat) (v : Byte) (h : Memory.wf m = true) : Memory.wf (bset m k v) = true := by
  rw [wf_iff] at h ⊢
  unfold bset
  split
  · exact ⟨rising_mdel k h.1, fun e he => h.2 e (mem_mdel he)⟩
  · rename_i hv
    refine ⟨rising_mset k v h.1, fun e he => ?_⟩
    rcases mem_mset he with rfl | he
    · exact hv
    · exact h.2 e he

/-- A write of a byte string keeps the canonical form. -/
theorem wf_bwrite {m : SMap Byte} (k : Nat) (bs : Bytes) (h : Memory.wf m = true) : Memory.wf (bwrite m k bs) = true := by
  induction bs generalizing m k with
  | nil => exact h
  | cons b r ih => exact ih (k + 1) (wf_bset k b h)

/-- A byte reads back as written. -/
theorem bget_bset_same {m : SMap Byte} (k : Nat) (v : Byte) (h : Memory.wf m = true) : bget (bset m k v) k = v := by
  unfold bget bset mgetD
  split
  · rename_i hv; subst hv; simp [mget_mdel_same k ((wf_iff m).mp h).1]
  · simp [mget_mset_same]

/-- A byte write leaves every other byte alone. -/
theorem bget_bset_other (m : SMap Byte) (k j : Nat) (v : Byte) (h : j ≠ k) : bget (bset m k v) j = bget m j := by
  unfold bget bset mgetD
  split
  · rw [mget_mdel_other _ _ _ h]
  · rw [mget_mset_other _ _ _ _ h]

/-- A write of a byte string leaves every byte outside it alone. -/
theorem bget_bwrite_other (m : SMap Byte) (k j : Nat) (bs : Bytes) (h : j < k ∨ k + bs.length ≤ j) :
    bget (bwrite m k bs) j = bget m j := by
  induction bs generalizing m k with
  | nil => rfl
  | cons b r ih =>
    simp only [List.length_cons] at h
    simp only [bwrite]
    rw [ih _ _ (by omega), bget_bset_other _ _ _ _ (by omega)]

/-- A byte string reads back as written. -/
theorem bread_bwrite {m : SMap Byte} (k : Nat) (bs : Bytes) (h : Memory.wf m = true) : bread (bwrite m k bs) k bs.length = bs := by
  induction bs generalizing m k with
  | nil => rfl
  | cons b r ih =>
    simp only [List.length_cons, bread, bwrite]
    rw [bget_bwrite_other _ _ _ _ (by omega), bget_bset_same _ _ h, ih _ (wf_bset k b h)]

end Sys2Proof.Machine
end

