-- ==== Sys2Proof/Laws/State.lean ====
section
/-!
SUPPORT. What each update of a part of the state does to each field: the field it changes and every field it leaves.
-/

namespace Sys2Proof.Machine


/-! ## `updSlice` -/

@[simp] theorem updSlice_pending (s : State) (i : Nat) (f : Slice → Slice) : (updSlice s i f).pending = s.pending := rfl
@[simp] theorem updSlice_hw (s : State) (i : Nat) (f : Slice → Slice) : (updSlice s i f).hw = s.hw := rfl
@[simp] theorem updSlice_pins (s : State) (i : Nat) (f : Slice → Slice) : (updSlice s i f).pins = s.pins := rfl
@[simp] theorem updSlice_life (s : State) (i : Nat) (f : Slice → Slice) : (updSlice s i f).life = s.life := rfl
@[simp] theorem updSlice_fw (s : State) (i : Nat) (f : Slice → Slice) : (updSlice s i f).fw = s.fw := rfl
@[simp] theorem updSlice_time (s : State) (i : Nat) (f : Slice → Slice) : (updSlice s i f).time = s.time := rfl
@[simp] theorem updSlice_adm (s : State) (i : Nat) (f : Slice → Slice) : (updSlice s i f).adm = s.adm := rfl
@[simp] theorem updSlice_parts (s : State) (i : Nat) (f : Slice → Slice) : (updSlice s i f).parts = s.parts := rfl
@[simp] theorem updSlice_hub0 (s : State) (i : Nat) (f : Slice → Slice) : (updSlice s i f).hub0 = s.hub0 := rfl
@[simp] theorem updSlice_hub1 (s : State) (i : Nat) (f : Slice → Slice) : (updSlice s i f).hub1 = s.hub1 := rfl
@[simp] theorem updSlice_slices (s : State) (i : Nat) (f : Slice → Slice) : (updSlice s i f).slices = mupd s.slices i Slice.reset f := rfl
@[simp] theorem updSlice_cores (s : State) (i : Nat) (f : Slice → Slice) : (updSlice s i f).cores = s.cores := rfl
@[simp] theorem updSlice_dramStacks (s : State) (i : Nat) (f : Slice → Slice) : (updSlice s i f).dramStacks = s.dramStacks := rfl
@[simp] theorem updSlice_chains (s : State) (i : Nat) (f : Slice → Slice) : (updSlice s i f).chains = s.chains := rfl
@[simp] theorem updSlice_maps (s : State) (i : Nat) (f : Slice → Slice) : (updSlice s i f).maps = s.maps := rfl
@[simp] theorem updSlice_oboe (s : State) (i : Nat) (f : Slice → Slice) : (updSlice s i f).oboe = s.oboe := rfl
@[simp] theorem updSlice_conns (s : State) (i : Nat) (f : Slice → Slice) : (updSlice s i f).conns = s.conns := rfl
@[simp] theorem updSlice_ports (s : State) (i : Nat) (f : Slice → Slice) : (updSlice s i f).ports = s.ports := rfl
@[simp] theorem updSlice_eg (s : State) (i : Nat) (f : Slice → Slice) : (updSlice s i f).eg = s.eg := rfl
@[simp] theorem updSlice_ras (s : State) (i : Nat) (f : Slice → Slice) : (updSlice s i f).ras = s.ras := rfl
@[simp] theorem updSlice_crypto (s : State) (i : Nat) (f : Slice → Slice) : (updSlice s i f).crypto = s.crypto := rfl
@[simp] theorem updSlice_ftl0 (s : State) (i : Nat) (f : Slice → Slice) : (updSlice s i f).ftl0 = s.ftl0 := rfl
@[simp] theorem updSlice_ftl1 (s : State) (i : Nat) (f : Slice → Slice) : (updSlice s i f).ftl1 = s.ftl1 := rfl
@[simp] theorem updSlice_irq (s : State) (i : Nat) (f : Slice → Slice) : (updSlice s i f).irq = s.irq := rfl
@[simp] theorem updSlice_mbox (s : State) (i : Nat) (f : Slice → Slice) : (updSlice s i f).mbox = s.mbox := rfl
@[simp] theorem updSlice_out (s : State) (i : Nat) (f : Slice → Slice) : (updSlice s i f).out = s.out := rfl

/-! ## `updStack` -/

@[simp] theorem updStack_pending (s : State) (n : Nat) (f : Stack → Stack) : (updStack s n f).pending = s.pending := rfl
@[simp] theorem updStack_hw (s : State) (n : Nat) (f : Stack → Stack) : (updStack s n f).hw = s.hw := rfl
@[simp] theorem updStack_pins (s : State) (n : Nat) (f : Stack → Stack) : (updStack s n f).pins = s.pins := rfl
@[simp] theorem updStack_life (s : State) (n : Nat) (f : Stack → Stack) : (updStack s n f).life = s.life := rfl
@[simp] theorem updStack_fw (s : State) (n : Nat) (f : Stack → Stack) : (updStack s n f).fw = s.fw := rfl
@[simp] theorem updStack_time (s : State) (n : Nat) (f : Stack → Stack) : (updStack s n f).time = s.time := rfl
@[simp] theorem updStack_adm (s : State) (n : Nat) (f : Stack → Stack) : (updStack s n f).adm = s.adm := rfl
@[simp] theorem updStack_parts (s : State) (n : Nat) (f : Stack → Stack) : (updStack s n f).parts = s.parts := rfl
@[simp] theorem updStack_hub0 (s : State) (n : Nat) (f : Stack → Stack) : (updStack s n f).hub0 = s.hub0 := rfl
@[simp] theorem updStack_hub1 (s : State) (n : Nat) (f : Stack → Stack) : (updStack s n f).hub1 = s.hub1 := rfl
@[simp] theorem updStack_slices (s : State) (n : Nat) (f : Stack → Stack) : (updStack s n f).slices = s.slices := rfl
@[simp] theorem updStack_cores (s : State) (n : Nat) (f : Stack → Stack) : (updStack s n f).cores = s.cores := rfl
@[simp] theorem updStack_dramStacks (s : State) (n : Nat) (f : Stack → Stack) : (updStack s n f).dramStacks = mupd s.dramStacks n Stack.reset f := rfl
@[simp] theorem updStack_chains (s : State) (n : Nat) (f : Stack → Stack) : (updStack s n f).chains = s.chains := rfl
@[simp] theorem updStack_maps (s : State) (n : Nat) (f : Stack → Stack) : (updStack s n f).maps = s.maps := rfl
@[simp] theorem updStack_oboe (s : State) (n : Nat) (f : Stack → Stack) : (updStack s n f).oboe = s.oboe := rfl
@[simp] theorem updStack_conns (s : State) (n : Nat) (f : Stack → Stack) : (updStack s n f).conns = s.conns := rfl
@[simp] theorem updStack_ports (s : State) (n : Nat) (f : Stack → Stack) : (updStack s n f).ports = s.ports := rfl
@[simp] theorem updStack_eg (s : State) (n : Nat) (f : Stack → Stack) : (updStack s n f).eg = s.eg := rfl
@[simp] theorem updStack_ras (s : State) (n : Nat) (f : Stack → Stack) : (updStack s n f).ras = s.ras := rfl
@[simp] theorem updStack_crypto (s : State) (n : Nat) (f : Stack → Stack) : (updStack s n f).crypto = s.crypto := rfl
@[simp] theorem updStack_ftl0 (s : State) (n : Nat) (f : Stack → Stack) : (updStack s n f).ftl0 = s.ftl0 := rfl
@[simp] theorem updStack_ftl1 (s : State) (n : Nat) (f : Stack → Stack) : (updStack s n f).ftl1 = s.ftl1 := rfl
@[simp] theorem updStack_irq (s : State) (n : Nat) (f : Stack → Stack) : (updStack s n f).irq = s.irq := rfl
@[simp] theorem updStack_mbox (s : State) (n : Nat) (f : Stack → Stack) : (updStack s n f).mbox = s.mbox := rfl
@[simp] theorem updStack_out (s : State) (n : Nat) (f : Stack → Stack) : (updStack s n f).out = s.out := rfl

/-! ## `updCore` -/

@[simp] theorem updCore_pending (s : State) (i : Nat) (f : Core → Core) : (updCore s i f).pending = s.pending := rfl
@[simp] theorem updCore_hw (s : State) (i : Nat) (f : Core → Core) : (updCore s i f).hw = s.hw := rfl
@[simp] theorem updCore_pins (s : State) (i : Nat) (f : Core → Core) : (updCore s i f).pins = s.pins := rfl
@[simp] theorem updCore_life (s : State) (i : Nat) (f : Core → Core) : (updCore s i f).life = s.life := rfl
@[simp] theorem updCore_fw (s : State) (i : Nat) (f : Core → Core) : (updCore s i f).fw = s.fw := rfl
@[simp] theorem updCore_time (s : State) (i : Nat) (f : Core → Core) : (updCore s i f).time = s.time := rfl
@[simp] theorem updCore_adm (s : State) (i : Nat) (f : Core → Core) : (updCore s i f).adm = s.adm := rfl
@[simp] theorem updCore_parts (s : State) (i : Nat) (f : Core → Core) : (updCore s i f).parts = s.parts := rfl
@[simp] theorem updCore_hub0 (s : State) (i : Nat) (f : Core → Core) : (updCore s i f).hub0 = s.hub0 := rfl
@[simp] theorem updCore_hub1 (s : State) (i : Nat) (f : Core → Core) : (updCore s i f).hub1 = s.hub1 := rfl
@[simp] theorem updCore_slices (s : State) (i : Nat) (f : Core → Core) : (updCore s i f).slices = s.slices := rfl
@[simp] theorem updCore_cores (s : State) (i : Nat) (f : Core → Core) : (updCore s i f).cores = mupd s.cores i Core.reset f := rfl
@[simp] theorem updCore_dramStacks (s : State) (i : Nat) (f : Core → Core) : (updCore s i f).dramStacks = s.dramStacks := rfl
@[simp] theorem updCore_chains (s : State) (i : Nat) (f : Core → Core) : (updCore s i f).chains = s.chains := rfl
@[simp] theorem updCore_maps (s : State) (i : Nat) (f : Core → Core) : (updCore s i f).maps = s.maps := rfl
@[simp] theorem updCore_oboe (s : State) (i : Nat) (f : Core → Core) : (updCore s i f).oboe = s.oboe := rfl
@[simp] theorem updCore_conns (s : State) (i : Nat) (f : Core → Core) : (updCore s i f).conns = s.conns := rfl
@[simp] theorem updCore_ports (s : State) (i : Nat) (f : Core → Core) : (updCore s i f).ports = s.ports := rfl
@[simp] theorem updCore_eg (s : State) (i : Nat) (f : Core → Core) : (updCore s i f).eg = s.eg := rfl
@[simp] theorem updCore_ras (s : State) (i : Nat) (f : Core → Core) : (updCore s i f).ras = s.ras := rfl
@[simp] theorem updCore_crypto (s : State) (i : Nat) (f : Core → Core) : (updCore s i f).crypto = s.crypto := rfl
@[simp] theorem updCore_ftl0 (s : State) (i : Nat) (f : Core → Core) : (updCore s i f).ftl0 = s.ftl0 := rfl
@[simp] theorem updCore_ftl1 (s : State) (i : Nat) (f : Core → Core) : (updCore s i f).ftl1 = s.ftl1 := rfl
@[simp] theorem updCore_irq (s : State) (i : Nat) (f : Core → Core) : (updCore s i f).irq = s.irq := rfl
@[simp] theorem updCore_mbox (s : State) (i : Nat) (f : Core → Core) : (updCore s i f).mbox = s.mbox := rfl
@[simp] theorem updCore_out (s : State) (i : Nat) (f : Core → Core) : (updCore s i f).out = s.out := rfl

/-! ## `updPart` -/

@[simp] theorem updPart_pending (s : State) (k : Nat) (f : Part0 → Part0) : (updPart s k f).pending = s.pending := rfl
@[simp] theorem updPart_hw (s : State) (k : Nat) (f : Part0 → Part0) : (updPart s k f).hw = s.hw := rfl
@[simp] theorem updPart_pins (s : State) (k : Nat) (f : Part0 → Part0) : (updPart s k f).pins = s.pins := rfl
@[simp] theorem updPart_life (s : State) (k : Nat) (f : Part0 → Part0) : (updPart s k f).life = s.life := rfl
@[simp] theorem updPart_fw (s : State) (k : Nat) (f : Part0 → Part0) : (updPart s k f).fw = s.fw := rfl
@[simp] theorem updPart_time (s : State) (k : Nat) (f : Part0 → Part0) : (updPart s k f).time = s.time := rfl
@[simp] theorem updPart_adm (s : State) (k : Nat) (f : Part0 → Part0) : (updPart s k f).adm = s.adm := rfl
@[simp] theorem updPart_parts (s : State) (k : Nat) (f : Part0 → Part0) : (updPart s k f).parts = mupd s.parts k Part0.reset f := rfl
@[simp] theorem updPart_hub0 (s : State) (k : Nat) (f : Part0 → Part0) : (updPart s k f).hub0 = s.hub0 := rfl
@[simp] theorem updPart_hub1 (s : State) (k : Nat) (f : Part0 → Part0) : (updPart s k f).hub1 = s.hub1 := rfl
@[simp] theorem updPart_slices (s : State) (k : Nat) (f : Part0 → Part0) : (updPart s k f).slices = s.slices := rfl
@[simp] theorem updPart_cores (s : State) (k : Nat) (f : Part0 → Part0) : (updPart s k f).cores = s.cores := rfl
@[simp] theorem updPart_dramStacks (s : State) (k : Nat) (f : Part0 → Part0) : (updPart s k f).dramStacks = s.dramStacks := rfl
@[simp] theorem updPart_chains (s : State) (k : Nat) (f : Part0 → Part0) : (updPart s k f).chains = s.chains := rfl
@[simp] theorem updPart_maps (s : State) (k : Nat) (f : Part0 → Part0) : (updPart s k f).maps = s.maps := rfl
@[simp] theorem updPart_oboe (s : State) (k : Nat) (f : Part0 → Part0) : (updPart s k f).oboe = s.oboe := rfl
@[simp] theorem updPart_conns (s : State) (k : Nat) (f : Part0 → Part0) : (updPart s k f).conns = s.conns := rfl
@[simp] theorem updPart_ports (s : State) (k : Nat) (f : Part0 → Part0) : (updPart s k f).ports = s.ports := rfl
@[simp] theorem updPart_eg (s : State) (k : Nat) (f : Part0 → Part0) : (updPart s k f).eg = s.eg := rfl
@[simp] theorem updPart_ras (s : State) (k : Nat) (f : Part0 → Part0) : (updPart s k f).ras = s.ras := rfl
@[simp] theorem updPart_crypto (s : State) (k : Nat) (f : Part0 → Part0) : (updPart s k f).crypto = s.crypto := rfl
@[simp] theorem updPart_ftl0 (s : State) (k : Nat) (f : Part0 → Part0) : (updPart s k f).ftl0 = s.ftl0 := rfl
@[simp] theorem updPart_ftl1 (s : State) (k : Nat) (f : Part0 → Part0) : (updPart s k f).ftl1 = s.ftl1 := rfl
@[simp] theorem updPart_irq (s : State) (k : Nat) (f : Part0 → Part0) : (updPart s k f).irq = s.irq := rfl
@[simp] theorem updPart_mbox (s : State) (k : Nat) (f : Part0 → Part0) : (updPart s k f).mbox = s.mbox := rfl
@[simp] theorem updPart_out (s : State) (k : Nat) (f : Part0 → Part0) : (updPart s k f).out = s.out := rfl

/-! ## `updPort` -/

@[simp] theorem updPort_pending (s : State) (p : Nat) (f : Port → Port) : (updPort s p f).pending = s.pending := rfl
@[simp] theorem updPort_hw (s : State) (p : Nat) (f : Port → Port) : (updPort s p f).hw = s.hw := rfl
@[simp] theorem updPort_pins (s : State) (p : Nat) (f : Port → Port) : (updPort s p f).pins = s.pins := rfl
@[simp] theorem updPort_life (s : State) (p : Nat) (f : Port → Port) : (updPort s p f).life = s.life := rfl
@[simp] theorem updPort_fw (s : State) (p : Nat) (f : Port → Port) : (updPort s p f).fw = s.fw := rfl
@[simp] theorem updPort_time (s : State) (p : Nat) (f : Port → Port) : (updPort s p f).time = s.time := rfl
@[simp] theorem updPort_adm (s : State) (p : Nat) (f : Port → Port) : (updPort s p f).adm = s.adm := rfl
@[simp] theorem updPort_parts (s : State) (p : Nat) (f : Port → Port) : (updPort s p f).parts = s.parts := rfl
@[simp] theorem updPort_hub0 (s : State) (p : Nat) (f : Port → Port) : (updPort s p f).hub0 = s.hub0 := rfl
@[simp] theorem updPort_hub1 (s : State) (p : Nat) (f : Port → Port) : (updPort s p f).hub1 = s.hub1 := rfl
@[simp] theorem updPort_slices (s : State) (p : Nat) (f : Port → Port) : (updPort s p f).slices = s.slices := rfl
@[simp] theorem updPort_cores (s : State) (p : Nat) (f : Port → Port) : (updPort s p f).cores = s.cores := rfl
@[simp] theorem updPort_dramStacks (s : State) (p : Nat) (f : Port → Port) : (updPort s p f).dramStacks = s.dramStacks := rfl
@[simp] theorem updPort_chains (s : State) (p : Nat) (f : Port → Port) : (updPort s p f).chains = s.chains := rfl
@[simp] theorem updPort_maps (s : State) (p : Nat) (f : Port → Port) : (updPort s p f).maps = s.maps := rfl
@[simp] theorem updPort_oboe (s : State) (p : Nat) (f : Port → Port) : (updPort s p f).oboe = s.oboe := rfl
@[simp] theorem updPort_conns (s : State) (p : Nat) (f : Port → Port) : (updPort s p f).conns = s.conns := rfl
@[simp] theorem updPort_ports (s : State) (p : Nat) (f : Port → Port) : (updPort s p f).ports = mupd s.ports p Port.reset f := rfl
@[simp] theorem updPort_eg (s : State) (p : Nat) (f : Port → Port) : (updPort s p f).eg = s.eg := rfl
@[simp] theorem updPort_ras (s : State) (p : Nat) (f : Port → Port) : (updPort s p f).ras = s.ras := rfl
@[simp] theorem updPort_crypto (s : State) (p : Nat) (f : Port → Port) : (updPort s p f).crypto = s.crypto := rfl
@[simp] theorem updPort_ftl0 (s : State) (p : Nat) (f : Port → Port) : (updPort s p f).ftl0 = s.ftl0 := rfl
@[simp] theorem updPort_ftl1 (s : State) (p : Nat) (f : Port → Port) : (updPort s p f).ftl1 = s.ftl1 := rfl
@[simp] theorem updPort_irq (s : State) (p : Nat) (f : Port → Port) : (updPort s p f).irq = s.irq := rfl
@[simp] theorem updPort_mbox (s : State) (p : Nat) (f : Port → Port) : (updPort s p f).mbox = s.mbox := rfl
@[simp] theorem updPort_out (s : State) (p : Nat) (f : Port → Port) : (updPort s p f).out = s.out := rfl

/-! ## `updConn` -/

@[simp] theorem updConn_pending (s : State) (c : Nat) (f : Conn → Conn) : (updConn s c f).pending = s.pending := rfl
@[simp] theorem updConn_hw (s : State) (c : Nat) (f : Conn → Conn) : (updConn s c f).hw = s.hw := rfl
@[simp] theorem updConn_pins (s : State) (c : Nat) (f : Conn → Conn) : (updConn s c f).pins = s.pins := rfl
@[simp] theorem updConn_life (s : State) (c : Nat) (f : Conn → Conn) : (updConn s c f).life = s.life := rfl
@[simp] theorem updConn_fw (s : State) (c : Nat) (f : Conn → Conn) : (updConn s c f).fw = s.fw := rfl
@[simp] theorem updConn_time (s : State) (c : Nat) (f : Conn → Conn) : (updConn s c f).time = s.time := rfl
@[simp] theorem updConn_adm (s : State) (c : Nat) (f : Conn → Conn) : (updConn s c f).adm = s.adm := rfl
@[simp] theorem updConn_parts (s : State) (c : Nat) (f : Conn → Conn) : (updConn s c f).parts = s.parts := rfl
@[simp] theorem updConn_hub0 (s : State) (c : Nat) (f : Conn → Conn) : (updConn s c f).hub0 = s.hub0 := rfl
@[simp] theorem updConn_hub1 (s : State) (c : Nat) (f : Conn → Conn) : (updConn s c f).hub1 = s.hub1 := rfl
@[simp] theorem updConn_slices (s : State) (c : Nat) (f : Conn → Conn) : (updConn s c f).slices = s.slices := rfl
@[simp] theorem updConn_cores (s : State) (c : Nat) (f : Conn → Conn) : (updConn s c f).cores = s.cores := rfl
@[simp] theorem updConn_dramStacks (s : State) (c : Nat) (f : Conn → Conn) : (updConn s c f).dramStacks = s.dramStacks := rfl
@[simp] theorem updConn_chains (s : State) (c : Nat) (f : Conn → Conn) : (updConn s c f).chains = s.chains := rfl
@[simp] theorem updConn_maps (s : State) (c : Nat) (f : Conn → Conn) : (updConn s c f).maps = s.maps := rfl
@[simp] theorem updConn_oboe (s : State) (c : Nat) (f : Conn → Conn) : (updConn s c f).oboe = s.oboe := rfl
@[simp] theorem updConn_conns (s : State) (c : Nat) (f : Conn → Conn) : (updConn s c f).conns = mmod s.conns c f := rfl
@[simp] theorem updConn_ports (s : State) (c : Nat) (f : Conn → Conn) : (updConn s c f).ports = s.ports := rfl
@[simp] theorem updConn_eg (s : State) (c : Nat) (f : Conn → Conn) : (updConn s c f).eg = s.eg := rfl
@[simp] theorem updConn_ras (s : State) (c : Nat) (f : Conn → Conn) : (updConn s c f).ras = s.ras := rfl
@[simp] theorem updConn_crypto (s : State) (c : Nat) (f : Conn → Conn) : (updConn s c f).crypto = s.crypto := rfl
@[simp] theorem updConn_ftl0 (s : State) (c : Nat) (f : Conn → Conn) : (updConn s c f).ftl0 = s.ftl0 := rfl
@[simp] theorem updConn_ftl1 (s : State) (c : Nat) (f : Conn → Conn) : (updConn s c f).ftl1 = s.ftl1 := rfl
@[simp] theorem updConn_irq (s : State) (c : Nat) (f : Conn → Conn) : (updConn s c f).irq = s.irq := rfl
@[simp] theorem updConn_mbox (s : State) (c : Nat) (f : Conn → Conn) : (updConn s c f).mbox = s.mbox := rfl
@[simp] theorem updConn_out (s : State) (c : Nat) (f : Conn → Conn) : (updConn s c f).out = s.out := rfl

/-! ## `updChains` -/

@[simp] theorem updChains_pending (s : State) (f : Chains → Chains) : (updChains s f).pending = s.pending := rfl
@[simp] theorem updChains_hw (s : State) (f : Chains → Chains) : (updChains s f).hw = s.hw := rfl
@[simp] theorem updChains_pins (s : State) (f : Chains → Chains) : (updChains s f).pins = s.pins := rfl
@[simp] theorem updChains_life (s : State) (f : Chains → Chains) : (updChains s f).life = s.life := rfl
@[simp] theorem updChains_fw (s : State) (f : Chains → Chains) : (updChains s f).fw = s.fw := rfl
@[simp] theorem updChains_time (s : State) (f : Chains → Chains) : (updChains s f).time = s.time := rfl
@[simp] theorem updChains_adm (s : State) (f : Chains → Chains) : (updChains s f).adm = s.adm := rfl
@[simp] theorem updChains_parts (s : State) (f : Chains → Chains) : (updChains s f).parts = s.parts := rfl
@[simp] theorem updChains_hub0 (s : State) (f : Chains → Chains) : (updChains s f).hub0 = s.hub0 := rfl
@[simp] theorem updChains_hub1 (s : State) (f : Chains → Chains) : (updChains s f).hub1 = s.hub1 := rfl
@[simp] theorem updChains_slices (s : State) (f : Chains → Chains) : (updChains s f).slices = s.slices := rfl
@[simp] theorem updChains_cores (s : State) (f : Chains → Chains) : (updChains s f).cores = s.cores := rfl
@[simp] theorem updChains_dramStacks (s : State) (f : Chains → Chains) : (updChains s f).dramStacks = s.dramStacks := rfl
@[simp] theorem updChains_chains (s : State) (f : Chains → Chains) : (updChains s f).chains = f s.chains := rfl
@[simp] theorem updChains_maps (s : State) (f : Chains → Chains) : (updChains s f).maps = s.maps := rfl
@[simp] theorem updChains_oboe (s : State) (f : Chains → Chains) : (updChains s f).oboe = s.oboe := rfl
@[simp] theorem updChains_conns (s : State) (f : Chains → Chains) : (updChains s f).conns = s.conns := rfl
@[simp] theorem updChains_ports (s : State) (f : Chains → Chains) : (updChains s f).ports = s.ports := rfl
@[simp] theorem updChains_eg (s : State) (f : Chains → Chains) : (updChains s f).eg = s.eg := rfl
@[simp] theorem updChains_ras (s : State) (f : Chains → Chains) : (updChains s f).ras = s.ras := rfl
@[simp] theorem updChains_crypto (s : State) (f : Chains → Chains) : (updChains s f).crypto = s.crypto := rfl
@[simp] theorem updChains_ftl0 (s : State) (f : Chains → Chains) : (updChains s f).ftl0 = s.ftl0 := rfl
@[simp] theorem updChains_ftl1 (s : State) (f : Chains → Chains) : (updChains s f).ftl1 = s.ftl1 := rfl
@[simp] theorem updChains_irq (s : State) (f : Chains → Chains) : (updChains s f).irq = s.irq := rfl
@[simp] theorem updChains_mbox (s : State) (f : Chains → Chains) : (updChains s f).mbox = s.mbox := rfl
@[simp] theorem updChains_out (s : State) (f : Chains → Chains) : (updChains s f).out = s.out := rfl

/-! ## `updTime` -/

@[simp] theorem updTime_pending (s : State) (f : Time → Time) : (updTime s f).pending = s.pending := rfl
@[simp] theorem updTime_hw (s : State) (f : Time → Time) : (updTime s f).hw = s.hw := rfl
@[simp] theorem updTime_pins (s : State) (f : Time → Time) : (updTime s f).pins = s.pins := rfl
@[simp] theorem updTime_life (s : State) (f : Time → Time) : (updTime s f).life = s.life := rfl
@[simp] theorem updTime_fw (s : State) (f : Time → Time) : (updTime s f).fw = s.fw := rfl
@[simp] theorem updTime_time (s : State) (f : Time → Time) : (updTime s f).time = f s.time := rfl
@[simp] theorem updTime_adm (s : State) (f : Time → Time) : (updTime s f).adm = s.adm := rfl
@[simp] theorem updTime_parts (s : State) (f : Time → Time) : (updTime s f).parts = s.parts := rfl
@[simp] theorem updTime_hub0 (s : State) (f : Time → Time) : (updTime s f).hub0 = s.hub0 := rfl
@[simp] theorem updTime_hub1 (s : State) (f : Time → Time) : (updTime s f).hub1 = s.hub1 := rfl
@[simp] theorem updTime_slices (s : State) (f : Time → Time) : (updTime s f).slices = s.slices := rfl
@[simp] theorem updTime_cores (s : State) (f : Time → Time) : (updTime s f).cores = s.cores := rfl
@[simp] theorem updTime_dramStacks (s : State) (f : Time → Time) : (updTime s f).dramStacks = s.dramStacks := rfl
@[simp] theorem updTime_chains (s : State) (f : Time → Time) : (updTime s f).chains = s.chains := rfl
@[simp] theorem updTime_maps (s : State) (f : Time → Time) : (updTime s f).maps = s.maps := rfl
@[simp] theorem updTime_oboe (s : State) (f : Time → Time) : (updTime s f).oboe = s.oboe := rfl
@[simp] theorem updTime_conns (s : State) (f : Time → Time) : (updTime s f).conns = s.conns := rfl
@[simp] theorem updTime_ports (s : State) (f : Time → Time) : (updTime s f).ports = s.ports := rfl
@[simp] theorem updTime_eg (s : State) (f : Time → Time) : (updTime s f).eg = s.eg := rfl
@[simp] theorem updTime_ras (s : State) (f : Time → Time) : (updTime s f).ras = s.ras := rfl
@[simp] theorem updTime_crypto (s : State) (f : Time → Time) : (updTime s f).crypto = s.crypto := rfl
@[simp] theorem updTime_ftl0 (s : State) (f : Time → Time) : (updTime s f).ftl0 = s.ftl0 := rfl
@[simp] theorem updTime_ftl1 (s : State) (f : Time → Time) : (updTime s f).ftl1 = s.ftl1 := rfl
@[simp] theorem updTime_irq (s : State) (f : Time → Time) : (updTime s f).irq = s.irq := rfl
@[simp] theorem updTime_mbox (s : State) (f : Time → Time) : (updTime s f).mbox = s.mbox := rfl
@[simp] theorem updTime_out (s : State) (f : Time → Time) : (updTime s f).out = s.out := rfl

/-! ## `updRas` -/

@[simp] theorem updRas_pending (s : State) (f : Ras → Ras) : (updRas s f).pending = s.pending := rfl
@[simp] theorem updRas_hw (s : State) (f : Ras → Ras) : (updRas s f).hw = s.hw := rfl
@[simp] theorem updRas_pins (s : State) (f : Ras → Ras) : (updRas s f).pins = s.pins := rfl
@[simp] theorem updRas_life (s : State) (f : Ras → Ras) : (updRas s f).life = s.life := rfl
@[simp] theorem updRas_fw (s : State) (f : Ras → Ras) : (updRas s f).fw = s.fw := rfl
@[simp] theorem updRas_time (s : State) (f : Ras → Ras) : (updRas s f).time = s.time := rfl
@[simp] theorem updRas_adm (s : State) (f : Ras → Ras) : (updRas s f).adm = s.adm := rfl
@[simp] theorem updRas_parts (s : State) (f : Ras → Ras) : (updRas s f).parts = s.parts := rfl
@[simp] theorem updRas_hub0 (s : State) (f : Ras → Ras) : (updRas s f).hub0 = s.hub0 := rfl
@[simp] theorem updRas_hub1 (s : State) (f : Ras → Ras) : (updRas s f).hub1 = s.hub1 := rfl
@[simp] theorem updRas_slices (s : State) (f : Ras → Ras) : (updRas s f).slices = s.slices := rfl
@[simp] theorem updRas_cores (s : State) (f : Ras → Ras) : (updRas s f).cores = s.cores := rfl
@[simp] theorem updRas_dramStacks (s : State) (f : Ras → Ras) : (updRas s f).dramStacks = s.dramStacks := rfl
@[simp] theorem updRas_chains (s : State) (f : Ras → Ras) : (updRas s f).chains = s.chains := rfl
@[simp] theorem updRas_maps (s : State) (f : Ras → Ras) : (updRas s f).maps = s.maps := rfl
@[simp] theorem updRas_oboe (s : State) (f : Ras → Ras) : (updRas s f).oboe = s.oboe := rfl
@[simp] theorem updRas_conns (s : State) (f : Ras → Ras) : (updRas s f).conns = s.conns := rfl
@[simp] theorem updRas_ports (s : State) (f : Ras → Ras) : (updRas s f).ports = s.ports := rfl
@[simp] theorem updRas_eg (s : State) (f : Ras → Ras) : (updRas s f).eg = s.eg := rfl
@[simp] theorem updRas_ras (s : State) (f : Ras → Ras) : (updRas s f).ras = f s.ras := rfl
@[simp] theorem updRas_crypto (s : State) (f : Ras → Ras) : (updRas s f).crypto = s.crypto := rfl
@[simp] theorem updRas_ftl0 (s : State) (f : Ras → Ras) : (updRas s f).ftl0 = s.ftl0 := rfl
@[simp] theorem updRas_ftl1 (s : State) (f : Ras → Ras) : (updRas s f).ftl1 = s.ftl1 := rfl
@[simp] theorem updRas_irq (s : State) (f : Ras → Ras) : (updRas s f).irq = s.irq := rfl
@[simp] theorem updRas_mbox (s : State) (f : Ras → Ras) : (updRas s f).mbox = s.mbox := rfl
@[simp] theorem updRas_out (s : State) (f : Ras → Ras) : (updRas s f).out = s.out := rfl

/-! ## `updPins` -/

@[simp] theorem updPins_pending (s : State) (f : Pins → Pins) : (updPins s f).pending = s.pending := rfl
@[simp] theorem updPins_hw (s : State) (f : Pins → Pins) : (updPins s f).hw = s.hw := rfl
@[simp] theorem updPins_pins (s : State) (f : Pins → Pins) : (updPins s f).pins = f s.pins := rfl
@[simp] theorem updPins_life (s : State) (f : Pins → Pins) : (updPins s f).life = s.life := rfl
@[simp] theorem updPins_fw (s : State) (f : Pins → Pins) : (updPins s f).fw = s.fw := rfl
@[simp] theorem updPins_time (s : State) (f : Pins → Pins) : (updPins s f).time = s.time := rfl
@[simp] theorem updPins_adm (s : State) (f : Pins → Pins) : (updPins s f).adm = s.adm := rfl
@[simp] theorem updPins_parts (s : State) (f : Pins → Pins) : (updPins s f).parts = s.parts := rfl
@[simp] theorem updPins_hub0 (s : State) (f : Pins → Pins) : (updPins s f).hub0 = s.hub0 := rfl
@[simp] theorem updPins_hub1 (s : State) (f : Pins → Pins) : (updPins s f).hub1 = s.hub1 := rfl
@[simp] theorem updPins_slices (s : State) (f : Pins → Pins) : (updPins s f).slices = s.slices := rfl
@[simp] theorem updPins_cores (s : State) (f : Pins → Pins) : (updPins s f).cores = s.cores := rfl
@[simp] theorem updPins_dramStacks (s : State) (f : Pins → Pins) : (updPins s f).dramStacks = s.dramStacks := rfl
@[simp] theorem updPins_chains (s : State) (f : Pins → Pins) : (updPins s f).chains = s.chains := rfl
@[simp] theorem updPins_maps (s : State) (f : Pins → Pins) : (updPins s f).maps = s.maps := rfl
@[simp] theorem updPins_oboe (s : State) (f : Pins → Pins) : (updPins s f).oboe = s.oboe := rfl
@[simp] theorem updPins_conns (s : State) (f : Pins → Pins) : (updPins s f).conns = s.conns := rfl
@[simp] theorem updPins_ports (s : State) (f : Pins → Pins) : (updPins s f).ports = s.ports := rfl
@[simp] theorem updPins_eg (s : State) (f : Pins → Pins) : (updPins s f).eg = s.eg := rfl
@[simp] theorem updPins_ras (s : State) (f : Pins → Pins) : (updPins s f).ras = s.ras := rfl
@[simp] theorem updPins_crypto (s : State) (f : Pins → Pins) : (updPins s f).crypto = s.crypto := rfl
@[simp] theorem updPins_ftl0 (s : State) (f : Pins → Pins) : (updPins s f).ftl0 = s.ftl0 := rfl
@[simp] theorem updPins_ftl1 (s : State) (f : Pins → Pins) : (updPins s f).ftl1 = s.ftl1 := rfl
@[simp] theorem updPins_irq (s : State) (f : Pins → Pins) : (updPins s f).irq = s.irq := rfl
@[simp] theorem updPins_mbox (s : State) (f : Pins → Pins) : (updPins s f).mbox = s.mbox := rfl
@[simp] theorem updPins_out (s : State) (f : Pins → Pins) : (updPins s f).out = s.out := rfl

/-! ## `bumpFree` -/

@[simp] theorem bumpFree_pending (s : State) : (bumpFree s).pending = s.pending := rfl
@[simp] theorem bumpFree_hw (s : State) : (bumpFree s).hw = s.hw := rfl
@[simp] theorem bumpFree_pins (s : State) : (bumpFree s).pins = s.pins := rfl
@[simp] theorem bumpFree_life (s : State) : (bumpFree s).life = s.life := rfl
@[simp] theorem bumpFree_fw (s : State) : (bumpFree s).fw = s.fw := rfl
@[simp] theorem bumpFree_time (s : State) : (bumpFree s).time = s.time := rfl
@[simp] theorem bumpFree_adm (s : State) : (bumpFree s).adm = s.adm := rfl
@[simp] theorem bumpFree_parts (s : State) : (bumpFree s).parts = s.parts := rfl
@[simp] theorem bumpFree_hub0 (s : State) : (bumpFree s).hub0 = s.hub0 := rfl
@[simp] theorem bumpFree_hub1 (s : State) : (bumpFree s).hub1 = s.hub1 := rfl
@[simp] theorem bumpFree_slices (s : State) : (bumpFree s).slices = s.slices := rfl
@[simp] theorem bumpFree_cores (s : State) : (bumpFree s).cores = s.cores := rfl
@[simp] theorem bumpFree_dramStacks (s : State) : (bumpFree s).dramStacks = s.dramStacks := rfl
@[simp] theorem bumpFree_chains (s : State) : (bumpFree s).chains = s.chains := rfl
@[simp] theorem bumpFree_maps (s : State) : (bumpFree s).maps = s.maps := rfl
@[simp] theorem bumpFree_oboe (s : State) : (bumpFree s).oboe = s.oboe := rfl
@[simp] theorem bumpFree_conns (s : State) : (bumpFree s).conns = s.conns := rfl
@[simp] theorem bumpFree_ports (s : State) : (bumpFree s).ports = s.ports := rfl
@[simp] theorem bumpFree_eg (s : State) : (bumpFree s).eg = s.eg := rfl
@[simp] theorem bumpFree_ras (s : State) : (bumpFree s).ras = s.ras := rfl
@[simp] theorem bumpFree_crypto (s : State) : (bumpFree s).crypto = s.crypto := rfl
@[simp] theorem bumpFree_ftl0 (s : State) : (bumpFree s).ftl0 = s.ftl0 := rfl
@[simp] theorem bumpFree_ftl1 (s : State) : (bumpFree s).ftl1 = s.ftl1 := rfl
@[simp] theorem bumpFree_irq (s : State) : (bumpFree s).irq = s.irq := rfl
@[simp] theorem bumpFree_mbox (s : State) : (bumpFree s).mbox = s.mbox := rfl
@[simp] theorem bumpFree_out (s : State) : (bumpFree s).out = { s.out with free := s.out.free + 1 } := rfl

/-! ## `updCmd` -/

@[simp] theorem updCmd_pending (s : State) (cid : Nat) (f : Cmd → Cmd) : (updCmd s cid f).pending = s.pending := rfl
@[simp] theorem updCmd_hw (s : State) (cid : Nat) (f : Cmd → Cmd) : (updCmd s cid f).hw = s.hw := rfl
@[simp] theorem updCmd_pins (s : State) (cid : Nat) (f : Cmd → Cmd) : (updCmd s cid f).pins = s.pins := rfl
@[simp] theorem updCmd_life (s : State) (cid : Nat) (f : Cmd → Cmd) : (updCmd s cid f).life = s.life := rfl
@[simp] theorem updCmd_fw (s : State) (cid : Nat) (f : Cmd → Cmd) : (updCmd s cid f).fw = s.fw := rfl
@[simp] theorem updCmd_time (s : State) (cid : Nat) (f : Cmd → Cmd) : (updCmd s cid f).time = s.time := rfl
@[simp] theorem updCmd_parts (s : State) (cid : Nat) (f : Cmd → Cmd) : (updCmd s cid f).parts = s.parts := rfl
@[simp] theorem updCmd_hub0 (s : State) (cid : Nat) (f : Cmd → Cmd) : (updCmd s cid f).hub0 = s.hub0 := rfl
@[simp] theorem updCmd_hub1 (s : State) (cid : Nat) (f : Cmd → Cmd) : (updCmd s cid f).hub1 = s.hub1 := rfl
@[simp] theorem updCmd_slices (s : State) (cid : Nat) (f : Cmd → Cmd) : (updCmd s cid f).slices = s.slices := rfl
@[simp] theorem updCmd_cores (s : State) (cid : Nat) (f : Cmd → Cmd) : (updCmd s cid f).cores = s.cores := rfl
@[simp] theorem updCmd_dramStacks (s : State) (cid : Nat) (f : Cmd → Cmd) : (updCmd s cid f).dramStacks = s.dramStacks := rfl
@[simp] theorem updCmd_chains (s : State) (cid : Nat) (f : Cmd → Cmd) : (updCmd s cid f).chains = s.chains := rfl
@[simp] theorem updCmd_maps (s : State) (cid : Nat) (f : Cmd → Cmd) : (updCmd s cid f).maps = s.maps := rfl
@[simp] theorem updCmd_oboe (s : State) (cid : Nat) (f : Cmd → Cmd) : (updCmd s cid f).oboe = s.oboe := rfl
@[simp] theorem updCmd_conns (s : State) (cid : Nat) (f : Cmd → Cmd) : (updCmd s cid f).conns = s.conns := rfl
@[simp] theorem updCmd_ports (s : State) (cid : Nat) (f : Cmd → Cmd) : (updCmd s cid f).ports = s.ports := rfl
@[simp] theorem updCmd_eg (s : State) (cid : Nat) (f : Cmd → Cmd) : (updCmd s cid f).eg = s.eg := rfl
@[simp] theorem updCmd_ras (s : State) (cid : Nat) (f : Cmd → Cmd) : (updCmd s cid f).ras = s.ras := rfl
@[simp] theorem updCmd_crypto (s : State) (cid : Nat) (f : Cmd → Cmd) : (updCmd s cid f).crypto = s.crypto := rfl
@[simp] theorem updCmd_ftl0 (s : State) (cid : Nat) (f : Cmd → Cmd) : (updCmd s cid f).ftl0 = s.ftl0 := rfl
@[simp] theorem updCmd_ftl1 (s : State) (cid : Nat) (f : Cmd → Cmd) : (updCmd s cid f).ftl1 = s.ftl1 := rfl
@[simp] theorem updCmd_irq (s : State) (cid : Nat) (f : Cmd → Cmd) : (updCmd s cid f).irq = s.irq := rfl
@[simp] theorem updCmd_mbox (s : State) (cid : Nat) (f : Cmd → Cmd) : (updCmd s cid f).mbox = s.mbox := rfl
@[simp] theorem updCmd_out (s : State) (cid : Nat) (f : Cmd → Cmd) : (updCmd s cid f).out = s.out := rfl
@[simp] theorem updCmd_adm_energyBase (s : State) (cid : Nat) (f : Cmd → Cmd) : (updCmd s cid f).adm.energyBase = s.adm.energyBase := rfl
@[simp] theorem updCmd_adm_energyCap (s : State) (cid : Nat) (f : Cmd → Cmd) : (updCmd s cid f).adm.energyCap = s.adm.energyCap := rfl
@[simp] theorem updCmd_adm_energyCoef (s : State) (cid : Nat) (f : Cmd → Cmd) : (updCmd s cid f).adm.energyCoef = s.adm.energyCoef := rfl
@[simp] theorem updCmd_adm_energyLen (s : State) (cid : Nat) (f : Cmd → Cmd) : (updCmd s cid f).adm.energyLen = s.adm.energyLen := rfl
@[simp] theorem updCmd_adm_sampled (s : State) (cid : Nat) (f : Cmd → Cmd) : (updCmd s cid f).adm.sampled = s.adm.sampled := rfl
@[simp] theorem updCmd_adm_closed (s : State) (cid : Nat) (f : Cmd → Cmd) : (updCmd s cid f).adm.closed = s.adm.closed := rfl
@[simp] theorem updCmd_adm_gained (s : State) (cid : Nat) (f : Cmd → Cmd) : (updCmd s cid f).adm.gained = s.adm.gained := rfl
@[simp] theorem updCmd_adm_stopped (s : State) (cid : Nat) (f : Cmd → Cmd) : (updCmd s cid f).adm.stopped = s.adm.stopped := rfl
@[simp] theorem updCmd_adm_res (s : State) (cid : Nat) (f : Cmd → Cmd) : (updCmd s cid f).adm.res = s.adm.res := rfl
@[simp] theorem updCmd_adm_jobs (s : State) (cid : Nat) (f : Cmd → Cmd) : (updCmd s cid f).adm.jobs = s.adm.jobs := rfl
@[simp] theorem updCmd_adm_nextJob (s : State) (cid : Nat) (f : Cmd → Cmd) : (updCmd s cid f).adm.nextJob = s.adm.nextJob := rfl
@[simp] theorem updCmd_adm_cmds (s : State) (cid : Nat) (f : Cmd → Cmd) : (updCmd s cid f).adm.cmds = mmod s.adm.cmds cid f := rfl
@[simp] theorem updCmd_adm_nextCid (s : State) (cid : Nat) (f : Cmd → Cmd) : (updCmd s cid f).adm.nextCid = s.adm.nextCid := rfl
@[simp] theorem updCmd_adm_effs (s : State) (cid : Nat) (f : Cmd → Cmd) : (updCmd s cid f).adm.effs = s.adm.effs := rfl
@[simp] theorem updCmd_adm_admitted (s : State) (cid : Nat) (f : Cmd → Cmd) : (updCmd s cid f).adm.admitted = s.adm.admitted := rfl
@[simp] theorem updCmd_adm_deferred (s : State) (cid : Nat) (f : Cmd → Cmd) : (updCmd s cid f).adm.deferred = s.adm.deferred := rfl

/-! ## `updJob` -/

@[simp] theorem updJob_pending (s : State) (j : Nat) (f : Job → Job) : (updJob s j f).pending = s.pending := rfl
@[simp] theorem updJob_hw (s : State) (j : Nat) (f : Job → Job) : (updJob s j f).hw = s.hw := rfl
@[simp] theorem updJob_pins (s : State) (j : Nat) (f : Job → Job) : (updJob s j f).pins = s.pins := rfl
@[simp] theorem updJob_life (s : State) (j : Nat) (f : Job → Job) : (updJob s j f).life = s.life := rfl
@[simp] theorem updJob_fw (s : State) (j : Nat) (f : Job → Job) : (updJob s j f).fw = s.fw := rfl
@[simp] theorem updJob_time (s : State) (j : Nat) (f : Job → Job) : (updJob s j f).time = s.time := rfl
@[simp] theorem updJob_parts (s : State) (j : Nat) (f : Job → Job) : (updJob s j f).parts = s.parts := rfl
@[simp] theorem updJob_hub0 (s : State) (j : Nat) (f : Job → Job) : (updJob s j f).hub0 = s.hub0 := rfl
@[simp] theorem updJob_hub1 (s : State) (j : Nat) (f : Job → Job) : (updJob s j f).hub1 = s.hub1 := rfl
@[simp] theorem updJob_slices (s : State) (j : Nat) (f : Job → Job) : (updJob s j f).slices = s.slices := rfl
@[simp] theorem updJob_cores (s : State) (j : Nat) (f : Job → Job) : (updJob s j f).cores = s.cores := rfl
@[simp] theorem updJob_dramStacks (s : State) (j : Nat) (f : Job → Job) : (updJob s j f).dramStacks = s.dramStacks := rfl
@[simp] theorem updJob_chains (s : State) (j : Nat) (f : Job → Job) : (updJob s j f).chains = s.chains := rfl
@[simp] theorem updJob_maps (s : State) (j : Nat) (f : Job → Job) : (updJob s j f).maps = s.maps := rfl
@[simp] theorem updJob_oboe (s : State) (j : Nat) (f : Job → Job) : (updJob s j f).oboe = s.oboe := rfl
@[simp] theorem updJob_conns (s : State) (j : Nat) (f : Job → Job) : (updJob s j f).conns = s.conns := rfl
@[simp] theorem updJob_ports (s : State) (j : Nat) (f : Job → Job) : (updJob s j f).ports = s.ports := rfl
@[simp] theorem updJob_eg (s : State) (j : Nat) (f : Job → Job) : (updJob s j f).eg = s.eg := rfl
@[simp] theorem updJob_ras (s : State) (j : Nat) (f : Job → Job) : (updJob s j f).ras = s.ras := rfl
@[simp] theorem updJob_crypto (s : State) (j : Nat) (f : Job → Job) : (updJob s j f).crypto = s.crypto := rfl
@[simp] theorem updJob_ftl0 (s : State) (j : Nat) (f : Job → Job) : (updJob s j f).ftl0 = s.ftl0 := rfl
@[simp] theorem updJob_ftl1 (s : State) (j : Nat) (f : Job → Job) : (updJob s j f).ftl1 = s.ftl1 := rfl
@[simp] theorem updJob_irq (s : State) (j : Nat) (f : Job → Job) : (updJob s j f).irq = s.irq := rfl
@[simp] theorem updJob_mbox (s : State) (j : Nat) (f : Job → Job) : (updJob s j f).mbox = s.mbox := rfl
@[simp] theorem updJob_out (s : State) (j : Nat) (f : Job → Job) : (updJob s j f).out = s.out := rfl
@[simp] theorem updJob_adm_energyBase (s : State) (j : Nat) (f : Job → Job) : (updJob s j f).adm.energyBase = s.adm.energyBase := rfl
@[simp] theorem updJob_adm_energyCap (s : State) (j : Nat) (f : Job → Job) : (updJob s j f).adm.energyCap = s.adm.energyCap := rfl
@[simp] theorem updJob_adm_energyCoef (s : State) (j : Nat) (f : Job → Job) : (updJob s j f).adm.energyCoef = s.adm.energyCoef := rfl
@[simp] theorem updJob_adm_energyLen (s : State) (j : Nat) (f : Job → Job) : (updJob s j f).adm.energyLen = s.adm.energyLen := rfl
@[simp] theorem updJob_adm_sampled (s : State) (j : Nat) (f : Job → Job) : (updJob s j f).adm.sampled = s.adm.sampled := rfl
@[simp] theorem updJob_adm_closed (s : State) (j : Nat) (f : Job → Job) : (updJob s j f).adm.closed = s.adm.closed := rfl
@[simp] theorem updJob_adm_gained (s : State) (j : Nat) (f : Job → Job) : (updJob s j f).adm.gained = s.adm.gained := rfl
@[simp] theorem updJob_adm_stopped (s : State) (j : Nat) (f : Job → Job) : (updJob s j f).adm.stopped = s.adm.stopped := rfl
@[simp] theorem updJob_adm_res (s : State) (j : Nat) (f : Job → Job) : (updJob s j f).adm.res = s.adm.res := rfl
@[simp] theorem updJob_adm_jobs (s : State) (j : Nat) (f : Job → Job) : (updJob s j f).adm.jobs = mmod s.adm.jobs j f := rfl
@[simp] theorem updJob_adm_nextJob (s : State) (j : Nat) (f : Job → Job) : (updJob s j f).adm.nextJob = s.adm.nextJob := rfl
@[simp] theorem updJob_adm_cmds (s : State) (j : Nat) (f : Job → Job) : (updJob s j f).adm.cmds = s.adm.cmds := rfl
@[simp] theorem updJob_adm_nextCid (s : State) (j : Nat) (f : Job → Job) : (updJob s j f).adm.nextCid = s.adm.nextCid := rfl
@[simp] theorem updJob_adm_effs (s : State) (j : Nat) (f : Job → Job) : (updJob s j f).adm.effs = s.adm.effs := rfl
@[simp] theorem updJob_adm_admitted (s : State) (j : Nat) (f : Job → Job) : (updJob s j f).adm.admitted = s.adm.admitted := rfl
@[simp] theorem updJob_adm_deferred (s : State) (j : Nat) (f : Job → Job) : (updJob s j f).adm.deferred = s.adm.deferred := rfl

/-! ## `delJob` -/

@[simp] theorem delJob_pending (s : State) (j : Nat) : (delJob s j).pending = s.pending := rfl
@[simp] theorem delJob_hw (s : State) (j : Nat) : (delJob s j).hw = s.hw := rfl
@[simp] theorem delJob_pins (s : State) (j : Nat) : (delJob s j).pins = s.pins := rfl
@[simp] theorem delJob_life (s : State) (j : Nat) : (delJob s j).life = s.life := rfl
@[simp] theorem delJob_fw (s : State) (j : Nat) : (delJob s j).fw = s.fw := rfl
@[simp] theorem delJob_time (s : State) (j : Nat) : (delJob s j).time = s.time := rfl
@[simp] theorem delJob_parts (s : State) (j : Nat) : (delJob s j).parts = s.parts := rfl
@[simp] theorem delJob_hub0 (s : State) (j : Nat) : (delJob s j).hub0 = s.hub0 := rfl
@[simp] theorem delJob_hub1 (s : State) (j : Nat) : (delJob s j).hub1 = s.hub1 := rfl
@[simp] theorem delJob_slices (s : State) (j : Nat) : (delJob s j).slices = s.slices := rfl
@[simp] theorem delJob_cores (s : State) (j : Nat) : (delJob s j).cores = s.cores := rfl
@[simp] theorem delJob_dramStacks (s : State) (j : Nat) : (delJob s j).dramStacks = s.dramStacks := rfl
@[simp] theorem delJob_chains (s : State) (j : Nat) : (delJob s j).chains = s.chains := rfl
@[simp] theorem delJob_maps (s : State) (j : Nat) : (delJob s j).maps = s.maps := rfl
@[simp] theorem delJob_oboe (s : State) (j : Nat) : (delJob s j).oboe = s.oboe := rfl
@[simp] theorem delJob_conns (s : State) (j : Nat) : (delJob s j).conns = s.conns := rfl
@[simp] theorem delJob_ports (s : State) (j : Nat) : (delJob s j).ports = s.ports := rfl
@[simp] theorem delJob_eg (s : State) (j : Nat) : (delJob s j).eg = s.eg := rfl
@[simp] theorem delJob_ras (s : State) (j : Nat) : (delJob s j).ras = s.ras := rfl
@[simp] theorem delJob_crypto (s : State) (j : Nat) : (delJob s j).crypto = s.crypto := rfl
@[simp] theorem delJob_ftl0 (s : State) (j : Nat) : (delJob s j).ftl0 = s.ftl0 := rfl
@[simp] theorem delJob_ftl1 (s : State) (j : Nat) : (delJob s j).ftl1 = s.ftl1 := rfl
@[simp] theorem delJob_irq (s : State) (j : Nat) : (delJob s j).irq = s.irq := rfl
@[simp] theorem delJob_mbox (s : State) (j : Nat) : (delJob s j).mbox = s.mbox := rfl
@[simp] theorem delJob_out (s : State) (j : Nat) : (delJob s j).out = s.out := rfl
@[simp] theorem delJob_adm_energyBase (s : State) (j : Nat) : (delJob s j).adm.energyBase = s.adm.energyBase := rfl
@[simp] theorem delJob_adm_energyCap (s : State) (j : Nat) : (delJob s j).adm.energyCap = s.adm.energyCap := rfl
@[simp] theorem delJob_adm_energyCoef (s : State) (j : Nat) : (delJob s j).adm.energyCoef = s.adm.energyCoef := rfl
@[simp] theorem delJob_adm_energyLen (s : State) (j : Nat) : (delJob s j).adm.energyLen = s.adm.energyLen := rfl
@[simp] theorem delJob_adm_sampled (s : State) (j : Nat) : (delJob s j).adm.sampled = s.adm.sampled := rfl
@[simp] theorem delJob_adm_closed (s : State) (j : Nat) : (delJob s j).adm.closed = s.adm.closed := rfl
@[simp] theorem delJob_adm_gained (s : State) (j : Nat) : (delJob s j).adm.gained = s.adm.gained := rfl
@[simp] theorem delJob_adm_stopped (s : State) (j : Nat) : (delJob s j).adm.stopped = s.adm.stopped := rfl
@[simp] theorem delJob_adm_res (s : State) (j : Nat) : (delJob s j).adm.res = s.adm.res := rfl
@[simp] theorem delJob_adm_jobs (s : State) (j : Nat) : (delJob s j).adm.jobs = mdel s.adm.jobs j := rfl
@[simp] theorem delJob_adm_nextJob (s : State) (j : Nat) : (delJob s j).adm.nextJob = s.adm.nextJob := rfl
@[simp] theorem delJob_adm_cmds (s : State) (j : Nat) : (delJob s j).adm.cmds = s.adm.cmds := rfl
@[simp] theorem delJob_adm_nextCid (s : State) (j : Nat) : (delJob s j).adm.nextCid = s.adm.nextCid := rfl
@[simp] theorem delJob_adm_effs (s : State) (j : Nat) : (delJob s j).adm.effs = s.adm.effs := rfl
@[simp] theorem delJob_adm_admitted (s : State) (j : Nat) : (delJob s j).adm.admitted = s.adm.admitted := rfl
@[simp] theorem delJob_adm_deferred (s : State) (j : Nat) : (delJob s j).adm.deferred = s.adm.deferred := rfl

/-! ## `addEff` -/

@[simp] theorem addEff_pending (s : State) (frame cid : Nat) (e : Eff) : (addEff s frame cid e).pending = s.pending := rfl
@[simp] theorem addEff_hw (s : State) (frame cid : Nat) (e : Eff) : (addEff s frame cid e).hw = s.hw := rfl
@[simp] theorem addEff_pins (s : State) (frame cid : Nat) (e : Eff) : (addEff s frame cid e).pins = s.pins := rfl
@[simp] theorem addEff_life (s : State) (frame cid : Nat) (e : Eff) : (addEff s frame cid e).life = s.life := rfl
@[simp] theorem addEff_fw (s : State) (frame cid : Nat) (e : Eff) : (addEff s frame cid e).fw = s.fw := rfl
@[simp] theorem addEff_time (s : State) (frame cid : Nat) (e : Eff) : (addEff s frame cid e).time = s.time := rfl
@[simp] theorem addEff_parts (s : State) (frame cid : Nat) (e : Eff) : (addEff s frame cid e).parts = s.parts := rfl
@[simp] theorem addEff_hub0 (s : State) (frame cid : Nat) (e : Eff) : (addEff s frame cid e).hub0 = s.hub0 := rfl
@[simp] theorem addEff_hub1 (s : State) (frame cid : Nat) (e : Eff) : (addEff s frame cid e).hub1 = s.hub1 := rfl
@[simp] theorem addEff_slices (s : State) (frame cid : Nat) (e : Eff) : (addEff s frame cid e).slices = s.slices := rfl
@[simp] theorem addEff_cores (s : State) (frame cid : Nat) (e : Eff) : (addEff s frame cid e).cores = s.cores := rfl
@[simp] theorem addEff_dramStacks (s : State) (frame cid : Nat) (e : Eff) : (addEff s frame cid e).dramStacks = s.dramStacks := rfl
@[simp] theorem addEff_chains (s : State) (frame cid : Nat) (e : Eff) : (addEff s frame cid e).chains = s.chains := rfl
@[simp] theorem addEff_maps (s : State) (frame cid : Nat) (e : Eff) : (addEff s frame cid e).maps = s.maps := rfl
@[simp] theorem addEff_oboe (s : State) (frame cid : Nat) (e : Eff) : (addEff s frame cid e).oboe = s.oboe := rfl
@[simp] theorem addEff_conns (s : State) (frame cid : Nat) (e : Eff) : (addEff s frame cid e).conns = s.conns := rfl
@[simp] theorem addEff_ports (s : State) (frame cid : Nat) (e : Eff) : (addEff s frame cid e).ports = s.ports := rfl
@[simp] theorem addEff_eg (s : State) (frame cid : Nat) (e : Eff) : (addEff s frame cid e).eg = s.eg := rfl
@[simp] theorem addEff_ras (s : State) (frame cid : Nat) (e : Eff) : (addEff s frame cid e).ras = s.ras := rfl
@[simp] theorem addEff_crypto (s : State) (frame cid : Nat) (e : Eff) : (addEff s frame cid e).crypto = s.crypto := rfl
@[simp] theorem addEff_ftl0 (s : State) (frame cid : Nat) (e : Eff) : (addEff s frame cid e).ftl0 = s.ftl0 := rfl
@[simp] theorem addEff_ftl1 (s : State) (frame cid : Nat) (e : Eff) : (addEff s frame cid e).ftl1 = s.ftl1 := rfl
@[simp] theorem addEff_irq (s : State) (frame cid : Nat) (e : Eff) : (addEff s frame cid e).irq = s.irq := rfl
@[simp] theorem addEff_mbox (s : State) (frame cid : Nat) (e : Eff) : (addEff s frame cid e).mbox = s.mbox := rfl
@[simp] theorem addEff_out (s : State) (frame cid : Nat) (e : Eff) : (addEff s frame cid e).out = s.out := rfl
@[simp] theorem addEff_adm_energyBase (s : State) (frame cid : Nat) (e : Eff) : (addEff s frame cid e).adm.energyBase = s.adm.energyBase := rfl
@[simp] theorem addEff_adm_energyCap (s : State) (frame cid : Nat) (e : Eff) : (addEff s frame cid e).adm.energyCap = s.adm.energyCap := rfl
@[simp] theorem addEff_adm_energyCoef (s : State) (frame cid : Nat) (e : Eff) : (addEff s frame cid e).adm.energyCoef = s.adm.energyCoef := rfl
@[simp] theorem addEff_adm_energyLen (s : State) (frame cid : Nat) (e : Eff) : (addEff s frame cid e).adm.energyLen = s.adm.energyLen := rfl
@[simp] theorem addEff_adm_sampled (s : State) (frame cid : Nat) (e : Eff) : (addEff s frame cid e).adm.sampled = s.adm.sampled := rfl
@[simp] theorem addEff_adm_closed (s : State) (frame cid : Nat) (e : Eff) : (addEff s frame cid e).adm.closed = s.adm.closed := rfl
@[simp] theorem addEff_adm_gained (s : State) (frame cid : Nat) (e : Eff) : (addEff s frame cid e).adm.gained = s.adm.gained := rfl
@[simp] theorem addEff_adm_stopped (s : State) (frame cid : Nat) (e : Eff) : (addEff s frame cid e).adm.stopped = s.adm.stopped := rfl
@[simp] theorem addEff_adm_res (s : State) (frame cid : Nat) (e : Eff) : (addEff s frame cid e).adm.res = s.adm.res := rfl
@[simp] theorem addEff_adm_jobs (s : State) (frame cid : Nat) (e : Eff) : (addEff s frame cid e).adm.jobs = s.adm.jobs := rfl
@[simp] theorem addEff_adm_nextJob (s : State) (frame cid : Nat) (e : Eff) : (addEff s frame cid e).adm.nextJob = s.adm.nextJob := rfl
@[simp] theorem addEff_adm_cmds (s : State) (frame cid : Nat) (e : Eff) : (addEff s frame cid e).adm.cmds = s.adm.cmds := rfl
@[simp] theorem addEff_adm_nextCid (s : State) (frame cid : Nat) (e : Eff) : (addEff s frame cid e).adm.nextCid = s.adm.nextCid := rfl
@[simp] theorem addEff_adm_effs (s : State) (frame cid : Nat) (e : Eff) : (addEff s frame cid e).adm.effs = s.adm.effs ++ [⟨frame, cid, e⟩] := rfl
@[simp] theorem addEff_adm_admitted (s : State) (frame cid : Nat) (e : Eff) : (addEff s frame cid e).adm.admitted = s.adm.admitted := rfl
@[simp] theorem addEff_adm_deferred (s : State) (frame cid : Nat) (e : Eff) : (addEff s frame cid e).adm.deferred = s.adm.deferred := rfl

/-! ## `updRes` -/

@[simp] theorem updRes_pending (s : State) (n : Nat) (f : FrameRes → FrameRes) : (updRes s n f).pending = s.pending := rfl
@[simp] theorem updRes_hw (s : State) (n : Nat) (f : FrameRes → FrameRes) : (updRes s n f).hw = s.hw := rfl
@[simp] theorem updRes_pins (s : State) (n : Nat) (f : FrameRes → FrameRes) : (updRes s n f).pins = s.pins := rfl
@[simp] theorem updRes_life (s : State) (n : Nat) (f : FrameRes → FrameRes) : (updRes s n f).life = s.life := rfl
@[simp] theorem updRes_fw (s : State) (n : Nat) (f : FrameRes → FrameRes) : (updRes s n f).fw = s.fw := rfl
@[simp] theorem updRes_time (s : State) (n : Nat) (f : FrameRes → FrameRes) : (updRes s n f).time = s.time := rfl
@[simp] theorem updRes_parts (s : State) (n : Nat) (f : FrameRes → FrameRes) : (updRes s n f).parts = s.parts := rfl
@[simp] theorem updRes_hub0 (s : State) (n : Nat) (f : FrameRes → FrameRes) : (updRes s n f).hub0 = s.hub0 := rfl
@[simp] theorem updRes_hub1 (s : State) (n : Nat) (f : FrameRes → FrameRes) : (updRes s n f).hub1 = s.hub1 := rfl
@[simp] theorem updRes_slices (s : State) (n : Nat) (f : FrameRes → FrameRes) : (updRes s n f).slices = s.slices := rfl
@[simp] theorem updRes_cores (s : State) (n : Nat) (f : FrameRes → FrameRes) : (updRes s n f).cores = s.cores := rfl
@[simp] theorem updRes_dramStacks (s : State) (n : Nat) (f : FrameRes → FrameRes) : (updRes s n f).dramStacks = s.dramStacks := rfl
@[simp] theorem updRes_chains (s : State) (n : Nat) (f : FrameRes → FrameRes) : (updRes s n f).chains = s.chains := rfl
@[simp] theorem updRes_maps (s : State) (n : Nat) (f : FrameRes → FrameRes) : (updRes s n f).maps = s.maps := rfl
@[simp] theorem updRes_oboe (s : State) (n : Nat) (f : FrameRes → FrameRes) : (updRes s n f).oboe = s.oboe := rfl
@[simp] theorem updRes_conns (s : State) (n : Nat) (f : FrameRes → FrameRes) : (updRes s n f).conns = s.conns := rfl
@[simp] theorem updRes_ports (s : State) (n : Nat) (f : FrameRes → FrameRes) : (updRes s n f).ports = s.ports := rfl
@[simp] theorem updRes_eg (s : State) (n : Nat) (f : FrameRes → FrameRes) : (updRes s n f).eg = s.eg := rfl
@[simp] theorem updRes_ras (s : State) (n : Nat) (f : FrameRes → FrameRes) : (updRes s n f).ras = s.ras := rfl
@[simp] theorem updRes_crypto (s : State) (n : Nat) (f : FrameRes → FrameRes) : (updRes s n f).crypto = s.crypto := rfl
@[simp] theorem updRes_ftl0 (s : State) (n : Nat) (f : FrameRes → FrameRes) : (updRes s n f).ftl0 = s.ftl0 := rfl
@[simp] theorem updRes_ftl1 (s : State) (n : Nat) (f : FrameRes → FrameRes) : (updRes s n f).ftl1 = s.ftl1 := rfl
@[simp] theorem updRes_irq (s : State) (n : Nat) (f : FrameRes → FrameRes) : (updRes s n f).irq = s.irq := rfl
@[simp] theorem updRes_mbox (s : State) (n : Nat) (f : FrameRes → FrameRes) : (updRes s n f).mbox = s.mbox := rfl
@[simp] theorem updRes_out (s : State) (n : Nat) (f : FrameRes → FrameRes) : (updRes s n f).out = s.out := rfl
@[simp] theorem updRes_adm_energyBase (s : State) (n : Nat) (f : FrameRes → FrameRes) : (updRes s n f).adm.energyBase = s.adm.energyBase := rfl
@[simp] theorem updRes_adm_energyCap (s : State) (n : Nat) (f : FrameRes → FrameRes) : (updRes s n f).adm.energyCap = s.adm.energyCap := rfl
@[simp] theorem updRes_adm_energyCoef (s : State) (n : Nat) (f : FrameRes → FrameRes) : (updRes s n f).adm.energyCoef = s.adm.energyCoef := rfl
@[simp] theorem updRes_adm_energyLen (s : State) (n : Nat) (f : FrameRes → FrameRes) : (updRes s n f).adm.energyLen = s.adm.energyLen := rfl
@[simp] theorem updRes_adm_sampled (s : State) (n : Nat) (f : FrameRes → FrameRes) : (updRes s n f).adm.sampled = s.adm.sampled := rfl
@[simp] theorem updRes_adm_closed (s : State) (n : Nat) (f : FrameRes → FrameRes) : (updRes s n f).adm.closed = s.adm.closed := rfl
@[simp] theorem updRes_adm_gained (s : State) (n : Nat) (f : FrameRes → FrameRes) : (updRes s n f).adm.gained = s.adm.gained := rfl
@[simp] theorem updRes_adm_stopped (s : State) (n : Nat) (f : FrameRes → FrameRes) : (updRes s n f).adm.stopped = s.adm.stopped := rfl
@[simp] theorem updRes_adm_res (s : State) (n : Nat) (f : FrameRes → FrameRes) : (updRes s n f).adm.res = mupd s.adm.res n FrameRes.empty f := rfl
@[simp] theorem updRes_adm_jobs (s : State) (n : Nat) (f : FrameRes → FrameRes) : (updRes s n f).adm.jobs = s.adm.jobs := rfl
@[simp] theorem updRes_adm_nextJob (s : State) (n : Nat) (f : FrameRes → FrameRes) : (updRes s n f).adm.nextJob = s.adm.nextJob := rfl
@[simp] theorem updRes_adm_cmds (s : State) (n : Nat) (f : FrameRes → FrameRes) : (updRes s n f).adm.cmds = s.adm.cmds := rfl
@[simp] theorem updRes_adm_nextCid (s : State) (n : Nat) (f : FrameRes → FrameRes) : (updRes s n f).adm.nextCid = s.adm.nextCid := rfl
@[simp] theorem updRes_adm_effs (s : State) (n : Nat) (f : FrameRes → FrameRes) : (updRes s n f).adm.effs = s.adm.effs := rfl
@[simp] theorem updRes_adm_admitted (s : State) (n : Nat) (f : FrameRes → FrameRes) : (updRes s n f).adm.admitted = s.adm.admitted := rfl
@[simp] theorem updRes_adm_deferred (s : State) (n : Nat) (f : FrameRes → FrameRes) : (updRes s n f).adm.deferred = s.adm.deferred := rfl

/-! ## Hubs -/

@[simp] theorem updHub_pending (s : State) (h : Nat) (f : Hub → Hub) : (updHub s h f).pending = s.pending := by
  unfold updHub setHub; split <;> rfl
@[simp] theorem updHub_hw (s : State) (h : Nat) (f : Hub → Hub) : (updHub s h f).hw = s.hw := by
  unfold updHub setHub; split <;> rfl
@[simp] theorem updHub_pins (s : State) (h : Nat) (f : Hub → Hub) : (updHub s h f).pins = s.pins := by
  unfold updHub setHub; split <;> rfl
@[simp] theorem updHub_life (s : State) (h : Nat) (f : Hub → Hub) : (updHub s h f).life = s.life := by
  unfold updHub setHub; split <;> rfl
@[simp] theorem updHub_fw (s : State) (h : Nat) (f : Hub → Hub) : (updHub s h f).fw = s.fw := by
  unfold updHub setHub; split <;> rfl
@[simp] theorem updHub_time (s : State) (h : Nat) (f : Hub → Hub) : (updHub s h f).time = s.time := by
  unfold updHub setHub; split <;> rfl
@[simp] theorem updHub_adm (s : State) (h : Nat) (f : Hub → Hub) : (updHub s h f).adm = s.adm := by
  unfold updHub setHub; split <;> rfl
@[simp] theorem updHub_parts (s : State) (h : Nat) (f : Hub → Hub) : (updHub s h f).parts = s.parts := by
  unfold updHub setHub; split <;> rfl
@[simp] theorem updHub_slices (s : State) (h : Nat) (f : Hub → Hub) : (updHub s h f).slices = s.slices := by
  unfold updHub setHub; split <;> rfl
@[simp] theorem updHub_cores (s : State) (h : Nat) (f : Hub → Hub) : (updHub s h f).cores = s.cores := by
  unfold updHub setHub; split <;> rfl
@[simp] theorem updHub_dramStacks (s : State) (h : Nat) (f : Hub → Hub) : (updHub s h f).dramStacks = s.dramStacks := by
  unfold updHub setHub; split <;> rfl
@[simp] theorem updHub_chains (s : State) (h : Nat) (f : Hub → Hub) : (updHub s h f).chains = s.chains := by
  unfold updHub setHub; split <;> rfl
@[simp] theorem updHub_maps (s : State) (h : Nat) (f : Hub → Hub) : (updHub s h f).maps = s.maps := by
  unfold updHub setHub; split <;> rfl
@[simp] theorem updHub_oboe (s : State) (h : Nat) (f : Hub → Hub) : (updHub s h f).oboe = s.oboe := by
  unfold updHub setHub; split <;> rfl
@[simp] theorem updHub_conns (s : State) (h : Nat) (f : Hub → Hub) : (updHub s h f).conns = s.conns := by
  unfold updHub setHub; split <;> rfl
@[simp] theorem updHub_ports (s : State) (h : Nat) (f : Hub → Hub) : (updHub s h f).ports = s.ports := by
  unfold updHub setHub; split <;> rfl
@[simp] theorem updHub_eg (s : State) (h : Nat) (f : Hub → Hub) : (updHub s h f).eg = s.eg := by
  unfold updHub setHub; split <;> rfl
@[simp] theorem updHub_ras (s : State) (h : Nat) (f : Hub → Hub) : (updHub s h f).ras = s.ras := by
  unfold updHub setHub; split <;> rfl
@[simp] theorem updHub_crypto (s : State) (h : Nat) (f : Hub → Hub) : (updHub s h f).crypto = s.crypto := by
  unfold updHub setHub; split <;> rfl
@[simp] theorem updHub_ftl0 (s : State) (h : Nat) (f : Hub → Hub) : (updHub s h f).ftl0 = s.ftl0 := by
  unfold updHub setHub; split <;> rfl
@[simp] theorem updHub_ftl1 (s : State) (h : Nat) (f : Hub → Hub) : (updHub s h f).ftl1 = s.ftl1 := by
  unfold updHub setHub; split <;> rfl
@[simp] theorem updHub_irq (s : State) (h : Nat) (f : Hub → Hub) : (updHub s h f).irq = s.irq := by
  unfold updHub setHub; split <;> rfl
@[simp] theorem updHub_mbox (s : State) (h : Nat) (f : Hub → Hub) : (updHub s h f).mbox = s.mbox := by
  unfold updHub setHub; split <;> rfl
@[simp] theorem updHub_out (s : State) (h : Nat) (f : Hub → Hub) : (updHub s h f).out = s.out := by
  unfold updHub setHub; split <;> rfl
@[simp] theorem hubAt_updHub_same (s : State) (h : Nat) (f : Hub → Hub) : hubAt (updHub s h f) h = f (hubAt s h) := by
  unfold updHub setHub hubAt; split <;> rfl

theorem hubAt_updHub_other (s : State) (f : Hub → Hub) :
    hubAt (updHub s 0 f) 1 = hubAt s 1 ∧ hubAt (updHub s 1 f) 0 = hubAt s 0 := ⟨rfl, rfl⟩

@[simp] theorem updFtl_slices (s : State) (h : Nat) (f : Ftl → Ftl) : (updFtl s h f).slices = s.slices := by
  unfold updFtl; split <;> rfl
@[simp] theorem ftlAt_updFtl_same (s : State) (h : Nat) (f : Ftl → Ftl) : ftlAt (updFtl s h f) h = f (ftlAt s h) := by
  unfold updFtl ftlAt; split <;> rfl

/-! ## Reading what was written -/

@[simp] theorem sliceAt_updSlice_same (s : State) (i : Nat) (f : Slice → Slice) : sliceAt (updSlice s i f) i = f (sliceAt s i) := by
  simp [sliceAt, mgetD, mupd, mget_mset_same]
theorem sliceAt_updSlice_other (s : State) (i j : Nat) (f : Slice → Slice) (h : j ≠ i) :
    sliceAt (updSlice s i f) j = sliceAt s j := by
  simp [sliceAt, mgetD, mupd, mget_mset_other _ _ _ _ h]
@[simp] theorem stackAt_updStack_same (s : State) (n : Nat) (f : Stack → Stack) : stackAt (updStack s n f) n = f (stackAt s n) := by
  simp [stackAt, mgetD, mupd, mget_mset_same]
theorem stackAt_updStack_other (s : State) (n j : Nat) (f : Stack → Stack) (h : j ≠ n) :
    stackAt (updStack s n f) j = stackAt s j := by
  simp [stackAt, mgetD, mupd, mget_mset_other _ _ _ _ h]
@[simp] theorem coreAt_updCore_same (s : State) (i : Nat) (f : Core → Core) : coreAt (updCore s i f) i = f (coreAt s i) := by
  simp [coreAt, mgetD, mupd, mget_mset_same]
theorem coreAt_updCore_other (s : State) (i j : Nat) (f : Core → Core) (h : j ≠ i) :
    coreAt (updCore s i f) j = coreAt s j := by
  simp [coreAt, mgetD, mupd, mget_mset_other _ _ _ _ h]
@[simp] theorem partAt_updPart_same (s : State) (k : Nat) (f : Part0 → Part0) : partAt (updPart s k f) k = f (partAt s k) := by
  simp [partAt, mgetD, mupd, mget_mset_same]
theorem partAt_updPart_other (s : State) (k j : Nat) (f : Part0 → Part0) (h : j ≠ k) :
    partAt (updPart s k f) j = partAt s j := by
  simp [partAt, mgetD, mupd, mget_mset_other _ _ _ _ h]
@[simp] theorem portAt_updPort_same (s : State) (p : Nat) (f : Port → Port) : portAt (updPort s p f) p = f (portAt s p) := by
  simp [portAt, mgetD, mupd, mget_mset_same]
theorem portAt_updPort_other (s : State) (p j : Nat) (f : Port → Port) (h : j ≠ p) :
    portAt (updPort s p f) j = portAt s j := by
  simp [portAt, mgetD, mupd, mget_mset_other _ _ _ _ h]
@[simp] theorem cmdAt_updCmd_same (s : State) (cid : Nat) (f : Cmd → Cmd) : cmdAt (updCmd s cid f) cid = (cmdAt s cid).map f := by
  simp [cmdAt, mget_mmod_same]
theorem cmdAt_updCmd_other (s : State) (cid j : Nat) (f : Cmd → Cmd) (h : j ≠ cid) : cmdAt (updCmd s cid f) j = cmdAt s j := by
  simp [cmdAt, mget_mmod_other _ _ _ _ h]
@[simp] theorem jobAt_updJob_same (s : State) (n : Nat) (f : Job → Job) : jobAt (updJob s n f) n = (jobAt s n).map f := by
  simp [jobAt, mget_mmod_same]
theorem jobAt_updJob_other (s : State) (n j : Nat) (f : Job → Job) (h : j ≠ n) : jobAt (updJob s n f) j = jobAt s j := by
  simp [jobAt, mget_mmod_other _ _ _ _ h]
theorem jobAt_addJob (s : State) (j : Job) : jobAt (addJob s j) s.adm.nextJob = some j := by
  simp [jobAt, addJob, mget_mset_same]
theorem dueAt_addEff (s : State) (f cid : Nat) (e : Eff) : ⟨f, cid, e⟩ ∈ (addEff s f cid e).adm.effs := by simp
theorem sliceAt_congr {s t : State} (h : t.slices = s.slices) (i : Nat) : sliceAt t i = sliceAt s i := by simp [sliceAt, h]

end Sys2Proof.Machine
end

