-- ==== Sys2Proof/Laws/Frame.lean ====
section
/-!
SUPPORT. What the shared operations may change, in the terms of `Only`: cite these instead of unfolding the operations.
-/

namespace Sys2Proof.Machine

theorem Only.refl (F : List Field) (s : State) : Only F s s := fun _ _ => rfl

theorem Only.trans {F : List Field} {s t u : State} (h : Only F s t) (k : Only F t u) : Only F s u :=
  fun f hf => (k f hf).trans (h f hf)

/-- A change of fewer parts is a change of more. -/
theorem Only.mono {F G : List Field} {s t : State} (h : Only F s t) (hs : ∀ f, f ∈ F → f ∈ G) : Only G s t :=
  fun f hf => h f (fun hF => hf (hs f hF))

/-- Work on every element of a list changes what one piece of it changes. -/
theorem Only.forAll {F : List Field} {α : Type} {g : State → α → State} (hg : ∀ s a, Only F s (g s a)) (s : State) (xs : List α) :
    Only F s (forAll s xs g) := by
  induction xs generalizing s with
  | nil => exact Only.refl F s
  | cons a xs ih => exact (hg s a).trans (ih (g s a))

theorem Only.ite {F : List Field} {s t u : State} {p : Prop} [Decidable p] (h : Only F s t) (k : Only F s u) :
    Only F s (if p then t else u) := by split <;> assumption

theorem mget_map {α : Type} (m : SMap α) (f : Nat × α → α) (k : Nat) :
    mget (m.map (fun e => (e.1, f e))) k = (mget m k).map (fun v => f (k, v)) := by
  induction m with
  | nil => rfl
  | cons e r ih =>
    simp only [List.map_cons, mget]
    split
    · rename_i h; simp [← h]
    · exact ih

/-! ## Updates of one table -/

theorem only_updStack (s : State) (n : Nat) (f : Stack → Stack) : Only [.dramStacks] s (updStack s n f) := by
  intro x hx; cases x <;> first | rfl | (refine absurd ?_ hx; decide)

theorem only_updCore (s : State) (i : Nat) (f : Core → Core) : Only [.cores] s (updCore s i f) := by
  intro x hx; cases x <;> first | rfl | (refine absurd ?_ hx; decide)

theorem only_updPort (s : State) (p : Nat) (f : Port → Port) : Only [.ports] s (updPort s p f) := by
  intro x hx; cases x <;> first | rfl | (refine absurd ?_ hx; decide)

theorem only_updCmd (s : State) (cid : Nat) (f : Cmd → Cmd) : Only [.cmds] s (updCmd s cid f) := by
  intro x hx; cases x <;> first | rfl | (refine absurd ?_ hx; decide)

theorem only_updJob (s : State) (n : Nat) (f : Job → Job) : Only [.jobs] s (updJob s n f) := by
  intro x hx; cases x <;> first | rfl | (refine absurd ?_ hx; decide)

theorem only_delJob (s : State) (n : Nat) : Only [.jobs] s (delJob s n) := by
  intro x hx; cases x <;> first | rfl | (refine absurd ?_ hx; decide)

theorem only_addJob (s : State) (j : Job) : Only [.jobs] s (addJob s j) := by
  intro x hx; cases x <;> first | rfl | (refine absurd ?_ hx; decide)

theorem only_addEff (s : State) (frame cid : Nat) (e : Eff) : Only [.effs] s (addEff s frame cid e) := by
  intro x hx; cases x <;> first | rfl | (refine absurd ?_ hx; decide)

theorem only_updRes (s : State) (n : Nat) (f : FrameRes → FrameRes) : Only [.reserved] s (updRes s n f) := by
  intro x hx; cases x <;> first | rfl | (refine absurd ?_ hx; decide)

theorem only_updChains (s : State) (f : Chains → Chains) : Only [.chains] s (updChains s f) := by
  intro x hx; cases x <;> first | rfl | (refine absurd ?_ hx; decide)

/-- A slice's update changes its tables and sectors. -/
theorem only_updSlice (s : State) (i : Nat) (f : Slice → Slice) : Only [.slices, .sectors] s (updSlice s i f) := by
  intro x hx; cases x <;> first | rfl | (refine absurd ?_ hx; decide)

/-- A slice's update that keeps its sectors changes no stored data. -/
theorem only_updSlice_tables (s : State) (i : Nat) (f : Slice → Slice) (h : (f (sliceAt s i)).sectors = (sliceAt s i).sectors) :
    Only [.slices] s (updSlice s i f) := by
  intro x hx
  cases x <;> first
    | rfl
    | (refine absurd ?_ hx; decide)
    | (funext j k
       simp only [view, sectorOf]
       by_cases hj : j = i
       · subst hj; rw [sliceAt_updSlice_same, h]
       · rw [sliceAt_updSlice_other _ _ _ _ hj])

/-- A partition's update changes its row and its registers. -/
theorem only_updPart (s : State) (k : Nat) (f : Part0 → Part0) : Only [.parts, .partRegs] s (updPart s k f) := by
  intro x hx; cases x <;> first | rfl | (refine absurd ?_ hx; decide)

/-- The registers of a partition's row, as the part `partRegs` shows them. -/
def regsOf (p : Part0) : (Nat × Bool × Nat × List (Nat × Nat) × Nat) ×
    (Bool × Nat × Nat × Nat × Nat × Nat × Nat × Nat × Nat × Bool) × (Nat × Nat × Nat × Nat × Nat × Nat × Nat) :=
  ((p.tsWeight, p.tsgEn, p.tsg, p.ranges, p.key),
    (p.deferNote, p.share, p.deferMax, p.depth, p.queueEn, p.quota0, p.quota1, p.entMax, p.evMax, p.solstice),
    (p.egBody, p.egFwd, p.egStat, p.egWeight, p.egBurst, p.egRate, p.idxMax))

/-- A partition's update that keeps its registers. -/
theorem only_updPart_row (s : State) (k : Nat) (f : Part0 → Part0) (h : ∀ p, regsOf (f p) = regsOf p) :
    Only [.parts] s (updPart s k f) := by
  intro x hx
  cases x <;> first
    | rfl
    | (refine absurd ?_ hx; decide)
    | (funext j
       by_cases hj : j = k
       · subst hj
         have := h (partAt s j)
         simp only [view, partAt_updPart_same]
         exact this
       · simp only [view, partAt_updPart_other _ _ _ _ hj])

/-! ## Events (R472) -/

/-- Queueing a record changes a connection's event queue alone. -/
theorem queueEvent_eq (c : Conn) (r : EvRec) :
    ∃ evs note, queueEvent c r = { c with events := evs, dropNote := note } := by
  unfold queueEvent
  split
  · exact ⟨_, c.dropNote, rfl⟩
  · exact ⟨_, _, rfl⟩

/-- What a connection takes of an event changes its event queue alone. -/
theorem connEvent_eq (s : State) (r : EvRec) (part : Option Nat) (c : Conn) :
    ∃ evs note, connEvent s r part c = { c with events := evs, dropNote := note } := by
  unfold connEvent
  repeat' (first | split | exact queueEvent_eq _ _ | exact ⟨c.events, c.dropNote, rfl⟩)

theorem connEvent_base (s : State) (r : EvRec) (part : Option Nat) (c : Conn) :
    (connEvent s r part c).opened = c.opened ∧ (connEvent s r part c).out = c.out := by
  obtain ⟨e, n, h⟩ := connEvent_eq s r part c
  rw [h]; exact ⟨rfl, rfl⟩

/-- Raising an event changes the log, the interrupt bits and the queues of the connections it concerns. -/
theorem only_raise (s : State) (code : Nat) (part : Option Nat) (subject data : Nat) :
    Only raises s (raise s code part subject data) := by
  intro x hx
  cases x <;> first
    | rfl
    | (refine absurd ?_ hx; decide)
    | (funext c
       simp only [view, raise, mget_map, Option.map_map]
       congr 1
       funext y
       obtain ⟨e, n, h⟩ := connEvent_eq s ⟨code, if part.isNone then 2 else 0, part.getD 0, s.time.frame, subject, data⟩ part y
       simp only [Function.comp, h])

/-- Raising an event logs it as the next record. -/
theorem raise_log (s : State) (code : Nat) (part : Option Nat) (subject data : Nat) :
    mget (raise s code part subject data).ras.log (s.ras.written % 4096) =
      some ⟨code, if part.isNone then 2 else 0, part.getD 0, s.time.frame, subject, data⟩ := by
  simp [raise, logRecord, mget_mset_same]

theorem raise_written (s : State) (code : Nat) (part : Option Nat) (subject data : Nat) :
    (raise s code part subject data).ras.written = s.ras.written + 1 := rfl

/-- The log holds at most 4,096 unread records, and the reader is never past the writer (R693). -/
theorem logRecord_unread (x : Ras) (r : EvRec) (h : x.sback ≤ x.written) (k : x.written ≤ x.sback + 4096) :
    (logRecord x r).sback ≤ (logRecord x r).written ∧ (logRecord x r).written ≤ (logRecord x r).sback + 4096 := by
  simp only [logRecord]
  by_cases hf : x.written - x.sback ≥ 4096
  · simp only [hf, if_true]; omega
  · simp only [hf]; simp; omega

theorem only_raiseParts (s : State) (code : Nat) (ks : List Nat) (subject data : Nat) :
    Only raises s (raiseParts s code ks subject data) := Only.forAll (fun s k => only_raise s code (some k) subject data) s ks

theorem only_noteWrap (s : State) (wrapped : Bool) (addr : Nat) : Only raises s (noteWrap s wrapped addr) := by
  unfold noteWrap
  split
  · refine Only.trans ?_ (only_raise _ _ _ _ _)
    intro x hx; cases x <;> first | rfl | (refine absurd ?_ hx; decide)
  · exact Only.refl _ _

/-! ## Meters, quota and messages -/

theorem only_meter (s : State) (k i n : Nat) : Only [.parts] s (meter s k i n) := by
  unfold meter
  split
  · exact Only.refl _ _
  · exact only_updPart_row s k _ (fun _ => rfl)

theorem only_takeT0 (s : State) (k h n : Nat) : Only [.parts] s (takeT0 s k h n) :=
  only_updPart_row s k _ (fun _ => by split <;> rfl)

theorem only_releaseT0 (s : State) (k h n : Nat) : Only [.parts] s (releaseT0 s k h n) :=
  only_updPart_row s k _ (fun _ => by split <;> rfl)

theorem only_queueMsg (s : State) (c tc : Nat) (hdr : MsgHdr) (body : Bytes) (forPart : Nat) (cid : Option Nat) (final : Bool)
    (notBefore : Nat) : Only [.conns, .wire] s (queueMsg s c tc hdr body forPart cid final notBefore) := by
  unfold queueMsg
  split
  · exact Only.refl _ _
  · split
    · exact Only.refl _ _
    · intro x hx
      cases x <;> first
        | rfl
        | (refine absurd ?_ hx; decide)
        | (funext j
           simp only [view, updConn]
           by_cases hj : j = c
           · subst hj; rw [mget_mmod_same, Option.map_map]; rfl
           · rw [mget_mmod_other _ _ _ _ hj])

theorem only_dropUnsent (s : State) (cid : Nat) : Only [.conns] s (dropUnsent s cid) := by
  intro x hx
  cases x <;> first
    | rfl
    | (refine absurd ?_ hx; decide)
    | (funext j; simp only [view, dropUnsent, mget_map, Option.map_map]; rfl)

theorem only_noteOutcome (s : State) (c : Cmd) (o : Outcome0) : Only [.goodput] s (noteOutcome s c o) := by
  have put : ∀ f k, Only [.goodput] s (if mhas s.ras.frameFault f then s
      else { s with ras := { s.ras with frameFault := mset s.ras.frameFault f k } }) := fun f k =>
    Only.ite (Only.refl _ _) (by intro x hx; cases x <;> first | rfl | (refine absurd ?_ hx; decide))
  unfold noteOutcome
  repeat' (first | split | exact Only.refl _ _ | exact put _ _)

theorem only_mboxDone (s : State) (rsp : Bytes) : Only [.irq, .mbox] s (mboxDone s rsp) := by
  intro x hx; cases x <;> first | rfl | (refine absurd ?_ hx; decide)

/-! ## Completing a command (R372, R380, R727) -/

theorem only_setCmds (s : State) (x : SMap Cmd) : Only [.cmds] s { s with adm := { s.adm with cmds := x } } := by
  intro y hy; cases y <;> first | rfl | (refine absurd ?_ hy; decide)

theorem only_setChains (s : State) (x : Chains) : Only [.chains] s { s with chains := x } := by
  intro y hy; cases y <;> first | rfl | (refine absurd ?_ hy; decide)

theorem only_retireCmd (s : State) (cid : Nat) : Only [.cmds, .parts] s (retireCmd s cid) := by
  unfold retireCmd
  split
  · exact Only.refl _ _
  · rename_i c _
    have parts : ∀ f, f ∈ [Field.parts] → f ∈ [Field.cmds, Field.parts] := by decide
    have h1 : Only [.cmds, .parts] s (if c.hdr.opcode = opPART then s else releaseT0 s c.hdr.part c.hub c.blocks) :=
      Only.ite (Only.refl _ _) ((only_releaseT0 _ _ _ _).mono parts)
    have h2 := h1.trans ((only_meter _ c.hdr.part 12 1).mono parts)
    refine Only.trans ?_ ((only_setCmds _ _).mono (by decide))
    split
    · exact Only.ite (h2.trans ((only_meter _ _ _ _).mono parts)) h2
    · exact h2

/-- Completing a command changes the command and its queue, its meters, its trigger, its record, the goodput tally and, for
the mailbox's, its response. -/
theorem only_finishWith (s : State) (cid : Nat) (o : Outcome0) (gate : Nat) (fires : Bool) :
    Only completion s (finishWith s cid o gate fires) := by
  have retire : ∀ u, Only completion s u → Only completion s (retireCmd u cid) := fun u hu =>
    hu.trans ((only_retireCmd u cid).mono (by decide))
  unfold finishWith
  split
  · exact Only.refl _ _
  · split
    · exact Only.refl _ _
    · rename_i c _ _
      have h1 : Only completion s (noteOutcome (dropUnsent s cid) c { o with late := o.late || c.late }) :=
        ((only_dropUnsent s cid).mono (by decide)).trans ((only_noteOutcome _ _ _).mono (by decide))
      have h3 : ∀ x, Only completion s { updCmd (noteOutcome (dropUnsent s cid) c { o with late := o.late || c.late }) cid
          (fun d => { d with result := some { o with late := o.late || c.late }, st := .closed }) with chains := x } := fun x =>
        (h1.trans ((only_updCmd _ cid _).mono (by decide))).trans ((only_setChains _ x).mono (by decide))
      dsimp only
      split
      · exact retire _ ((h3 _).trans ((only_mboxDone _ _).mono (by decide)))
      · split
        · split
          · exact retire _ (h3 _)
          · exact (h3 _).trans ((only_queueMsg _ _ _ _ _ _ _ _ _).mono (by decide))
        · exact retire _ (h3 _)

theorem only_finish (s : State) (cid status detail cframe c0 c1 : Nat) :
    Only completion s (finish s cid status detail cframe c0 c1) := only_finishWith _ _ _ _ _

theorem only_finishBody (s : State) (cid status detail cframe c0 c1 : Nat) (body : Bytes) :
    Only completion s (finishBody s cid status detail cframe c0 c1 body) := only_finishWith _ _ _ _ _

theorem only_interim (s : State) (cid status detail cframe : Nat) (body : Bytes) (count0 gate : Nat) :
    Only [.conns, .wire] s (interim s cid status detail cframe body count0 gate) := by
  unfold interim
  split
  · exact Only.refl _ _
  · split
    · exact Only.refl _ _
    · exact only_queueMsg _ _ _ _ _ _ _ _ _

end Sys2Proof.Machine
end

