-- ==== Sys2Proof/Laws/Ops.lean ====
section
/-!
SUPPORT. What the shared operations do: completing a command, running an ordinary write, drawing a version, and the acted row.
-/

namespace Sys2Proof.Machine

@[simp] theorem forAll_nil {α : Type} (s : State) (f : State → α → State) : forAll s [] f = s := rfl
@[simp] theorem forAll_cons {α : Type} (s : State) (a : α) (xs : List α) (f : State → α → State) :
    forAll s (a :: xs) f = forAll (f s a) xs f := rfl
theorem forAll_append {α : Type} (s : State) (xs ys : List α) (f : State → α → State) :
    forAll s (xs ++ ys) f = forAll (forAll s xs f) ys f := by simp [forAll]

/-- A property every piece of work keeps is kept by the work on a list. -/
theorem forAll_keeps {α : Type} {P : State → Prop} {f : State → α → State} (hf : ∀ s a, P s → P (f s a)) (s : State) (xs : List α)
    (h : P s) : P (forAll s xs f) := by
  induction xs generalizing s with
  | nil => exact h
  | cons a xs ih => exact ih (f s a) (hf s a h)

/-! ## Messages and outcomes -/

@[simp] theorem queueMsg_adm (s : State) (c tc : Nat) (hdr : MsgHdr) (body : Bytes) (forPart : Nat) (cid : Option Nat)
    (final : Bool) (nb : Nat) : (queueMsg s c tc hdr body forPart cid final nb).adm = s.adm := by
  unfold queueMsg; repeat' (first | split | rfl)

@[simp] theorem queueMsg_slices (s : State) (c tc : Nat) (hdr : MsgHdr) (body : Bytes) (forPart : Nat) (cid : Option Nat)
    (final : Bool) (nb : Nat) : (queueMsg s c tc hdr body forPart cid final nb).slices = s.slices := by
  unfold queueMsg; repeat' (first | split | rfl)

/-- Noting an outcome leaves the state as it is, or notes the class of a frame's first fault. -/
theorem noteOutcome_eq (s : State) (c : Cmd) (o : Outcome0) :
    noteOutcome s c o = s ∨ ∃ f k, noteOutcome s c o = { s with ras := { s.ras with frameFault := mset s.ras.frameFault f k } } := by
  have put : ∀ f k, (if mhas s.ras.frameFault f then s
      else { s with ras := { s.ras with frameFault := mset s.ras.frameFault f k } }) = s ∨ ∃ g j,
      (if mhas s.ras.frameFault f then s
        else { s with ras := { s.ras with frameFault := mset s.ras.frameFault f k } }) =
        { s with ras := { s.ras with frameFault := mset s.ras.frameFault g j } } := fun f k => by
    by_cases h : mhas s.ras.frameFault f
    · exact .inl (if_pos h)
    · exact .inr ⟨f, k, if_neg h⟩
  unfold noteOutcome
  split
  · exact .inl rfl
  · exact put _ _

@[simp] theorem noteOutcome_adm (s : State) (c : Cmd) (o : Outcome0) : (noteOutcome s c o).adm = s.adm := by
  obtain h | ⟨_, _, h⟩ := noteOutcome_eq s c o <;> rw [h]

@[simp] theorem noteOutcome_conns (s : State) (c : Cmd) (o : Outcome0) : (noteOutcome s c o).conns = s.conns := by
  obtain h | ⟨_, _, h⟩ := noteOutcome_eq s c o <;> rw [h]

/-- A command whose outcome will be sent keeps its place, with that outcome, LATE when it was late (R727). -/
theorem finishWith_outcome {s : State} {cid : Nat} {c : Cmd} (hc : cmdAt s cid = some c) (hr : replies s cid = true)
    (o : Outcome0) (gate : Nat) (fires : Bool) :
    outcomeOf (finishWith s cid o gate fires) cid = some { o with late := o.late || c.late } := by
  simp only [replies, hc, Bool.and_eq_true, Bool.not_eq_true', bne_iff_ne, ne_eq] at hr
  obtain ⟨⟨⟨hl, hn⟩, hm⟩, hx⟩ := hr
  cases hconn : mget s.conns c.conn with
  | none => simp [hconn] at hx
  | some x =>
    simp only [hconn, Option.any_some] at hx
    unfold finishWith
    simp only [hc, hl]
    rw [if_neg (by simp), if_neg hm]
    have hd : mget (dropUnsent s cid).conns c.conn = some { x with out := mfilter x.out (fun _ m => !(m.cid == some cid && m.next == 0)) } := by
      unfold dropUnsent
      rw [mget_map, hconn]; rfl
    simp only [updCmd_conns, noteOutcome_conns, hd, hx, hn]
    simp only [Bool.not_true, Bool.or_false, Bool.false_eq_true, if_false]
    simp only [outcomeOf, cmdAt, queueMsg_adm, updCmd_adm_cmds, noteOutcome_adm, mget_mmod_same]
    have : mget (dropUnsent s cid).adm.cmds cid = some c := hc
    simp [this]

/-- With no such command nothing happens. -/
theorem finishWith_none {s : State} {cid : Nat} (h : cmdAt s cid = none) (o : Outcome0) (gate : Nat) (fires : Bool) :
    finishWith s cid o gate fires = s := by unfold finishWith; simp [h]

/-- Completing a command touches no slice. -/
theorem finishWith_sameSectors (s : State) (cid : Nat) (o : Outcome0) (gate : Nat) (fires : Bool) :
    SameSectors s (finishWith s cid o gate fires) := fun i k =>
  congrFun (congrFun (only_finishWith s cid o gate fires .sectors (by decide)) i) k

/-! ## Sectors (R266, R331) -/

theorem putSector_same (x : Slice) (i key chunk sector info : Nat) (data : Bytes) :
    mget (putSector x i key chunk sector info data).sectors (8 * chunk + sector) =
      some ⟨key, tweakOf (psaOf i chunk sector) (bits info 63 56) (bits info 31 0), psaOf i chunk sector, info, fitTo 512 data⟩ := by
  simp [putSector, activate, formSector, mget_mset_same]

theorem putSector_other (x : Slice) (i key chunk sector info : Nat) (data : Bytes) (k : Nat) (h : k ≠ 8 * chunk + sector) :
    mget (putSector x i key chunk sector info data).sectors k = mget x.sectors k := by
  simp [putSector, activate, mget_mset_other _ _ _ _ h]

theorem putSector_ordq (x : Slice) (i key chunk sector info : Nat) (data : Bytes) :
    (putSector x i key chunk sector info data).ordq = x.ordq := rfl

/-- A write whose read half succeeds lays its bytes over what it read, and touches no other sector (R266). -/
theorem runWrite_written {s t : State} {i : Nat} {w : OrdWrite} {f : DramFault} {fixed : Bool} (h : runWrite s i w f = .ok (t, fixed)) :
    ∃ base, ordBase s i w f = .ok (base, fixed) ∧ Written s t i w base := by
  unfold runWrite at h
  split at h
  · cases h
  · rename_i base fx hb
    simp only [Except.ok.injEq, Prod.mk.injEq] at h
    obtain ⟨rfl, rfl⟩ := h
    refine ⟨base, hb, ⟨_, by rw [sectorOf, sliceAt_updSlice_same]; exact putSector_same _ _ _ _ _ _ _, rfl, rfl, rfl, rfl⟩, ?_⟩
    intro j hj
    rw [sectorOf, sliceAt_updSlice_same, putSector_other _ _ _ _ _ _ _ _ hj]; rfl

/-- Only its read half stops a write (R267). -/
theorem runWrite_error {s : State} {i : Nat} {w : OrdWrite} {f : DramFault} {e : Nat} :
    runWrite s i w f = .error e ↔ ordBase s i w f = .error e := by
  unfold runWrite
  split <;> simp_all

/-! ## Rows that act -/

/-- A granted command's row finds the command granted under its opcode. -/
theorem actable_some {s : State} {cid op : Nat} {c : Cmd} (h : actable s cid op = some c) :
    cmdAt s cid = some c ∧ c.hdr.opcode = op ∧ c.st = .granted := by
  unfold actable at h
  split at h
  · cases h
  · simp only [Option.ite_none_right_eq_some, Option.some.injEq, Bool.and_eq_true, beq_iff_eq] at h
    obtain ⟨⟨⟨⟨hg, ho⟩, -⟩, -⟩, rfl⟩ := h
    exact ⟨‹_›, ho, of_decide_eq_true hg⟩

end Sys2Proof.Machine
end

