-- ==== Sys2Proof/Tests/Slice0.lean ====
section
/-!
SUPPORT. Tests: what the well-formedness checks refuse, and for each statement with hypotheses a state and operands that meet them,
one for each clause, at the ends of a range where the clause has one.
-/

namespace Sys2Proof.Tests

open Sys2Proof.Machine

/- One theorem at a time: each theorem checked beside the others would take a thread and its stack. -/
set_option Elab.async false

/-! ## Helper states -/

/-- The partition of the tests: open, slices 0 to 15. -/
def part0 : Part0 := { Part0.reset with
  state := 1, ranges := [(0, 16)], quota0 := 1000, quota1 := 1000, entMax := 8, evMax := 8, key := 7, share := 32,
  idxMax := 10000 }

/-- A connection of its issuer, every right in partition 0. -/
def conn0 : Conn :=
  { opened := true, initiator := false, peerId := 9, peerNode := 77, gen := 1, ordered := false, mps := 0, mgmt := false,
    evmask := 0xFFFF, peerAddrs := [5], peerLive := 1, peerPseq := none, ownPseq := 0, src := 0, created := 0, onBoard := false,
    txPsn := 0, txCsn := 0, nextMsn := 0, out := [], peerFloor := 0, rxPsn := none, rxCsn := none, keyLow := 0, floor := 0,
    states := [], inMsgs := [], failLog := [], seenPsn := [], newestAt := 0, owedAck := 0, ceSeen := 0, flushes := [],
    ordNext := (0, 0), pairBad := [], pairLost := [], probes := [], ordPair := 0, grants := [(0, 0x3F)], authFails := 0,
    polDrops := 0, ctlCount := 0, events := [], dropNote := false, shaper := Shaper.reset 0x500 16,
    policer := Shaper.reset 0x500 16, ceFrame := false, quietFrames := 0, held := [], rsp := none, txKeys := ⟨0, [], []⟩,
    rxKeys := ⟨0, [], []⟩, own := none, sends := [] }

/-- A node of variant A24F in summer, every pin at its running level, one partition and one connection. -/
def up : State := { State.reset with
  pins := ⟨true, true, true, true, true, false, false, true, false⟩
  life := { State.reset.life with state := 1, step := 8, selfRefresh := false }
  crypto := { State.reset.crypto with drbgOk := true }
  parts := [(0, part0)]
  conns := [(1, conn0)] }

def withLife (st step : Nat) : State := { up with life := { up.life with state := st, step := step } }
def fenced (s : State) (u : RasUnit) : State := { s with ras := { s.ras with fences := [⟨u, 6, 0⟩] } }
def withPins (p : Pins) : State := { up with pins := p }
def withSessions (x : SMap SpdmSess) : State := { up with crypto := { up.crypto with sessions := x } }

/-! ## Witnesses: pins, resets, life cycle -/

theorem wit_PowerPinsFollowTheRails :
    State.reset.pins.auxIn = false ∧
    (let s := withPins ⟨true, false, false, false, false, true, false, false, false⟩; s.pins.auxIn = true ∧ s.pins.auxOk = false) ∧
    up.pins.auxOk = true ∧
    (let s := withPins ⟨true, true, false, true, false, false, false, false, false⟩;
      s.pins.mainEn = true ∧ s.pins.mainOk = false ∧ s.pins.rstN = false) ∧
    (up.pins.auxIn = true ∧ tripTemp up 23 = some 1840 ∧ (1840 : Int) ≤ 1840 ∧ tripTemp up 25 = some 1920) := by decide +kernel

theorem wit_ResetsLoseEveryKeyAndStopAllWork :
    (up.pins.rstN = true ∧ up.pins.auxIn = true ∧ up.pins.mainOk = true ∧ up.life.state ≠ 3) ∧
    (let s := withPins ⟨true, true, true, true, false, false, false, false, true⟩; s.pins.tapHot = true ∧ s.pins.rstN = false) := by
  decide +kernel

/-- Spring in which nothing fails. -/
def goodBoot : Boot := ⟨8, true, true, [], true, true, true, [], []⟩

theorem wit_SpringRunsFromReset :
    (goodBoot.last = 8 ∧ goodBoot.hub0Ok = true ∧ goodBoot.hub1Ok = true ∧ goodBoot.entropyOk = true ∧ goodBoot.failing = [] ∧
      goodBoot.lanes = [] ∧ goodBoot.peers = []) ∧
    (let s := { State.reset with pins := ⟨true, true, true, true, false, false, false, false, false⟩ };
      s.pins = ⟨true, true, true, true, false, false, false, false, false⟩ ∧ s.life.state = 0 ∧ s.life.fail = 0 ∧ s.parts = [] ∧
        s.ras.fences = []) ∧
    ((withLife 3 8).pins.rstN = true ∧ (withLife 3 8).life.state = 3) ∧
    (let s := withPins ⟨true, true, true, true, true, false, false, false, true⟩; s.pins.rstN = true ∧ s.pins.tapHot = true) := by
  decide +kernel

theorem wit_TheBootWatchdogTriesTheOtherSlotOnce :
    (withLife 0 7).pins.rstN = true ∧ (withLife 0 7).life.state = 0 ∧ (withLife 0 7).life.step < 8 ∧
      (⟨1, true, true, [], true, true, true, [], []⟩ : Boot).last = 1 := by decide +kernel

theorem wit_LifecycleRequestsFollowTheTable :
    (awake up = true ∧ up.life.due = none ∧ up.life.state = 1) ∧ summerOk { withLife 0 8 with time := { up.time with tickMode := 3 } } = true ∧
    summerOk { withLife 0 8 with time := { up.time with tickMode := 0, joined := false } } = false ∧
    (isRoot up = false ∧ isParent up = false) ∧
    (let s := { up with life := { up.life with due := some (3, 3) } }; s.life.due = some (3, 3) ∧ s.life.entering = false ∧
      s.time.left = 0) ∧ up.life.pendWinter = false := by decide +kernel

theorem wit_FatalFaultsPlaceWinter :
    (awake up = true ∧ up.life.state ≠ 3 ∧ up.life.due = none ∧ 8 ≤ up.life.step ∧ (∀ p, p < 20 → (portAt up p).up = false) ∧
      up.pins.mainOk = true) ∧
    (let s := { withLife 0 5 with crypto := State.reset.crypto };
      awake s = true ∧ s.life.state ≠ 3 ∧ s.life.due = none ∧ 5 ≤ s.life.step ∧ s.crypto.drbgOk = false) := by decide +kernel

theorem wit_WinterEntryEndsEveryPartition :
    (let s := { up with life := { up.life with entering := true }, oboe := { up.oboe with casc := true } };
      s.life.entering = true ∧ s.hw.variant = 0 ∧ s.oboe.casc = true ∧ s.hw.pos ≤ s.hw.gsize) ∧
    (let s := { up with hw := { up.hw with gsize := 3, peers := 7 } };
      s.life.step = 8 ∧ 0 < s.hw.gsize ∧ s.hw.boardErr = 0 ∧ s.hw.peers ≠ 2 ^ (s.hw.gsize + 1) - 1) := by decide +kernel

theorem wit_AFailedHealthTestStopsEveryDraw :
    (up.pins.rstN = true ∧ 5 ≤ up.life.step) ∧
    (let s := { withLife 0 5 with crypto := State.reset.crypto, parts := [(0, { part0 with waitDraw := true }), (1, part0)] };
      s.pins.rstN = true ∧ 5 ≤ s.life.step ∧ s.crypto.drbgOk = false ∧ (partAt s 0).waitDraw = true ∧
        (∀ e ∈ s.parts, e.1 = 1 → e.2.waitDraw = false)) := by decide +kernel

/-! ## Witnesses: security and registers -/

theorem wit_SpdmSessionsAreForTheOwner :
    (let s := withSessions [(0, ⟨0, false⟩), (1, ⟨0, false⟩), (2, ⟨0, false⟩), (3, ⟨1, false⟩)];
      spdmServed s = true ∧ spdmDraws s = true ∧ 4 ≤ s.crypto.sessions.length) ∧
    (spdmServed up = true ∧ spdmDraws up = true ∧ up.crypto.sessions.length < 4 ∧ (some 5 : Option Nat) ≠ none ∧
      up.crypto.ownerSet = false) ∧
    (let s := { up with crypto := { up.crypto with ownerSet := true, ownerDigest := 5 } };
      spdmServed s = true ∧ spdmDraws s = true ∧ s.crypto.sessions.length < 4 ∧ (some 6 : Option Nat) ≠ some s.crypto.ownerDigest ∧
      (s.crypto.ownerSet = true ∧ (some 5 : Option Nat) = some s.crypto.ownerDigest)) ∧
    (measureBlock up 1).isSome = true ∧ (measureBlock up 17).isSome = true ∧
    (mget (withSessions [(3, ⟨1, false⟩)]).crypto.sessions 3).isSome = true := by decide +kernel

theorem wit_AnchorsFollowTheOwner :
    (mget (withSessions [(3, ⟨0, false⟩)]).crypto.sessions 3 = some ⟨0, false⟩ ∧ up.crypto.ownerSet = false) ∧
    (mget (withSessions [(0, ⟨1, false⟩)]).crypto.sessions 0 = some ⟨1, false⟩) ∧
    (mget up.crypto.sessions 3 = none) ∧
    (∃ t, exec (.spdmKeyExchange 0 (some 5)) up = .next t) ∧
    (0x40400 ≤ 0x40400 ∧ 0x40DF8 < 0x40E00) ∧
    ({ up.crypto with lock := true }.lock = true) ∧
    (pathOpen up 0 = true ∧ up.crypto.lock = false) ∧
    (pathOpen (withSessions [(0, ⟨0, true⟩)]) 1 = true) :=
  ⟨by decide +kernel, by decide +kernel, by decide +kernel, ⟨_, rfl⟩, by decide, by decide +kernel, by decide +kernel,
    by decide +kernel⟩

theorem wit_RegisterWritesFollowTheAccessTypes :
    pathOpen up 0 = true ∧ regAt 0x3 = none ∧ regAt 0x7000000 = none ∧ (let s := { up with parts := [(127, part0)] }; (partAt s 127).state ≠ 0 ∧ pathOpen s 0 = true) := by
  decide +kernel

theorem wit_AFreePartitionsRegistersAreIgnored :
    pathOpen up 0 = true ∧ (partAt up 127).state = 0 ∧ partRegKind 0x08 = some true ∧ partRegKind 0x50 = some true ∧
    pathOpen (withSessions [(0, ⟨0, true⟩)]) 1 = true := by decide +kernel

theorem wit_SingleRegisterRows :
    (0 < stackCount up ∧ 23 < stackCount up) ∧ ((partAt up 0).state ≠ 0 ∧ bit 1 0 = true) ∧ pathOpen up 0 = true ∧
    (let s := { up with ras := { up.ras with written := 1 } }; s.pins.auxIn = true ∧ s.ras.sback < s.ras.written) ∧
    (awake up = true ∧ up.ras.sback ≤ up.ras.written) ∧ up.hw.variant ≠ 2 ∧
    (if up.hw.variant = 2 then 1150 else 1100) < 1101 := by decide +kernel

/-- A package's first words, whose length does not fit its images: error 1 of Table 16-7. -/
theorem wit_StagingAndCommittingFirmware : awake up = true ∧ packageErr up (1 - up.fw.running) ≠ 0 := by decide +kernel

theorem wit_MaintenanceRequestsAreRefusedAtOnce :
    ((partAt up 0).state ≠ 0 ∧ bit (2 ^ 36 + 24575) 36 = true ∧ bits (2 ^ 36 + 24575) 34 32 = 0 ∧ mrBusy (partAt up 0) = false ∧
      mrTargetOk up 0 0 24575 0 = false) ∧
    (let s := { up with parts := [(0, { part0 with maintReq := BitVec.ofNat 64 (2 ^ 48) })] };
      (partAt s 0).state ≠ 0 ∧ mrBusy (partAt s 0) = true) ∧
    (bits (2 ^ 36 + 2 ^ 32) 34 32 = 1 ∧ bits (2 ^ 36 + 2 * 2 ^ 32) 34 32 = 2 ∧ bits (2 ^ 36 + 3 * 2 ^ 32) 34 32 = 3) := by
  decide +kernel

theorem wit_MaintenanceRequestsStart :
    (partAt up 0).state ≠ 0 ∧ mrBusy (partAt up 0) = false ∧
    (bit (2 ^ 36 + 15) 36 = true ∧ bits (2 ^ 36 + 15) 34 32 = 0 ∧ mrTargetOk up 0 0 15 0 = true) ∧
    (bits (2 ^ 36 + 2 ^ 32 + 5) 34 32 = 1 ∧ mrTargetOk up 0 1 5 0 = true ∧
      freeSpare (spareAt up (coreStack 5) (coreGroup 5)) = some 48) ∧
    (bits (2 ^ 36 + 2 * 2 ^ 32) 34 32 = 2 ∧ mrTargetOk up 0 2 0 0 = true ∧ bit (2 ^ 36 + 2 * 2 ^ 32) 35 = false ∧
      bit (2 ^ 36 + 2 ^ 35 + 2 * 2 ^ 32) 35 = true) ∧
    (bits (2 ^ 36 + 3 * 2 ^ 32 + 15) 34 32 = 3 ∧ mrTargetOk up 0 3 15 0 = true) := by decide +kernel

/-- A mailbox request that has just been given. -/
def asked (req : Bytes) : State := { up with mbox := { up.mbox with go := true, reqLen := req.length, req := bwrite [] 0 req } }

theorem wit_AnAccessListReadsItsRegisters :
    let addrs := [0x10, 0x8000000]
    let s := asked (readList 5 addrs)
    s.pins.rstN = true ∧ 2 ≤ s.life.step ∧ s.mbox.go = true ∧ s.mbox.state ≠ 1 ∧ 5 < 2 ^ 32 ∧ 1 ≤ addrs.length ∧
    addrs.length ≤ 1024 ∧ (∀ a ∈ addrs, a < 2 ^ 32 ∧ (regAt a).isSome = true ∧ ∀ n o, regAt a ≠ some (.stack n, o)) ∧
    bread s.mbox.req 0 s.mbox.reqLen = readList 5 addrs := by
  refine ⟨by decide +kernel, by decide +kernel, by decide +kernel, by decide +kernel, by decide, by decide, by decide, ?_,
    by decide +kernel⟩
  intro a ha
  simp only [List.mem_cons, List.not_mem_nil, or_false] at ha
  rcases ha with rfl | rfl
  · exact ⟨by decide, by decide, fun n o => by simp [regAt]⟩
  · exact ⟨by decide, by decide, fun n o => by simp [regAt]⟩

/-- A request of Table 18-11: operation, count, offset, tag, then the bytes. -/
def mboxReq (op count off tag : Nat) (body : Bytes) : Bytes :=
  leBytes 16 (packFields [(0, 8, op), (32, 32, count), (64, 32, off), (96, 32, tag)]) ++ body

theorem wit_MailboxWritesAndCommands :
    (let req := mboxReq 3 4 1048572 9 [1, 2, 3, 4];
      bread (asked req).mbox.req 0 (asked req).mbox.reqLen = req ∧ mbHeaderOk req = true ∧ mbOp req = 3 ∧
        mbOffset req + mbCount req ≤ 1048576) ∧
    (let req := mboxReq 3 4 1048573 9 [1, 2, 3, 4]; mbHeaderOk req = true ∧ mbOp req = 3 ∧ 1048576 < mbOffset req + mbCount req) ∧
    (let req := mboxReq 4 4 33554428 9 [1, 2, 3, 4];
      mbHeaderOk req = true ∧ mbOp req = 4 ∧ mbOffset req + mbCount req ≤ 33554432 ∧ up.fw.running < 2) ∧
    (let req := mboxReq 1 0 0 9 (leBytes 64 opPART);
      mbHeaderOk req = true ∧ mbOp req = 1 ∧ mbStaged req = false ∧ 64 ≤ (mbBody req).length ∧
        (parseHdr (mbBody req)).opcode = opPART) ∧
    mget (withSessions [(2, ⟨0, true⟩)]).crypto.sessions 2 = some ⟨0, true⟩ := by decide +kernel

/-! ## Well-formedness: an ill-formed term for each check, just past the end of its range -/

/-- Every unit kind of Table 15-21 just past its widths. -/
def badUnits : List RasUnit :=
  [.core 24 0 0, .core 0 256 0, .core 0 0 50, .merge 2 0 0, .merge 0 128 0, .merge 0 0 64, .rowGroup 24576 0, .rowGroup 0 8192,
    .slice 24576, .stack 24, .t0 2 0, .t0 0 512, .lane 16 0, .lane 0 16, .port 16, .blane 4 0, .blane 0 16, .blink 4,
    .laneGroup 24 0, .laneGroup 0 16, .bridge 1024]
def goodUnits : List RasUnit :=
  [.core 23 255 49, .merge 1 127 63, .rowGroup 24575 8191, .slice 24575, .stack 23, .t0 1 511, .lane 15 15, .port 15, .blane 3 15,
    .blink 3, .laneGroup 23 15, .bridge 1023]

theorem test_wf_units : badUnits.all (fun u => !u.wf) = true ∧ goodUnits.all RasUnit.wf = true := by decide +kernel

def badObjs : List T0Obj :=
  [.stream (2 ^ 21), .page (2 ^ 21) 0, .page 0 (2 ^ 18), .context 2 0, .context 0 4096, .indexRec 2 0, .indexRec 0 16384,
    .connection 65536, .chainEntry (2 ^ 18), .event 65536, .parkStaging (2 ^ 21) 0, .parkStaging 0 (2 ^ 18), .restStaging (2 ^ 21) 0,
    .restStaging 0 (2 ^ 18)]

theorem test_wf_objects : badObjs.all (fun o => !o.wf) = true ∧
    [T0Obj.page (2 ^ 21 - 1) (2 ^ 18 - 1), .context 1 4095, .command 9, .mapCopy].all T0Obj.wf = true := by decide +kernel

def rx0 : RxBase := ⟨20, 2 ^ 128 - 1, true, 65535, 2 ^ 20 - 1, false, 0, 2 ^ 32 - 1, 2 ^ 32 - 1, 2 ^ 32 - 1, false, 1, false, 7, 15, none, 0⟩
def badRx : List RxBase :=
  [{ rx0 with port := 21 }, { rx0 with src := 2 ^ 128 }, { rx0 with dport := 65536 }, { rx0 with label := 2 ^ 20 },
    { rx0 with sframe := 2 ^ 32 }, { rx0 with psn := 2 ^ 32 }, { rx0 with dcid := 2 ^ 32 }, { rx0 with keyph := 2 }, { rx0 with tc := 8 },
    { rx0 with tgen := 16 }]

theorem test_wf_packets : badRx.all (fun p => !p.wf) = true ∧ rx0.wf = true := by decide +kernel

def dh0 : DataHdr := ⟨2 ^ 64 - 1, 2 ^ 24 - 1, 2 ^ 24 - 1, 2 ^ 32 - 1, 2 ^ 32 - 1, 2 ^ 32 - 1, true, 127, true, 7, 2 ^ 25 - 1, 65535, 65535, 2 ^ 32 - 1⟩
def badDh : List DataHdr :=
  [{ dh0 with addr := 2 ^ 64 }, { dh0 with rgen := 2 ^ 24 }, { dh0 with region := 2 ^ 24 }, { dh0 with answers := 2 ^ 32 },
    { dh0 with chainh := 2 ^ 32 }, { dh0 with offset := 2 ^ 32 }, { dh0 with part := 128 }, { dh0 with kind := 8 },
    { dh0 with mlen := 2 ^ 25 }, { dh0 with pindex := 65536 }, { dh0 with pcount := 65536 }, { dh0 with msn := 2 ^ 32 }]
def ah0 : AckHdr := ⟨65535, 65535, 2 ^ 32 - 1, 2 ^ 256 - 1, 2 ^ 32 - 1⟩
def nh0 : NakHdr := ⟨255, 65535, 2 ^ 32 - 1, 2 ^ 32 - 1⟩
def hh0 : HsHdr := ⟨65535, 255, false, false, 3, 65535, 2 ^ 32 - 1⟩
def kh0 : Kx := ⟨255, 255, zeros 32, zeros 97, [], zeros 96, true, true, 2 ^ 384 - 1, 2 ^ 64 - 1, 2 ^ 64 - 1, 2 ^ 64 - 1⟩
def th0 : TimeHdr := ⟨-(2 : Int) ^ 63, 2 ^ 32 - 1, 2 ^ 32 - 1, 2 ^ 64 - 1, 0⟩

theorem test_wf_headers :
    badDh.all (fun d => !d.wf) = true ∧ dh0.wf = true ∧
    [{ ah0 with delay := 65536 }, { ah0 with ce := 65536 }, { ah0 with floor := 2 ^ 32 }, { ah0 with bitmap := 2 ^ 256 },
      { ah0 with newest := 2 ^ 32 }].all (fun a => !a.wf) = true ∧ ah0.wf = true ∧
    [{ nh0 with reason := 256 }, { nh0 with pindex := 65536 }, { nh0 with msn := 2 ^ 32 }, { nh0 with npsn := 2 ^ 32 }].all
      (fun a => !a.wf) = true ∧ nh0.wf = true ∧
    [{ hh0 with evmask := 65536 }, { hh0 with status := 256 }, { hh0 with mps := 4 }, { hh0 with gens := 65536 },
      { hh0 with scid := 2 ^ 32 }].all (fun a => !a.wf) = true ∧ hh0.wf = true ∧
    [{ kh0 with kxver := 256 }, { kh0 with suite := 256 }, { kh0 with nonce := [] }, { kh0 with epk := zeros 96 }, { kh0 with sig := [] }, { kh0 with root := 2 ^ 384 }, { kh0 with nodeId := 2 ^ 64 },
      { kh0 with notBefore := 2 ^ 64 }, { kh0 with notAfter := 2 ^ 64 }].all (fun a => !a.wf) = true ∧ kh0.wf = true ∧
    [{ th0 with corr := -(2 : Int) ^ 63 - 1 }, { th0 with corr := (2 : Int) ^ 63 }, { th0 with seq := 2 ^ 32 }, { th0 with sub := 2 ^ 32 },
      { th0 with bint := 2 ^ 64 }].all (fun a => !a.wf) = true ∧ th0.wf = true := by decide +kernel

def boot0 : Boot := ⟨8, true, true, goodUnits, true, true, true, [(20, 65535, true)], [(3, ⟨3, 3, false, false, 3⟩, 2, 2 ^ 64 - 1)]⟩
def badBoots : List Boot :=
  [{ boot0 with last := 0 }, { boot0 with last := 9 }, { boot0 with failing := [.slice 24576] }, { boot0 with lanes := [(21, 0, true)] },
    { boot0 with lanes := [(0, 65536, true)] }, { boot0 with peers := [(4, ⟨0, 0, false, false, 0⟩, 0, 0)] },
    { boot0 with peers := [(0, ⟨4, 0, false, false, 0⟩, 0, 0)] }, { boot0 with peers := [(0, ⟨0, 0, false, false, 0⟩, 4, 0)] },
    { boot0 with peers := [(0, ⟨0, 0, false, false, 0⟩, 0, 2 ^ 64)] }]

theorem test_wf_parts :
    badBoots.all (fun b => !b.wf) = true ∧ boot0.wf = true ∧
    [(⟨4, 0, false, false, 0⟩ : Straps), ⟨0, 4, false, false, 0⟩, ⟨0, 0, false, false, 4⟩].all (fun x => !x.wf) = true ∧
    (⟨26, none⟩ : Temp).wf = false ∧ (⟨25, none⟩ : Temp).wf = true ∧
    (DramFault.flips [(566, 1)]).wf = false ∧ (DramFault.flips [(565, 0)]).wf = false ∧ (DramFault.flips [(565, 1023)]).wf = true ∧
    (⟨4, 0, 0, 0, 0, 0⟩ : OboeMatch).wf = false ∧ (⟨3, 2 ^ 21 - 1, 0, 2 ^ 21 - 1, 2 ^ 18 - 1, 0⟩ : OboeMatch).wf = true ∧
    [(⟨0, 24576, 0, 0⟩ : SectorReq), ⟨0, 0, 2 ^ 17, 0⟩, ⟨0, 0, 0, 8⟩].all (fun r => !r.wf) = true ∧
    [CreditOp.take 8 true 1, .take 0 true 0, .give 8 true 1, .give 0 true 0, .wait 8 true 1, .wait 0 true 0].all (fun c => !c.wf) = true ∧
    [(⟨5, 0, true, 0, 0⟩ : PadReq), ⟨0, 8192, true, 0, 0⟩].all (fun w => !w.wf) = true ∧
    [(⟨0, .write, [.take 8 true 1], []⟩ : TaskOp), ⟨0, .write, [], [[⟨5, 0, true, 0, 0⟩]]⟩].all (fun t => !t.wf) = true ∧
    (⟨0, .write, [.give 7 false 2], [[⟨4, 8191, true, 0, 0⟩]]⟩ : TaskOp).wf = true ∧
    [JoinMsg.sync { th0 with seq := 2 ^ 32 }, .lead (2 ^ 64) 0, .lead 0 (2 ^ 64)].all (fun j => !j.wf) = true ∧
    (MboxSrc.owner 4 []).wf = false ∧ (MboxSrc.owner 3 []).wf = true := by decide +kernel

/-- Every check of a command's own operands, just past its range; the parts above are checked by their own tests. -/
def badCommands : List Instr :=
  [.indexUpdateIndex 0 65536, .quiesceComplete 128, .dataReceive { rx0 with port := 21 } dh0 [], .dataReceive rx0 { dh0 with kind := 8 } [],
    .dataReceive rx0 dh0 (zeros 8193), .ackReceive rx0 { ah0 with ce := 65536 }, .nakReceive rx0 { nh0 with reason := 256 },
    .ackTimer 65536 0, .retransmitTimeout 65536 0 0 0, .flushPacket rx0 (2 ^ 32) 0, .flushPacket rx0 0 (2 ^ 32),
    .flushAckReceive rx0 (2 ^ 32) 0, .flushAckReceive rx0 0 (2 ^ 32), .pathsReceive rx0 (2 ^ 32) 0, .pathsReceive rx0 0 65536,
    .probeReceive rx0 (2 ^ 64) 0 true, .probeReceive rx0 0 (2 ^ 20) true, .pairBadExpiry 65536 0, .close rx0 256,
    .connectReq rx0 hh0 [] kh0, .connectReq rx0 hh0 (List.replicate 17 0) kh0, .connectReq rx0 hh0 [2 ^ 128] kh0,
    .connectReq rx0 { hh0 with mps := 4 } [0] kh0, .connectReq rx0 hh0 [0] { kh0 with suite := 256 }, .connectRsp rx0 hh0 [] kh0,
    .connectRsp rx0 { hh0 with mps := 4 } [0] kh0, .connectCfm rx0 (2 ^ 32), .connectCfmTimeout 65536,
    .timeSync rx0 { th0 with sub := 2 ^ 32 }, .timeDreq rx0 { th0 with sub := 2 ^ 32 } 0, .timeDrsp rx0 { th0 with sub := 2 ^ 32 },
    .baseIntervalStart [⟨26, none⟩], .solsticeBarrierTimeout 294912, .thermalDecision [4], .refreshDue 24576,
    .admissionPass [⟨4, 0, 0, false, 0⟩], .cascadeFail 4, .reserveWindow 24576, .ordinaryReadGrant 24576,
    .sectorRead ⟨0, 24576, 0, 0⟩ .none, .sectorRead ⟨0, 0, 0, 0⟩ (.flips [(566, 1)]), .sectorWrite 24576 .none,
    .sectorWrite 0 (.flips [(566, 1)]), .oboeSearchWindow ⟨0, [⟨4, 0, 0, 0, 0, 0⟩], []⟩, .piccoloTaskCommit 294912 ⟨0, .write, [], []⟩, .piccoloTaskCommit 0 ⟨0, .write, [.take 8 true 1], []⟩,
    .deadlockDetect 294912, .frameOverrunWatchdog 294912, .coreFault (.stack 24) 0 0 0, .coreFault (.stack 0) 16 0 0,
    .coreFault (.stack 0) 0 8 0, .coreFault (.stack 0) 0 0 8, .coreReplay 24576 0, .coreReplay 0 294912, .mergeFold 0 [⟨4, [], false⟩],
    .peerRecordMissing 0 16, .migrationCopy (2 ^ 21) 0, .migrationCopy 0 (2 ^ 18), .migrationCopyFail (2 ^ 21) 0 0,
    .migrationCopyFail 0 (2 ^ 18) 0, .migrationCopyFail 0 0 64, .vpoolHoldExpiry 2 0, .vpoolHoldExpiry 0 4096, .egressPacketStart 21 0,
    .gateArm 21 0, .gateArm 0 (2 ^ 64), .gateCancel 21 0, .gateCancel 0 (2 ^ 64), .gateListSwitch 21, .timeSliceSwitch 128,
    .zeroingComplete 128, .partitionFault 128, .errorReport (.stack 24) 0 0 [], .errorReport (.stack 0) 256 0 [],
    .errorReport (.stack 0) 0 0 [.stream (2 ^ 21)], .targetedTestComplete (.stack 24) true [],
    .targetedTestComplete (.stack 0) true [.stream (2 ^ 21)], .heartbeatLost 24, .rowGroupTestDone 24576 0 false [],
    .rowGroupTestDone 0 8192 false [], .rowGroupTestDone 0 0 false [196608], .laneDown 21 0, .laneDown 0 16, .laneFlap 21 0 0, .laneFlap 0 16 0,
    .portDown 21, .portUp 21 0 true, .portUp 0 65536 true, .nandReadDone 2 0 0, .nandReadDone 0 (2 ^ 21) 0, .nandReadDone 0 0 (2 ^ 18),
    .nandReadFail 2 0 0 0, .nandReadFail 0 (2 ^ 21) 0 0, .nandReadFail 0 0 (2 ^ 18) 0, .nandProgramDone 2 0 0 0 0,
    .nandProgramDone 0 (2 ^ 21) 0 0 0, .nandProgramDone 0 0 (2 ^ 18) 0 0, .nandProgramFail 2 0 0 0, .lifeReqSpring true { boot0 with last := 9 },
    .resetRelease ⟨4, 0, false, false, 0⟩ boot0, .resetRelease ⟨0, 0, false, false, 0⟩ { boot0 with last := 9 },
    .timeJoin { rx0 with port := 21 } (.lead 0 0), .timeJoin rx0 (.lead (2 ^ 64) 0), .bootWatchdog { boot0 with last := 9 }, .thermtrip 26 0,
    .trstRelease ⟨4, 0, false, false, 0⟩ boot0, .trstRelease ⟨0, 0, false, false, 0⟩ { boot0 with last := 9 },
    .spdmGetMeasurements 5 0 none, .spdmGetMeasurements 0 256 none, .spdmGetMeasurements 0 0 (some (2 ^ 256)), .ownerAnchorWrite 4 0,
    .ownerAnchorWrite 0 (2 ^ 384), .mboxPartCtl (.owner 4 []), .mboxAccessList (.owner 4 []), .mboxStagingWrite (.owner 4 []),
    .mboxFirmwareWrite (.owner 4 []), .tableReadGrant 24576, .maintSliceTest 128 0 0, .maintSliceTest 0 (2 ^ 64) 0, .maintSliceTest 0 0 3,
    .maintCoreTest 128 0 0, .maintCoreTest 0 (2 ^ 64) 0, .maintCoreTest 0 0 3, .maintStackRecal 128 0 0, .maintStackRecal 0 (2 ^ 64) 0,
    .maintStackRecal 0 0 3, .maintRowGroupTest 128 0 0, .maintRowGroupTest 0 (2 ^ 64) 0, .maintRowGroupTest 0 0 3, .meterSnap 128 0,
    .meterSnap 0 (2 ^ 64), .logSbackWrite (2 ^ 64), .utcWrite (2 ^ 64) 0, .utcWrite 0 3, .coreFaultRead 24, .registerWrite 3 0 ⟨8, 0⟩,
    .registerWrite 0 (2 ^ 64) ⟨8, 0⟩, .registerWrite 0 0 ⟨8, 2 ^ 64⟩, .registerWrite 0 0 ⟨9, 0⟩, .powerLimitSample 2 0]

set_option maxRecDepth 10000 in
theorem test_wf_commands : badCommands.all (fun i => !i.wf) = true := by decide +kernel

theorem test_wf_accepts :
    [Instr.indexUpdateIndex 0 65535, .dataReceive rx0 dh0 [], .connectReq rx0 hh0 [0] kh0, .coreReplay 24575 294911,
      .coreFault (.core 23 255 49) 15 7 7, .registerWrite 2 (2 ^ 64 - 1) ⟨8, 2 ^ 64 - 1⟩, .rowGroupTestDone 24575 8191 true [196607],
      .resetRelease ⟨3, 3, true, true, 3⟩ boot0, .thermalDecision [0, 3], .frameStart].all Instr.wf = true := by decide +kernel

/-! ## Witnesses: commands on streams -/

/-- A header of partition 0, context 5, layer 1, head 0. -/
def hdr (op p0 p1 : Nat) : Hdr :=
  { opcode := op, hver := 1, flags := 0, part := 0, queue := 0, layer := 1, kvh := 0, tag := 3, tframe := 0, epoch := 0,
    paylen := 0, ctx := 5, chain := 0, p0 := p0, p1 := p1, p2 := 0, rsvd := false }

/-- A granted command that starts in frame 2 and completes in frame 3. -/
def cmdOf (h : Hdr) (payload : Bytes) : Cmd :=
  { conn := 1, hub := 0, hdr := h, payload := payload, msn := 0, region := 0, rgen := 0, addr := 0, chained := false,
    noreply := false, entry := none, target := 2, origTarget := 2, acc := 0, deferrals := 0, st := .granted,
    plan := some ⟨2, 2, 3, 4, [], [], []⟩, snaps := [], opens := [], prog := none, handle := 0, omitted := 0, attended := 0,
    late := false, outSent := false, result := none, blocks := 0, aux := [] }

/-- Why a computation failed. -/
def errOf {α : Type} (e : Except Nat α) : Option Nat :=
  match e with
  | .error d => some d
  | .ok _ => none

def withCmd (s : State) (c : Cmd) : State := { s with adm := { s.adm with cmds := [(1, c)], nextCid := 2 } }

/-- A stream of keys and values, of one page, home hub 0; and a state. -/
def stream0 : Stream :=
  { ctx := 5, layer := 1, kvh := 0, layout := 0, fmt := 0, dcode := 0, group := 1, openPol := 0, home := 0, part := 0,
    fmtVer := 1, length := 64, sealed := 0, window := 0, base := 0, width := 1, chunksMax := 8, parent := noEntry, forkPages := 0,
    depth := 0, children := 0, state := 0 }
def state0 : Stream := { stream0 with layout := 3, length := 0 }

def withStream (s : State) (x : Stream) : State := { s with hub0 := { s.hub0 with streams := [(0, x)] } }

/-- The node with its stream, and with the stream's page sealed in slice 0. -/
def held : State := withStream up stream0
def sealedEnt : PageEnt := ⟨1, false, 0, noEntry, 0, 8, 2, 1, 0⟩
def sealed : State := updSlice held 0 (fun x => linkEnt held 0 { x with alloc := [(0, 9)] } 0 0 sealedEnt)

/-- The same page with its summary record and its sector: it can be read. Without them it cannot. -/
def coded : State := updSlice sealed 0 (fun x =>
  let y := putObject x 0 7 0 (pageObj stream0 sealedEnt 512) (zeros 512)
  putSector y 0 7 8 0 (metaWord kSummary 0 0 0 0 true 1) (summaryHeader 0 0 ⟨5, 1, 0, 0⟩ 1 512 ++ zeros 484))

theorem wit_WritersShowTheirRowsFromTheFrameAfter :
    (let s := withCmd held (cmdOf (hdr opAPPEND (64 * 2 ^ 32) 0) []);
      replies s 1 = true ∧ (actable s 1 opAPPEND).isSome = true) ∧
    (let s := withCmd held (cmdOf (hdr opACCEPT 0 0) []); replies s 1 = true ∧ (actable s 1 opACCEPT).isSome = true ∧
      errOf (findCtx s (cmdOf (hdr opACCEPT 0 0) [])) = some 5) ∧
    (let c := cmdOf (hdr opACCEPT (3 * 2 ^ 32 + 4096) 0) [0, 1, 2];
      let x : ReqCtx := ⟨1, 0, 5, 1, 0, 1, 64, [], [], 0, 0, 0, 0, none, 99, none, false⟩;
      let s := withCmd { held with hub0 := { held.hub0 with ctxs := [(0, x)] } } c;
      replies s 1 = true ∧ actable s 1 opACCEPT = some c ∧ (findCtx s c).toOption = some (0, 0, x) ∧ c.hdr.acount ≠ 0) := by decide +kernel

set_option maxRecDepth 100000 in
/-- A write of one position, a push of one position into each half: their data are dirty pages of their stream. -/
theorem wit_WritersShowTheirRowsFromTheFrameAfter_dirty :
    (let c := cmdOf (hdr opWRITE (64 * 2 ^ 32) 0) (zeros (posBytes 0 0 + trailerBytes 0 0));
      let s := withCmd held c;
      replies s 1 = true ∧ actable s 1 opWRITE = some c ∧ (dirtyPages (viewAt s 2) c).isSome = true) ∧
    (let c := cmdOf (hdr opPUSH (64 * 2 ^ 32) 1)
      (readEntry 1 1 3 1 (imageOf up { stream0 with fmt := 6 } 3 1 (zeros (rawSize 6 0))));
      let s := withCmd (withStream up { stream0 with fmt := 6 }) c;
      replies s 1 = true ∧ actable s 1 opPUSH = some c ∧ pushState (viewAt s 2) c = none ∧
      (dirtyPages (viewAt s 2) c).isSome = true) ∧
    (let c := cmdOf (hdr opPUSH (9 * 2 ^ 32) 64) (readEntry 1 64 5 0 (zeros 4096)); let s := withCmd (withStream up state0) c;
      replies s 1 = true ∧ actable s 1 opPUSH = some c ∧ (pushState (viewAt s 2) c).isSome = true) ∧
    (let c := cmdOf (hdr opFLUSH 0 0) []; let s := withCmd held c;
      replies s 1 = true ∧ actable s 1 opFLUSH = some c ∧ flushPages s (viewAt s 2) 2 c.hdr = []) ∧
    (let c := cmdOf (hdr opFLUSH (2 ^ 44) 0) [];
      let s := withCmd { held with hub0 := { held.hub0 with t0 := [(0, ⟨[], [], true, none, 0⟩)] } } c;
      replies s 1 = true ∧ actable s 1 opFLUSH = some c ∧ flushPages s (viewAt s 2) 2 c.hdr ≠ []) := by decide +kernel

theorem wit_AttendingCommandsLayOutTheirWork :
    (let c := cmdOf (hdr opATTEND (0xFFFFFFFF * 2 ^ 32) 0) (zeros 64); let s := withCmd coded c;
      actable s 1 opATTEND = some c ∧ replies s 1 = true ∧
      ((attStreams (viewAt s 2) c).map (fun a => (pickStream s (viewAt s 2) 1 c a).toOption.map (fun k => k.length))) = [some 1]) ∧
    (let c := cmdOf (hdr opSELECT (0xFFFFFFFF * 2 ^ 32) 0) (zeros 64); let s := withCmd sealed c;
      actable s 1 opSELECT = some c ∧ replies s 1 = true ∧ searchRun s 1 = true ∧
      ((attStreams (viewAt s 2) c).map (fun a => errOf (pickStream s (viewAt s 2) 1 c a)))
        = [some 0]) := by decide +kernel

theorem wit_AStateStepCommitsFromTheFrameAfter :
    let s := withCmd (withStream up state0) (cmdOf (hdr opSTEP 8 0) [])
    (actable s 1 opSTEP).isSome = true ∧ (cmdOf (hdr opSTEP 8 0) []).hdr.commit = true ∧
    (namedStreams (viewAt s 2) (hdr opSTEP 8 0)).length = 1 := by decide +kernel

theorem wit_StreamsOpenAndCloseFromTheFrameAfter :
    (let c := cmdOf (hdr opOPEN 0 0) []; let s := withCmd up c;
      replies s 1 = true ∧ actable s 1 opOPEN = some c ∧ freeIndex (acted s 1) 0 = some 0 ∧ c.hdr.recurrent = false ∧ c.aux = []) ∧
    (let c := cmdOf { hdr opOPEN 0 0 with flags := 2 } [];
      let s := withCmd up c; let x := newStream (ownPfv s) c.hdr true 0 1 0;
      replies s 1 = true ∧ actable s 1 opOPEN = some c ∧ c.hdr.recurrent = true ∧
        (openState (acted (takeBases s 1 0) 1) (handleOf 0 0) x (placeOf (partList s 0) 0 1 0)).isSome = true) ∧
    (let c := cmdOf { hdr opOPEN 0 0 with flags := 2 } [];
      let s := withCmd (updSlice up 0 (fun x => { x with alloc := [(0, poolChunks)] })) c; let x := newStream (ownPfv s) c.hdr true 0 1 0;
      replies s 1 = true ∧ actable s 1 opOPEN = some c ∧ freeIndex (acted s 1) 0 = some 0 ∧
        openState (acted (takeBases s 1 0) 1) (handleOf 0 0) x (placeOf (partList s 0) 0 1 0) = none) ∧
    (let c := cmdOf (hdr opCLOSE 0 0) []; let s := withCmd held c; replies s 1 = true ∧ actable s 1 opCLOSE = some c) := by
  decide +kernel

theorem wit_ForkAndDropActOnEveryStreamOrNone :
    (let c := cmdOf (hdr opFORK 6 64) []; let s := withCmd sealed c;
      replies s 1 = true ∧ actable s 1 opFORK = some c ∧ namedStreams (viewAt s 2) c.hdr = [(0, 0, stream0)] ∧
        stream0.isState = false ∧ c.hdr.forkP % 64 = 0 ∧ freeIndex (acted s 1) 0 = some 1) ∧
    (let c := cmdOf (hdr opDROP 0 0) []; let s := withCmd sealed c;
      replies s 1 = true ∧ actable s 1 opDROP = some c ∧ namedStreams (viewAt s 2) c.hdr = [(0, 0, stream0)] ∧
        c.hdr.dropQ % 64 = 0 ∧ c.hdr.dropQ ≠ stream0.length) := by decide +kernel

/-- The node in a group of two. -/
def onBoard (s : State) (pos : Nat) : State :=
  { s with hw := { s.hw with pos := pos, gsize := 1 },
           maps := { s.maps with cur := some ⟨1, false, 1, 0, 16, 0, [⟨0, 0, 0, pos, 1, 0xFFFF, 0⟩, ⟨77, 5, 0, 1 - pos, 1, 0, 0⟩],
             [(shardOf 5 1, packFields [(0, 16, 0), (16, 16, 0xFFFF), (39, 1, 1)])]⟩ } }

/-- A page that waits for its insert: its summary can be read, or cannot. -/
def lacking (s : State) : List (Nat × Bool) :=
  (lackingPages s (viewAt s 2) 0 stream0).map (fun p => (p.page, (getSummary s p.slice stream0 p.page p.ent).isSome))

/-- The stream's index, complete or not. -/
def idx0 (complete : Bool) : IndexRec := ⟨0, 0, complete, 0, 100, 0, [], [], 0, 0⟩
def withIndex (s : State) (complete : Bool) : State :=
  { s with hub0 := { s.hub0 with index := [(0, idx0 complete)] }, oboe := { s.oboe with tags := [0] } }
def inFrame (f : Nat) (s : State) : State := { s with time := { s.time with frame := f } }

theorem wit_IndexCommandsKeepTheirReservations :
    (let c := cmdOf (hdr opINDEX 4096 0) []; let s := withCmd coded c;
      actable s 1 opINDEX = some c ∧ replies s 1 = true ∧ oneStream (viewAt s 2) c.hdr = some (0, stream0) ∧ c.hdr.indexOp = 0 ∧
        groupOfCmd s c ≤ 1 ∧ freeTag s = some 0 ∧ lacking s = [(0, true)] ∧ s.time.frame < c.planD.cframe) ∧
    (let c := cmdOf (hdr opINDEX 4096 0) []; let s := inFrame 3 (withCmd held c);
      actable s 1 opINDEX = some c ∧ replies s 1 = true ∧ oneStream (viewAt s 2) c.hdr = some (0, stream0) ∧
        c.planD.cframe ≤ s.time.frame ∧ streamAt s 0 = some stream0 ∧ bulkLeft s 1 = false ∧ lacking s = [] ∧
        (lackingPages s s 0 stream0).isEmpty = true) ∧
    (let c := cmdOf (hdr opINDEX 4096 0) []; let s := onBoard (withCmd held c) 1;
      actable s 1 opINDEX = some c ∧ oneStream (viewAt s 2) c.hdr = some (0, stream0) ∧ 1 < groupOfCmd s c ∧ isLead s = false) ∧
    (let c := cmdOf (hdr opINDEX 4096 0) []; let s := withCmd sealed c;
      actable s 1 opINDEX = some c ∧ replies s 1 = true ∧ oneStream (viewAt s 2) c.hdr = some (0, stream0) ∧ c.hdr.indexOp = 0 ∧
        freeTag s = some 0 ∧ lacking s = [(0, false)]) := by decide +kernel

theorem wit_IndexCommandsKeepTheirReservations_more :
    (let c := cmdOf (hdr opINDEX (2 ^ 33 + 4096) 0) []; let s := inFrame 3 (withCmd (withIndex held true) c);
      actable s 1 opINDEX = some c ∧ replies s 1 = true ∧ oneStream (viewAt s 2) c.hdr = some (0, stream0) ∧
        indexOf s 0 = some (idx0 true) ∧ c.hdr.indexOp = 2 ∧ streamAt s 0 = some stream0 ∧ lacking s = [] ∧ bulkLeft s 1 = false ∧
        c.planD.cframe ≤ s.time.frame ∧ (lackingPages s s 0 stream0).isEmpty = true) ∧
    (let c := cmdOf (hdr opINDEX (2 ^ 33 + 4096) 0) []; let s := withCmd (withIndex coded false) c;
      actable s 1 opINDEX = some c ∧ indexOf s 0 = some (idx0 false) ∧ c.hdr.indexOp = 2 ∧ lacking s = [(0, true)]) ∧
    (let c := cmdOf (hdr opINDEX (2 ^ 32) 0) []; let s := withCmd (withIndex held true) c;
      actable s 1 opINDEX = some c ∧ replies s 1 = true ∧ oneStream (viewAt s 2) c.hdr = some (0, stream0) ∧
        indexOf s 0 = some (idx0 true) ∧ c.hdr.indexOp = 1) := by decide +kernel

theorem wit_IndexCommandsKeepTheirReservations_noTag (ts : List Nat) (all : ts = List.range 16384) :
    let c := cmdOf (hdr opINDEX 4096 0) []
    let s := withCmd { held with oboe := { held.oboe with tags := ts } } c
    actable s 1 opINDEX = some c ∧ groupOfCmd s c ≤ 1 ∧ freeTag s = none := by
  intro c s
  refine ⟨rfl, Nat.le_of_ble_eq_true rfl, ?_⟩
  have hp : s.hw.pos = 0 := rfl
  have ht : s.oboe.tags = ts := rfl
  rw [freeTag, hp, ht, all]
  generalize 16384 = n
  simp

/-- The stream's page, and another, parked, with the images of T2, what their staging holds and the reads that wait. -/
def restoring (st : CmdState) (images staged : SMap T2Image) (reads : List (Nat × Nat × Nat)) : State :=
  let s := withCmd (updSlice held 0 (fun x => linkEnt held 0 x 0 0 { sealedEnt with form := 3, nchunk := 0 }))
    { cmdOf (hdr opRESTORE (2 ^ 19) 0) [] with st := st }
  { s with ftl0 := { s.ftl0 with images := images, restStage := staged, reads := reads } }
def parkImg (bs : Bytes) : T2Image := parkImage 7 0 0 0 1 1 0 bs

theorem wit_ParkAndRestoreMoveAllOrNone :
    (let c := cmdOf (hdr opPARK (2 ^ 19) 0) []; let s := withCmd coded c;
      replies s 1 = true ∧ actable s 1 opPARK = some c ∧
        (parkPages (viewAt s 2) c.hdr).map (fun e => (e.1, e.2.map (fun q => (loadForm s e.1 q).toOption.isSome))) =
          some (stream0, [true])) ∧
    (let c := cmdOf (hdr opPARK (2 ^ 19) 0) []; let s := withCmd sealed c;
      replies s 1 = true ∧ actable s 1 opPARK = some c ∧
        (parkPages (viewAt s 2) c.hdr).map (fun e => e.2.map (fun q => (loadForm s e.1 q).toOption.isSome)) = some [false]) ∧
    (let s := restoring .queued [(0, parkImg (zeros 512))] [] [];
      replies s 1 = true ∧ (cmdAt s 1).map (fun c => (c.hdr.opcode, c.st, c.result.isSome)) = some (opRESTORE, .queued, false) ∧
        (cmdAt s 1).map (fun c => (restorePages (viewAt s s.time.frame) c.hdr).map (fun e => (e.2.own, e.2.page))) = some [(0, 0)] ∧
        parkBytes (parkImg (zeros 512)) = 4096 ∧ restoreUse s 0 = 0) ∧
    (let s := restoring .granted [] [(0, parkImg (zeros 512))] []; let h := hdr opRESTORE (2 ^ 19) 0;
      replies s 1 = true ∧ (actable s 1 opRESTORE).isSome = true ∧ oneStream (viewAt s 2) h = some (0, stream0) ∧
        (restorePages (viewAt s 2) h).map (fun e => (mhas s.ftl0.restStage (t0Key e.2.own e.2.page))) = [true] ∧
        runsFit s [(0, chunksFor 512)] = true) ∧
    (let s := restoring .granted [] [] []; let h := hdr opRESTORE (2 ^ 19) 0;
      (actable s 1 opRESTORE).isSome = true ∧
        (restorePages (viewAt s 2) h).map (fun e => (mhas s.ftl0.restStage (t0Key e.2.own e.2.page))) = [false] ∧
        runsFit s [] = true) ∧
    (let s := updSlice (restoring .granted [] [(0, parkImg (zeros 512))] []) 0 (fun x => { x with alloc := [(0, poolChunks)] });
      (actable s 1 opRESTORE).isSome = true ∧ runsFit s [(0, chunksFor 512)] = false) := by decide +kernel

/-- A restore that staging can never hold, and one that waits for another's. -/
theorem wit_ParkAndRestoreMoveAllOrNone_room :
    (let s := restoring .queued [(0, parkImg (zeros 8388609))] [] []; 8 * 1048576 < parkBytes (parkImg (zeros 8388609)) ∧
      mget (ftlAt s 0).images (t0Key 0 0) = some (parkImg (zeros 8388609))) ∧
    (let s := restoring .queued [(0, parkImg (zeros 512))] [(1, parkImg (zeros 8388608))] [];
      parkBytes (parkImg (zeros 512)) ≤ 8 * 1048576 ∧ 8 * 1048576 < restoreUse s 0 + parkBytes (parkImg (zeros 512))) := by
  have size : ∀ n, parkBytes (parkImg (zeros n)) = 4096 * ceilDiv n 4096 := fun n => by
    show 4096 * ceilDiv (List.replicate n 0#8).length 4096 = _
    rw [List.length_replicate]
  have use : ∀ m, restoreUse (restoring .queued [(0, parkImg (zeros 512))] [(1, m)] []) 0 = parkBytes m + 0 + 0 := fun m => rfl
  refine ⟨⟨?_, rfl⟩, ?_, ?_⟩
  · rw [size]; decide
  · rw [size]; decide
  · rw [use, size, size]; decide

theorem wit_ReadReturnsItsPagesInOrder :
    (let c := cmdOf (hdr opREAD (2 ^ 19) 0) []; let s := withCmd coded c;
      actable s 1 opREAD = some c ∧ replies s 1 = true ∧ oneStream (viewAt s 2) c.hdr = some (0, stream0) ∧
        stream0.isState = false ∧ (rangePages (viewAt s 2) c.hdr 0 stream0).map (fun q => (readPage (viewAt s 2) stream0 q).toOption.isSome) = [true]) ∧
    (let c := cmdOf (hdr opREAD (2 ^ 19) 0) []; let s := withCmd sealed c;
      actable s 1 opREAD = some c ∧ (rangePages (viewAt s 2) c.hdr 0 stream0).map (fun q => (readPage (viewAt s 2) stream0 q).toOption) = [none]) ∧
    (let c := cmdOf (hdr opREAD (2 ^ 19) 0) [];
      let s := withCmd (((openState (withStream up state0) 0 state0 0)).getD up) c;
      actable s 1 opREAD = some c ∧ oneStream (viewAt s 2) c.hdr = some (0, state0) ∧ state0.isState = true) := by decide +kernel

/-! ## Witnesses: migration, chains, programs, partitions, maps -/

def mig0 (st : Nat) (abase doneTo : Nat) (copies : List (Nat × Bool)) : MigRec :=
  ⟨0, abase, 1, doneTo, st, true, copies, 1, none, 0⟩
def withMig (s : State) (m : MigRec) : State := { s with hub0 := { s.hub0 with migs := [(0, m)] } }

/-- The copy of the stream's one page from slice 0 to slice 1, planned for the next frame. -/
def copying : State :=
  updSlice (updSlice (withMig coded (mig0 1 1 0 [])) 0 (fun x => { x with credit := 8192 })) 1 (fun x => { x with credit := 8192 })

def copyNeed : Need := copyCost stream0 (mig0 1 1 0 []) (0, 1) [sealedEnt]

theorem wit_MigrationFollowsItsRecord :
    (let c := cmdOf (hdr opMIGRATE (2 ^ 16) 0) []; let s := withCmd coded c;
      actable s 1 opMIGRATE = some c ∧ oneStream (viewAt s 2) c.hdr = some (0, stream0) ∧ c.hdr.reverse = false ∧ migOf s 0 = none) ∧
    (let c := cmdOf (hdr opMIGRATE (2 ^ 32) 0) []; let s := withCmd (withMig coded (mig0 1 1 0 [(0, false)])) c;
      actable s 1 opMIGRATE = some c ∧ oneStream (viewAt s 2) c.hdr = some (0, stream0) ∧ c.hdr.reverse = true ∧
        migOf s 0 = some (mig0 1 1 0 [(0, false)])) ∧
    (let m := mig0 1 0 0 []; let s := withMig coded m;
      migOf s 0 = some m ∧ streamAt s 0 = some stream0 ∧ nextCopy stream0 m = some 0 ∧ m.copies.length < 64 ∧
        s.adm.stopped = false ∧ (copyEnds s stream0 m 0).1 = (copyEnds s stream0 m 0).2 ∧
        (((entsIn (sliceAt s 0) 0).filter (fun e => stream0.isState || e.2.page == 0)).any (fun e => awaitsSeal stream0 0 e.2) ||
          pageBusy s 0 0) = false ∧ sliceFenced s 0 s.time.frame = false ∧ sliceOut s 0 s.time.frame = false) ∧
    (let m := mig0 1 1 0 []; let s := fenced (withMig coded m) (.slice 1);
      migOf s 0 = some m ∧ streamAt s 0 = some stream0 ∧ nextCopy stream0 m = some 0 ∧ copyEnds s stream0 m 0 = (0, 1) ∧
        s.adm.stopped = false ∧ sliceFenced s 1 s.time.frame = true) ∧
    (let m := mig0 1 1 0 [(0, false)]; let c := { cmdOf (hdr opMIGRATE (2 ^ 16) 0) [] with st := .waiting };
      let s := withCmd (withMig coded m) c;
      migOf s 0 = some m ∧ (0, false) ∈ m.copies ∧ cmdAt s m.cid = some c ∧ replies s m.cid = true) := by decide +kernel

/-- The last clause on copies: a page moves to another slice. -/
theorem wit_MigrationFollowsItsRecord_copy :
    let m := mig0 1 1 0 []
    migOf copying 0 = some m ∧ streamAt copying 0 = some stream0 ∧ nextCopy stream0 m = some 0 ∧
    copyEnds copying stream0 m 0 = (0, 1) ∧
    (entsIn (sliceAt copying 0) 0).filter (fun e => stream0.isState || e.2.page == 0) = [(0, sealedEnt)] ∧
    sliceOut copying 0 copying.time.frame = false ∧ sliceOut copying 1 copying.time.frame = false ∧
    lenAt copying (copying.adm.closed + 1) = copying.time.len ∧
    (planNeed copying (fun _ => true) (migOwner 0 0) copyNeed (copying.adm.closed + 1)).any (fun pl =>
      withinCaps copying [] 2 copyNeed pl && otherFits copying (windowSlots copying pl.start) copyNeed pl &&
      (match copyPage (reserve copying copyNeed pl) 0 stream0 pl.cframe (0, 1) 0 sealedEnt with
        | some (.ok _) => true
        | _ => false)) = true := by decide +kernel

/-- An entry's image: it fires on completion and adds to event 65536 × 1. -/
def image0 : Nat := packFields [(192, 32, 65536), (128, 32, 5), (88, 4, 3), (86, 2, 1)]

def withChains (s : State) (c : Chains) : State := { s with chains := c }
def chains0 : Chains := ⟨[(0, ⟨1, 0, image0, 1⟩)], [(0, ⟨1, 0, 7, true⟩)], [], []⟩
def chains1 : Chains := ⟨[(0, ⟨1, 1, image0, 1⟩)], [(0, ⟨1, 0, 7, true⟩)], [], []⟩

theorem wit_ChainEntriesAndEvents :
    (let c := cmdOf (hdr opPOST 0 0) (leBytes 32 image0); let s := withCmd up c;
      replies s 1 = true ∧ actable s 1 opPOST = some c ∧ c.hdr.postOp = 0 ∧ ceBad image0 = false ∧ leAt c.payload 0 32 = image0 ∧
        (partAt s 0).entUsed < (partAt s 0).entMax ∧ freeSlot s.chains.ents (fun e => e.state == 0) 262144 = some 0) ∧
    (ceBad (image0 + 1) = true) ∧
    (let s := withCmd { up with parts := [(0, { part0 with entUsed := 8 })] } (cmdOf (hdr opPOST 0 0) (leBytes 32 image0));
      replies s 1 = true ∧ (partAt s 0).entMax ≤ (partAt s 0).entUsed) ∧
    (let c := cmdOf (hdr opPOST (2 ^ 32 + 2 ^ 18) 0) []; let s := withCmd (withChains up chains0) c;
      replies s 1 = true ∧ actable s 1 opPOST = some c ∧ c.hdr.postOp = 1 ∧ (chainEnt s c.hdr.postHandle).map (fun e => e.part) = some 0 ∧
        (chainEnt (withChains up chains1) c.hdr.postHandle).map (fun e => e.part) = some 1) ∧
    (let c := cmdOf (hdr opPOST (2 * 2 ^ 32) 0) []; let s := withCmd up c;
      replies s 1 = true ∧ actable s 1 opPOST = some c ∧ c.hdr.postOp = 2 ∧ (partAt s 0).evUsed < (partAt s 0).evMax ∧
        freeSlot s.chains.events (fun e => !e.live) 65536 = some 0) ∧
    (let c := cmdOf (hdr opPOST (3 * 2 ^ 32 + 65536) 0) []; let s := withCmd (withChains up chains0) c;
      replies s 1 = true ∧ actable s 1 opPOST = some c ∧ c.hdr.postOp = 3 ∧
        (eventObj s c.hdr.postHandle).map (fun e => e.part) = some 0) ∧
    (let c := cmdOf (hdr opARM 65536 7) []; let s := withCmd (withChains up chains0) c;
      replies s 1 = true ∧ actable s 1 opARM = some c ∧ 1 < s.adm.nextCid ∧ (c.payload = [] ∨ wholeCmd c.payload ≠ none) ∧
        (eventObj s c.hdr.armEvent).map (fun e => decide (c.hdr.thresh ≤ e.counter)) = some true ∧ eventObj up c.hdr.armEvent = none) ∧
    (let c := cmdOf (hdr opARM 65536 8) []; let s := withCmd (withChains up chains0) c;
      actable s 1 opARM = some c ∧ (eventObj s c.hdr.armEvent).map (fun e => decide (e.counter < c.hdr.thresh)) = some true ∧
        waiterCount s < 65536) := by decide +kernel

theorem wit_FencesAndCompletionTriggers :
    (let c := cmdOf (hdr opFENCE 1 0) []; let s := withCmd up c;
      actable s 1 opFENCE = some c ∧ fenceWaits s 1 c = false ∧ c.aux = [] ∧ replies s 1 = true) ∧
    (let c := cmdOf (hdr opFENCE 1 0) []; let d := { cmdOf (hdr opAPPEND 0 0) [] with st := .acted, acc := 1 };
      let s := { up with adm := { up.adm with cmds := [(0, d), (1, c)] } };
      actable s 1 opFENCE = some c ∧ fenceWaits s 1 c = true) ∧
    (let c := { cmdOf (hdr opFENCE 1 0) [] with st := .waiting, aux := [1, 5] }; let s := withCmd up c;
      cmdAt s 1 = some c ∧ c.hdr.opcode = opFENCE ∧ c.st = .waiting ∧ c.result = none ∧ fenceWaits s 1 c = false ∧
        replies s 1 = true) ∧
    (let h := { hdr opAPPEND 0 0 with chain := 2 ^ 18 };
      let s := withChains up { chains0 with trigs := [(1, (h, [], outcome stOK 0 0 0 0, 0, 0))] };
      (mget s.chains.trigs 1).isSome = true ∧ (∀ e ∈ s.chains.trigs, e.1 < 1 → s.time.frame < e.2.2.2.2.1) ∧
        (chainEnt s h.chain).map (fun e => (e.state, e.part)) = some (1, h.part) ∧ ceTrig image0 = 1 ∧ ceAct image0 = 3 ∧
        ceNextEn image0 = false ∧ acceptsStatus s h.chain stOK = true ∧ acceptsStatus s h.chain stFENCED = false ∧
        (eventObj s (ceEvent image0)).isSome = true ∧ waitersOf s (ceEvent image0) = []) := by decide +kernel

theorem wit_ProgramsAndCapabilities :
    (let c := cmdOf (hdr opPROG (5 * 2 ^ 32) 0) (zeros 4); let s := withCmd up c;
      replies s 1 = true ∧ actable s 1 opPROG = some c ∧ c.hdr.progClear = false) ∧
    (let c := cmdOf (hdr opPROG (5 * 2 ^ 32 + 1) 0) []; let s := withCmd up c;
      replies s 1 = true ∧ actable s 1 opPROG = some c ∧ c.hdr.progClear = true) ∧
    (let c := { cmdOf (hdr opCAPS 0 0) [] with st := .queued }; let s := withCmd up c;
      replies s 1 = true ∧ cmdAt s 1 = some c ∧ c.hdr.opcode = opCAPS ∧ c.st = .queued ∧ c.result = none) := by decide +kernel

/-- A `PART_CTL` on partition 0 in a state. -/
def pcState (op a : Nat) (st : Nat) (payload : Bytes) : State :=
  withCmd { up with parts := [(0, { part0 with state := st })] } (cmdOf (hdr opPART (a * 2 ^ 32 + op) 0) payload)

theorem wit_PartitionsChangeAsTheirTableSays :
    (replies (pcState 1 1 0 []) 1 = true) ∧
    ((pcTake (pcState 1 1 1 []) 1 0x01).isSome = true ∧ partStateLast (pcState 1 1 1 []) 0 ≠ 0) ∧
    (let s := withCmd { up with parts := [] } (cmdOf (hdr opPART (2 ^ 32 + 1) 0) (leBytes 4 (15 * 2 ^ 15)));
      (pcTake s 1 0x01).isSome = true ∧ replies s 1 = true ∧ partStateLast s 0 = 0 ∧ s.crypto.drbgOk = true ∧
        rangeWords 1 (leBytes 4 (15 * 2 ^ 15)) = some [(0, 16)] ∧ setFault s 0 none [(0, 16)] = 0) ∧
    ((pcTake (pcState 2 0 5 []) 1 0x02).isSome = true ∧ partStateLast (pcState 2 0 5 []) 0 ≠ 0 ∧ (partAt (pcState 2 0 5 []) 0).tsgEn = false) ∧
    ((pcTake (pcState 3 0 1 []) 1 0x03).isSome = true ∧ partStateLast (pcState 3 0 1 []) 0 = 1) ∧
    (let s := withCmd { up with parts := [(0, { part0 with state := 2, quiesce := some (1, 0) })] }
        { cmdOf (hdr opPART 3 0) [] with st := .waiting };
      (partAt s 0).quiesce = some (1, 0) ∧ (partAt s 0).state = 2 ∧ quiesceMet s 0 = true ∧ replies s 1 = true) ∧
    ((pcTake (pcState 4 0 3 []) 1 0x04).isSome = true ∧ partStateLast (pcState 4 0 3 []) 0 = 3) ∧
    ((pcTake (pcState 5 0 2 []) 1 0x05).isSome = true ∧ partStateLast (pcState 5 0 2 []) 0 ∈ [1, 2, 3]) ∧
    (let s := pcState 6 1 3 (leBytes 4 (24575));
      (pcTake s 1 0x06).isSome = true ∧ partStateLast s 0 = 3 ∧ rangeWords 1 (leBytes 4 24575) = some [(24575, 1)] ∧
        setFault s 0 none [(24575, 1)] = 0 ∧ holdsStream s 0 = false ∧ (partAt s 0).tsgEn = false) := by decide +kernel

theorem wit_PartitionControlOfRightsAndMaps :
    (let s := pcState 7 1 1 []; (pcTake s 1 0x07).isSome = true ∧ replies s 1 = true ∧ partStateLast s 0 ∈ [1, 2, 3] ∧
      (mget s.conns 1).map (fun x => (x.opened, x.mgmt)) = some (true, false)) ∧
    ((pcTake (pcState 8 0 3 []) 1 0x08).isSome = true ∧ (partAt (pcState 8 0 3 []) 0).tsgEn = false) ∧
    (let p := { part0 with tsgEn := true, tsg := 3, tsWeight := 1 };
      let s := withCmd { up with parts := [(0, p), (1, p)] } (cmdOf (hdr opPART 8 1100) []);
      (pcTake s 1 0x08).isSome = true ∧ (partAt s 0).tsgEn = true ∧ otherMembers s 0 3 = true ∧ switchFrame s 3 2 1100 = some 1100) ∧
    ((pcTake (pcState 9 0x48 1 []) 1 0x09).isSome = true ∧ partRegKind 0x48 = some true ∧ bit 0 35 = false) ∧
    (let s := { pcState 0x11 6 1 [] with maps := ⟨none, none, 0, some ⟨6, false, 0, 9, 16, 0, [], []⟩, []⟩ };
      (pcTake s 1 0x11).isSome = true ∧ s.maps.pend.map (fun m => m.epoch) = some (cmdOf (hdr opPART (6 * 2 ^ 32 + 0x11) 0) []).hdr.pcA) ∧
    ((pcTake (pcState 0x11 7 1 []) 1 0x11).isSome = true ∧ (pcState 0x11 7 1 []).maps.pend = none) ∧
    (let req := mboxReq 3 4 0 9 [1, 2, 3, 4]; (pcTake (pcState 0x12 0 1 req) 1 0x12).isSome = true ∧ mbHeaderOk req = true ∧ mbOp req ∈ [1, 3]) ∧
    (let req := mboxReq 4 4 33554428 9 [1, 2, 3, 4];
      (pcTake (pcState 0x12 0 1 req) 1 0x12).isSome = true ∧ mbHeaderOk req = true ∧ mbOp req = 4 ∧
        (pcState 0x12 0 1 req).fw.running < 2 ∧ mbOffset req + mbCount req ≤ 33554432) := by decide +kernel

/-! A map of one member with no shard placed is a map a node can load. -/

theorem leAt_append (a b : Bytes) (i n : Nat) (h : i + n ≤ a.length) : leAt (a ++ b) i n = leAt a i n := by
  unfold leAt
  rw [List.drop_append_of_le_length (by omega), List.take_append_of_le_length (by simp; omega)]

theorem readShards_zeros (f i : Nat) (P : Nat → Bool) (hP : P 0 = true) :
    (readShards f i (zeros (8 * f))).all (fun e => P e.2) = true := by
  induction f generalizing i with
  | zero => rfl
  | succ f ih =>
    have hz : zeros (8 * (f + 1)) = zeros 8 ++ zeros (8 * f) := by
      simp only [zeros, Nat.mul_succ, Nat.add_comm (8 * f)]; rw [List.replicate_append_replicate]
    have h0 : leAt (zeros (8 * (f + 1))) 0 8 = 0 := by rw [hz, leAt_append _ _ _ _ (by decide)]; decide
    have hd : (zeros (8 * (f + 1))).drop 8 = zeros (8 * f) := by
      rw [hz, List.drop_append_of_le_length (by decide)]; rfl
    simp only [readShards, h0, hd]
    rw [if_neg (by decide)]
    simp [hP, ih]

/-- The header and the one member entry of the map. -/
def mapHead : Bytes :=
  leBytes 64 (packFields [(0, 32, 1), (32, 32, 1), (64, 64, 9), (128, 32, 16), (160, 16, 1), (176, 16, 0)]) ++
  leBytes 32 (packFields [(0, 64, 5), (192, 16, 0xFFFF), (224, 16, 0xFFFF)])

theorem wit_PartitionControlOfRightsAndMaps_map :
    let bs := mapHead ++ zeros 524288
    loadFault up bs (leAt bs 20 2) (readMap bs (leAt bs 20 2)) = 0 := by
  intro bs
  have hl : mapHead.length = 96 := by decide +kernel
  have at' : ∀ i n, i + n ≤ 96 → leAt bs i n = leAt mapHead i n := fun i n h => leAt_append _ _ _ _ (hl ▸ h)
  have hn : leAt bs 20 2 = 1 := by rw [at' _ _ (by decide)]; decide +kernel
  have hdrop : bs.drop (64 + 32 * 1) = zeros (8 * 65536) := by
    show (mapHead ++ zeros 524288).drop 96 = _
    rw [List.drop_append_of_le_length (by omega), List.drop_of_length_le (by omega)]; rfl
  have hsl : slice bs 24 40 = slice mapHead 24 40 := by
    unfold slice
    rw [List.drop_append_of_le_length (by omega), List.take_append_of_le_length (by simp; omega)]
  have hm : mapOk up bs 1 (readMap bs 1) = true := by
    have h5 : bs.length = 524384 :=
      by
      show (mapHead ++ List.replicate 524288 0#8).length = _
      rw [List.length_append, hl, List.length_replicate]
    have hsh := readShards_zeros 65536 0
      (fun e => bits e 63 47 == 0 && indexOk 1 (bits e 15 0) && indexOk 1 (bits e 31 16)) (by decide)
    have hmem : (List.range 1).map (readMember bs) = [⟨5, 0, 0xFFFF, 0, 0, 0xFFFF, 0⟩] := by
      simp only [List.range_one, List.map_cons, List.map_nil, readMember]
      rw [at' _ _ (by decide), at' _ _ (by decide), at' _ _ (by decide), at' _ _ (by decide), at' _ _ (by decide),
        at' _ _ (by decide), at' _ _ (by decide)]
      decide +kernel
    simp only [mapOk, readMap, h5, hsl, hdrop, hsh, hmem]
    rw [at' 4 4 (by decide), at' 16 4 (by decide), at' 22 2 (by decide)]
    decide +kernel
  rw [hn, loadFault, hm]
  decide +kernel

/-! ## Witnesses: packets and connections -/

/-- Port 0 is up. -/
def net : State := { up with ports := [(0, { Port.reset with up := true, lanes := 8 })] }
def withConn (s : State) (x : Conn) : State := { s with conns := [(1, x)] }

/-- A packet for connection 1 that verifies under key 0. -/
def pkt : RxBase :=
  { port := 0, src := 5, frameOk := true, dport := 0xC289, label := 0, ce := false, wireBytes := 100, sframe := 0, psn := 0,
    dcid := 1, rsvd := false, keyph := 0, ord := false, tc := 0, tgen := 1, tagKey := some 0, now := 0 }

/-- The first packet of a message of one packet, n bytes long. -/
def dat (n kind msn : Nat) : DataHdr :=
  { addr := 0, rgen := 0, region := 0, answers := 0, chainh := 0, offset := 0, av := false, part := 0, last := true, kind := kind,
    mlen := n, pindex := 0, pcount := 1, msn := msn }

theorem wit_PacketsThatDoNotAuthenticateDoNothing :
    rxFrame net { pkt with frameOk := false } = false ∧ rxFrame net pkt = true ∧ { pkt with tagKey := none }.tagKey = none := by
  decide +kernel

theorem wit_DataPacketsFollowTheirTable :
    (let a := (rxReliable net pkt).1; (rxReliable net pkt).2 = some 0 ∧ (police a pkt).2 = true) ∧
    (let s := withConn net { conn0 with policer := ⟨-1, 0x500, 16⟩ };
      (rxReliable s pkt).2 = some 0 ∧ (police (rxReliable s pkt).1 pkt).2 = false) ∧
    (let d := dat 64 1 0; let x := { conn0 with mps := 1024 };
      serialLt d.msn x.floor = false ∧ d.msn ≠ (x.floor + 4096) % 2 ^ 32 ∧ serialLt ((x.floor + 4096) % 2 ^ 32) d.msn = false ∧
        mhas x.states d.msn = false ∧ mhas x.inMsgs d.msn = false ∧ x.ordered = false ∧ dataOk x d (leBytes 64 opAPPEND) = true ∧
        d.kind ≠ 2 ∧ hasRoom (withConn net x) 1 x d = true ∧ d.pcount = 1 ∧ d.kind = 1 ∧
        (parseHdr (leBytes 64 opAPPEND)).opcode ≠ opFLUSH) := by decide +kernel

/-- The clauses on the window's edges, a logged failure, order, room, and a message of two packets. -/
theorem wit_DataPacketsFollowTheirTable_edges :
    (let x := { conn0 with floor := 1, failLog := [(0, 13)] }; serialLt 0 x.floor = true ∧ loggedReason x 0 = some 13) ∧
    (let x := { conn0 with floor := 1 }; serialLt 0 x.floor = true ∧ loggedReason x 0 = none) ∧
    (serialLt 4096 0 = false ∧ 4096 = (0 + 4096) % 2 ^ 32 ∧ serialLt 4096 4097 = true ∧ serialLt 4096 4095 = false) ∧
    (let x := { conn0 with states := [(3, 0x10D)] }; 0x100 ≤ mgetD x.states 3 0) ∧
    (let x := { conn0 with states := [(3, 1)] }; mgetD x.states 3 0 < 0x100 ∧ mhas x.states 3 = true) ∧
    (let x := { conn0 with ordered := true }; x.ordNext ≠ (1, 0) ∧ x.ordNext = ((dat 64 1 0).msn, (dat 64 1 0).pindex)) ∧
    (dataOk { conn0 with mps := 1024 } (dat 64 1 0) [] = false) ∧
    (let x := { conn0 with mps := 1024 }; let d := { dat 1025 1 0 with pcount := 2, last := false };
      dataOk x d (zeros 1024) = true ∧ hasRoom (withConn net x) 1 x d = true ∧ d.pcount ≠ 1 ∧
        hasRoom (withConn { net with parts := [(0, { part0 with quota0 := 0 })] } x) 1 x d = false) := by decide +kernel

/-- A message of one packet that has been sent and not shown. -/
def sentMsg : OutMsg :=
  { msn := 0, tc := 0, hdr := ⟨2, 0, 32, 1, 0, 0, 0, 0, false, 0⟩, body := zeros 32,
    pkts := [(0, ⟨0, 0, 1, 0, 16, false, false, false⟩)], next := 1, notBefore := 0, forPart := 0, cid := none, final := false }
def sentConn : Conn := { conn0 with out := [(0, sentMsg)], txPsn := 1 }

theorem wit_AcknowledgementAndLoss :
    (let s := withConn net sentConn; let a : AckHdr := ⟨0, 0, 0, 1, 0⟩;
      (rxControl s pkt).2 = some 0 ∧ (mget (rxControl s pkt).1.conns 1).map (fun x =>
        (decide (a.floor = x.peerFloor), widenSeq x.txPsn a.newest, x.txPsn, keyOfMsn x 0, (sentPkts x).map (fun e =>
          ackShows (x.txPsn - 1) a e.2.2.psn))) = some (true, some 0, 1, some 0, [true])) ∧
    (let x := { conn0 with owedAck := 1 }; let s := withConn net x;
      mget s.conns 1 = some x ∧ x.opened = true ∧ 0 < x.owedAck ∧ (pathOf s x x.txCsn).isSome = true ∧ mayCount s false x = true) := by decide +kernel

theorem wit_AcknowledgementAndLoss_naks :
    ((0x0A : Nat) ∈ [0x0A, 0x0D, 0x0E] ∧ (0x0E : Nat) ∈ [0x0A, 0x0D, 0x0E]) ∧
    (let s := withConn net sentConn;
      mget s.conns 1 = some sentConn ∧ keyOfMsn sentConn 0 = some 0 ∧ mget sentConn.out 0 = some sentMsg ∧
        (mget sentMsg.pkts 0).map (fun k => (k.shown, k.lost, k.sent, k.rto, k.tries)) = some (false, false, 0, 16, 1) ∧ 0 + 16 * 256 * 2 ^ min 1 6 ≤ 8192) := by decide +kernel

/-- A key exchange the node accepts on a fabric port: a member of its map, signed by Gwecen. -/
def kx0 : Kx := { kxver := 1, suite := 1, nonce := zeros 32, epk := zeros 97, chain := [], sig := zeros 96, chainOk := true,
                  gwecen := true, root := 0, nodeId := 77, notBefore := 0, notAfter := 2 ^ 62 }
def hs0 : HsHdr := { evmask := 0xFFFF, status := 0, mgmt := false, ordreq := false, mps := 2, gens := 6, scid := 9 }

/-- A map of this node and node 77, its time parent. -/
def map2 (own peer : Nat) : CompMap :=
  ⟨1, false, 1, 0, 16, 1, [⟨0, 0, 0xFFFF, 0, 0, own, 0⟩, ⟨77, 5, 0xFFFF, 0, 0, peer, 0⟩], []⟩
def mapped (own peer : Nat) : State := { net with maps := { net.maps with cur := some (map2 own peer) } }

theorem wit_ConnectionsOpenCloseAndTakePaths :
    (let u := (rxReliable net pkt).1; (rxReliable net pkt).2 = some 0 ∧ (police u pkt).2 = true ∧
      (mget (police u pkt).1.conns 1).map (fun x => (serialLt ((x.floor + 4096) % 2 ^ 32) 4096, serialLt x.floor 4096)) =
        some (false, true)) ∧
    ((rxControl net pkt).2 = some 0 ∧ (mget (rxControl net pkt).1.conns 1).map (fun x =>
      (x.peerPseq.all (fun e => serialLt e 7), x.peerAddrs.findIdx? (fun a => a == pkt.src), mayCount (rxControl net pkt).1 false x)) = some (true, some 0, true)) ∧
    (let s := withConn net { conn0 with peerPseq := some 7, probes := [(0, 33)] };
      (rxControl s pkt).2 = some 0 ∧ (mget (rxControl s pkt).1.conns 1).map (fun x =>
        (x.peerPseq.all (fun e => serialLt e 7), mget x.probes 0)) = some (false, some 33)) ∧
    (let x := { conn0 with pairBad := [(0, 0)] }; let s := withConn net x;
      mget s.conns 1 = some x ∧ mget x.pairBad 0 = some 0 ∧ 0 ≤ s.time.frame ∧ (portAt s (0 / 16)).up = true ∧
        bit x.peerLive (0 % 16) = true ∧ mayCount s false x = true) ∧
    (let s := { mapped 1 0xFFFF with conns := [] };
      rxFrame s pkt = true ∧ pkt.rsvd = false ∧ (portAt s 0).hsCount < s.eg.hsMax ∧ s.crypto.drbgOk = true ∧
        s.conns.find? (fun e => !e.2.initiator && e.2.src == pkt.src && e.2.peerId == hs0.scid) = none ∧
        commonGen hs0.gens = some 2 ∧ freeConn s 0 = some 0 ∧ hs0.mgmt = false ∧
        kxAccepted s 0 false { kx0 with suite := 2 } (reqDigest pkt hs0 [] { kx0 with suite := 2 }) = false ∧
        { s with crypto := State.reset.crypto }.crypto.drbgOk = false) ∧
    (let x := { conn0 with opened := false, initiator := true, own := some ⟨zeros 32, zeros 48, []⟩ }; let s := withConn net x;
      mget s.conns 1 = some x ∧ x.opened = false ∧ x.initiator = true ∧ (aged s 1 x = true → ageOk s pkt.sframe = true) ∧
        commonGen hs0.gens = some 2 ∧ hs0.status = 0 ∧ kx0.gwecen = true ∧ kx0.nodeId = x.peerNode) ∧
    (let x := { conn0 with opened := false }; let s := withConn net x;
      mget s.conns 1 = some x ∧ x.opened = false ∧ x.initiator = false ∧ pkt.psn = 0 ∧ pkt.keyph = 0 ∧ pkt.tagKey = some 0 ∧
        (aged s 1 x = true → ageOk s pkt.sframe = true) ∧ 9 = x.peerId ∧ s.eg.ctlMax ≠ 0) ∧
    (let s := { withConn net { conn0 with opened := false } with time := { net.time with frame := 1024 } };
      (mget s.conns 1).map (fun x => (x.opened, x.initiator, decide (x.created + 1024 ≤ s.time.frame))) = some (false, false, true)) :=
  by decide +kernel

/-- A key exchange whose signature verifies: of a request, and of an answer. -/
theorem wit_ConnectionsOpenCloseAndTakePaths_keys (ok : ∀ k d g, Config.ecdsaOk k d g = true) :
    kxAccepted { mapped 1 0xFFFF with conns := [] } 0 false kx0 (reqDigest pkt hs0 [] kx0) = true ∧
    ∀ x, kxSound net kx0 (answerTh x pkt hs0 [] kx0) = true := by
  refine ⟨?_, fun x => ?_⟩
  · rw [kxAccepted, kxSound, ok]; decide +kernel
  · rw [kxSound, ok]; decide +kernel

/-- A bulk message, and a protected one, that have not begun. -/
def freshMsg (tc : Nat) : OutMsg := { sentMsg with tc := tc, pkts := [], next := 0 }
def sending (tc : Nat) : State := withConn net { conn0 with mps := 1024, out := [(0, freshMsg tc)] }

theorem wit_EgressStartsTheChosenPacket :
    (portPresent net 0 = true ∧ (portAt net 0).up = true ∧ lineRate8 net 0 ≠ 0 ∧ (portAt net 0).busy ≤ frameStartNs net.time ∧
      frameStartNs net.time < frameStartNs net.time + frameNs net.time.len ∧ (choosePacket net 0 0).isNone = true ∧
      (∀ e ∈ net.conns, (pathOf net e.2 0).all (fun r => orderedMove r.1 e.2 == e.2) = true)) ∧
    (let s := sending 3; (choosePacket s 0 1000).map (fun c => (c.1.conn, c.1.key, c.1.idx, c.1.tc)) = some (1, 0, 0, 3)) ∧
    (let s := sending 0; (choosePacket s 0 0).map (fun c => (c.1.conn, c.1.key, c.1.idx, c.1.tc)) = some (1, 0, 0, 0)) ∧
    (let x := portAt net 0; bit (2 * 2 ^ 32 + 2 ^ 16) 16 = true ∧ armOk net x 2 = true ∧ armOk net x 65536 = true ∧ armOk net x 1 = false ∧
      bit (2 ^ 18) 18 = true ∧ bit (2 ^ 18) 16 = false) ∧
    (let s := { net with ports := [(0, { portAt net 0 with arm := true })] };
      (portAt s 0).arm = true ∧ (portAt s 0).armFrame ≤ s.time.frame ∧ (portAt net 0).arm = false) := by decide +kernel

/-! ## Witnesses: time, frames, admission -/

def sync0 (trx : Int) : TimeHdr := { corr := 0, seq := 0, sub := 0, bint := 0, trx := trx }
def withTime (s : State) (t : Time) : State := { s with time := t }

theorem wit_FabricTimeFollowsTheParent :
    (let s := mapped 1 0xFFFF; let u := (rxControl s pkt).1;
      (rxControl s pkt).2 = some 0 ∧ parentConn u = some 1 ∧ joins u = false ∧ u.time.tickMode = 0 ∧ s.life.state ≠ 0 ∧
        s.time.resync = none ∧ -(384 * nsUnits) ≤ phaseError u.time (sync0 (384 * nsUnits)) ∧
        phaseError u.time (sync0 (384 * nsUnits)) ≤ 384 * nsUnits ∧ 384 * nsUnits < phaseError u.time (sync0 (384 * nsUnits + 1)) ∧
        1 ∉ childConns u) ∧
    (let s := withTime (mapped 1 0xFFFF) { net.time with tickMode := 3, dreq := some (0, 4) };
      (rxControl s pkt).2 = some 0 ∧ (rxControl s pkt).1.time.tickMode = 3 ∧ (rxControl s pkt).1.time.dreq = some (0, 4) ∧
        parentConn (rxControl s pkt).1 = some 1) ∧
    (let s := mapped 0xFFFF 0; let u := (rxControl s pkt).1;
      (rxControl s pkt).2 = some 0 ∧ parentConn u ≠ some 1 ∧ 1 ∈ childConns u ∧
        (mget u.conns 1).any (fun x => (pathOf u x x.txCsn).isSome && mayCount u false x) = true) ∧
    (let s := withTime (mapped 1 0xFFFF) { net.time with sinceDreq := 256 }; parentConn s = some 1 ∧ 256 ≤ s.time.sinceDreq) ∧
    (let s := withTime (mapped 1 0xFFFF) { net.time with joined := true, quiet := 16384 };
      s.time.joined = true ∧ s.time.tickMode = 0 ∧ timeParent s ≠ none ∧ s.time.holdover = false ∧ 16384 ≤ s.time.quiet) := by
  decide +kernel

theorem wit_TheTickLineAndTheTimeJoin :
    (let s := withTime net { net.time with tickMode := 1 };
      s.time.tickMode = 1 ∧ (decide (128 ≤ 128) = true ↔ s.time.bint % 16 = 0) ∧ ¬(decide (128 ≤ 127) = true ↔ s.time.bint % 16 = 0) ∧
        s.time.byLinks = false) ∧
    (let s := { withTime (mapped 1 0xFFFF) { net.time with joinFrame := some 5 } with life := (withLife 0 8).life };
      (rxControl s pkt).2 = some 0 ∧ joins s = true ∧ parentConn s = some 1 ∧ s.time.joinFrame = some 5) ∧
    (let s := { withTime (withConn net { conn0 with onBoard := true }) { net.time with tickMode := 1 } with
        life := (withLife 0 8).life, hw := { net.hw with peerIds := [77] } };
      (rxControl s pkt).2 = some 0 ∧ s.life.state = 0 ∧ s.time.joined = false ∧ s.time.tickMode = 1 ∧ boardConn s (leadPos s) = some 1) ∧
    ({ net.time with joined := true }.joined = true) := by decide +kernel

theorem wit_FramesAndBaseIntervalsAreCounted :
    (awake net = true ∧ net.life.entering = false) ∧
    (let s := withTime net { net.time with left := 0 }; awake s = true ∧ s.time.left = 0) ∧
    (let s := withTime net { net.time with left := 0, len := 0, half := false }; s.time.len = 0 ∧ s.time.half = false) ∧
    (let s := withTime net { net.time with left := 1 }; awake s = true ∧ s.time.left ≠ 0) := by decide +kernel

theorem wit_StepsRefreshesAndSlots :
    (let s := withTime net { net.time with bint := 8 };
      awake s = true ∧ s.time.bint % 16 = 8 ∧ s.time.decided ≠ s.time.bint / 16 + 1 ∧ s.hw.variant = 0 ∧ s.oboe.casc = false) ∧
    (net.time.bint % 16 ≠ 8) ∧
    (let s := updStack net 23 (fun x => { x with refDue := 8 });
      awake s = true ∧ 24575 < sliceCount s ∧ (stackAt s (24575 / 1024)).refDue - (sliceAt s 24575).refDone = 8) ∧
    (let s := updStack net 0 (fun x => { x with refDue := 9 }); 8 < (stackAt s (0 / 1024)).refDue - (sliceAt s 0).refDone) ∧
    (let s := { net with time := { net.time with bint := 15 }, parts := [] }; s.time.bint % 16 = 15 ∧ (partAt s 0).maintLeft = 0) := by
  decide +kernel

theorem wit_AdmissionClosesTheNextFrame :
    (passReady net = true ∧ net.adm.cmds = [] ∧ net.adm.jobs = []) ∧
    (let s := { withCmd held (cmdOf (hdr opATTEND 0 0) []) with adm := { (withCmd held (cmdOf (hdr opATTEND 0 0) [])).adm with closed := 1 } };
      passReady s = false) := by decide +kernel

/-! ## Witnesses: the Oboe, sectors, cores and folds -/

/-- The state a command answers. -/
def after (i : Instr) (s : State) : State :=
  match exec i s with
  | .next t => t
  | _ => s

def withOboe (s : State) (ups : List OboeUpd) : State := { s with oboe := { s.oboe with tags := [0], updates := ups } }
def insert0 (bulk : Bool) : OboeUpd := .insert 0 0 0 0 1 0 [] bulk 1
def rec0 (n : Nat) : IndexRec := ⟨0, 0, true, 0, 100, n, List.replicate 64 0, List.replicate 64 0, 0, 0⟩

theorem wit_TheOboeSearchesAndUpdates :
    (let c := { cmdOf { hdr opSELECT (0xFFFFFFFF * 2 ^ 32) 0 with p2 := 2 ^ 21 } (zeros 64) with plan := some ⟨1, 1, 2, 2, [], [], []⟩ };
      let s := withCmd held c;
      s.hw.variant = 0 ∧ cmdAt s 1 = some c ∧ c.st = .granted ∧ c.hdr.prefilter = true ∧ s.oboe.en = true ∧
        c.planD.start = s.time.frame + 1 ∧ mhas s.oboe.results 1 = false ∧ groupOfCmd s c ≤ 1 ∧
        1 < groupOfCmd (onBoard s 1) c ∧ isLead (onBoard s 1) = false ∧ isLead (onBoard s 0) = true) ∧
    (let s := withOboe { held with hub0 := { held.hub0 with index := [(0, rec0 99)] } } [insert0 true, insert0 false];
      searchWaits s = false ∧ s.oboe.slotsUsed < updateSlots s.oboe.step s.time.len ∧ nextUpdate s = some 1 ∧
        s.oboe.updates[1]? = some (insert0 false) ∧ bulkOf (insert0 false) = none ∧
        mget (hubAt s 0).index (idxOfHandle 0) = some (rec0 99) ∧ streamAt s 0 = some stream0 ∧ (rec0 99).count < (rec0 99).reserve) ∧
    (nextUpdate (withOboe held [.rewrite 0 0 0 0 2]) = some 0 ∧ nextUpdate (withOboe held [.remove 0 0 0 0]) = some 0 ∧
      nextUpdate (withOboe held [insert0 true]) = some 0 ∧ bulkOf (insert0 true) = some 1) ∧
    (let c := { cmdOf { hdr opSELECT 0 0 with p2 := 2 ^ 21 } [] with plan := some ⟨1, 1, 2, 2, [], [], []⟩ };
      let s := { up with adm := { up.adm with cmds := [(1, c), (2, c)] }, oboe := { up.oboe with results := [(1, [])] } };
      searchWaits s = true) ∧
    (let c := cmdOf { hdr opSELECT 0 0 with p2 := 2 ^ 21 } [];
      let s := withCmd { held with oboe := { held.oboe with casc := true }, hw := { held.hw with gsize := 3 } } c;
      s.oboe.casc = true ∧ 3 ≤ s.hw.gsize ∧ cmdAt s 1 = some c ∧ c.st = .granted ∧ c.hdr.prefilter = true ∧
        mhas s.oboe.results 1 = false ∧ replies s 1 = true) := by decide +kernel

def write0 (n : Nat) : OrdWrite := ⟨1, 0, 3, 1, 512 - n, zeros n, metaWord kRows 1 1 0 0 false 1, 0, true⟩
def writing (n : Nat) : State := updSlice held 0 (fun x => { x with ordq := [write0 n] })

/-- An `ATTEND` whose row has run: its page waits on slice 0. -/
def attCmd : Cmd := { cmdOf (hdr opATTEND (0xFFFFFFFF * 2 ^ 32) 0) (zeros 64) with snaps := [⟨0, 0, 64, some stream0⟩] }
def attending : State := { after (.attend 1) (withCmd coded attCmd) with time := { up.time with frame := 2 } }
/-- The same with the page's scores all committed: its exponentials are ready, on core 0. -/
def scored : State := updSlice attending 0 (fun x => { x with work := mmod x.work 1 (fun w =>
  { w with pages := w.pages.map (fun p => { p with rows := p.rows.map (fun r => { r with sDone := [0, 1, 2, 3] }) }) }) })
def attPage : Option PageTask := (mget (sliceAt attending 0).work 1).bind (fun w => w.pages[0]?)

/-- A sector written over by another unit's: it fails the check path at its own place. -/
def stray : Sector := formSector 1 0 0 0 0 []
/-- The slice of a write whose sector holds data already, under another key. -/
def strayWrite : OrdWrite := { write0 4 with fresh := false }
def straySlice : State := updSlice held 0 (fun x => { putSector x 0 6 3 1 0 [] with ordq := [strayWrite] })

theorem wit_SectorsAreWrittenReadAndChecked :
    (sliceOut (fenced up (.slice 0)) 0 0 = true ∧ sliceOut up 0 0 = false) ∧
    ((sliceAt (writing 4) 0).ordq = [write0 4] ∧ (write0 4).done ≤ (inFrame 1 (writing 4)).time.frame ∧
      (ordBase (writing 4) 0 (write0 4) .none).toOption = some (zeros 512, false)) ∧
    (let s := withCmd straySlice (cmdOf (hdr opAPPEND 0 0) []);
      (sliceAt s 0).ordq = [strayWrite] ∧ errOf (ordBase s 0 strayWrite .none) = some 3 ∧ strayWrite.cid < 2 ^ 40 ∧
        replies s strayWrite.cid = true) ∧
    (let s := updSlice held 0 (fun x => { x with reads := [(1, 2)], grants := 15 });
      (sliceAt s 0).reads ≠ [] ∧ (sliceAt s 0).grants < grantLimit s.time ∧ s.adm.jobs = []) := by decide +kernel

theorem wit_SectorsAreWrittenReadAndChecked_tasks :
    (let r : SectorReq := ⟨1, 0, 0, 0⟩; let s := attending;
      (cmdAt s 1).map (fun c => c.result) = some none ∧ sliceOut s 0 s.time.frame = false ∧ r.chunk < tableChunk ∧
      s.time.windowClosed = false ∧ (taskReading s r).isSome = true ∧ withinFetch s r = true ∧
      (match cmdAt s 1, taskReading s r with
        | some c, some t => (taskCtx c t).any (fun (tc : TaskCtx) => (taskSectors tc.x t).contains (8 * (0 - t.chunk) + 0) &&
            (readTaskSector (sliceAt s 0) 0 (partKey s 0) tc.x t 0 .none).toOption.isSome &&
            errOf (readTaskSector (sliceAt s 0) 0 (partKey s 0) tc.x t 0 (.replaced stray)) == some 3)
        | _, _ => false) = true ∧ stagingFull (sliceAt s 0) 0 = false ∧ replies s 1 = true) ∧
    (let r : SectorReq := ⟨1, 0, tableChunk, 0⟩; let c := { attCmd with plan := some { attCmd.planD with chunks := [(0, [])] } };
      let s := withCmd attending c;
      cmdAt s 1 = some c ∧ c.result = none ∧ tableChunk ≤ r.chunk ∧ r.chunk < tableChunk + 160 ∧ planTouches c r.slice = true ∧
        errOf (readTableSector (sliceAt s 0) 0 s.crypto.ksys 0 (.replaced stray)) = some 3 ∧ replies s 1 = true) ∧
    (let s := { attending with slices := [(0, sliceAt attending 0)], time := { up.time with frame := 1 } };
      s.slices.length = 1 ∧ (sliceAt attending 0).work.length = 1 ∧ (sliceAt attending 0).states = [] ∧
        replayWaits s 0 1 = false ∧ sliceOut s 0 s.time.frame = false ∧
        (match cmdAt s 1, mget (sliceAt s 0).work 1 with
          | some c, some w => badPage s 0 c w s.time.frame == none
          | _, _ => false) = true) := by decide +kernel

/-- How the credit operations of a task end on core 0, from its counters at the start. -/
def creditEnd (ops : List CreditOp) : CreditEnd := (runCredits false (creditsOf (coreAt attending 0)) [] ops).2.2

theorem wit_CoresFaultAndReplay :
    (let s := updCore attending 0 (fun x => { x with waits := [(0, (0, true, 1))] });
      unitPresent s (.slice (coreSlice 0)) = true ∧ (coreAt s 0).stopped = false ∧ sliceFenced s (coreSlice 0) s.time.frame = false ∧
        solsticeSlice s (coreSlice 0) = false ∧ allBlocked s 0 = true) ∧
    (overruns { scored with time := { scored.time with windowClosed := true } } 0 = true ∧ allBlocked attending 0 = false) ∧
    (let s := attending;
      placeServed (spareAt s 0 0) 0 = some 0 ∧ coreNo 0 0 (0 / 12) (0 % 12) = 0 ∧ unitPresent s (.core 0 0 0) = true ∧
        (cmdAt s 1).map (fun c => c.result) = some none ∧ sliceOut s (coreSlice 0) s.time.frame = false ∧
        replayWaits s (coreSlice 0) 1 = false ∧ (coreAt s 0).waits = [] ∧
        creditEnd [.take 0 true 1] = .fault 1 0 (creditEngine 0 true false) ∧ creditEnd [.wait 0 true 1] = .blocked ∧
        creditEnd [.take 0 false 1] = .done ∧
        (runPad s 0 0 [[⟨2, 5, false, 0, 2⟩]]).2 = some 2 ∧ (runPad s 0 0 [[⟨2, 5, true, 7, 0⟩]]).2 = none ∧
        attPage.any (fun p => (taskCtx attCmd p).any (fun (tc : TaskCtx) => decide (p.frame ≤ s.time.frame) &&
          assigned (scoreCore s 0) tc.x.dv 0 (.score 0 0 0))) = true ∧
        ((mget (sliceAt s 0).work 1).map (fun w => boardFull (sliceAt s 0) w (.score 0 0 0))) = some false) ∧
    (let s := withCmd (writing 4) (cmdOf (hdr opAPPEND 0 0) []);
      (sliceAt s 0).ordq.filter (fun w => w.cid == 1) = [write0 4] ∧ (ordBase s 0 (write0 4) .none).toOption.isSome = true) ∧
    (let s := { up with parts := [(0, { part0 with solstice := true })] };
      solsticeSlice s (coreSlice 0) = true ∧ (coreAt s 0).stopped = false ∧ sliceFenced s (coreSlice 0) s.time.frame = false) ∧
    ((coreAt (updCore up 0 (fun x => { x with stopped := true })) 0).stopped = true) := by decide +kernel

theorem wit_CoresFaultAndReplay_replay :
    (let s := { attending with ras := { attending.ras with replays := [⟨0, 0, 1, [1]⟩] } };
      s.ras.replays.find? (fun r => r.slice == 0 && r.core == 0) = some ⟨0, 0, 1, [1]⟩ ∧ 1 < s.time.frame ∧
        sliceOut s 0 s.time.frame = false ∧
        (resAt s s.time.frame).replay0 + replayCycles s ⟨0, 0, 1, [1]⟩ ≤ 16 * mergeCycles s.time.len ∧ replies s 1 = true ∧
        (match cmdAt s 1, mget (sliceAt s 0).work 1 with
          | some c, some w => badPage s 0 c w 1 == none
          | _, _ => false) = true) ∧
    (let s := { attending with ras := { attending.ras with replays := [⟨0, 0, 1, [1]⟩] },
                               adm := { attending.adm with res := [(2, { (resAt attending 2) with replay0 := 16 * mergeCycles 1 + 1 })] } };
      ¬((resAt s s.time.frame).replay0 + replayCycles s ⟨0, 0, 1, [1]⟩ ≤ 16 * mergeCycles s.time.len)) := by decide +kernel

/-- An `ATTEND` of a stream with no page has nothing left to run. -/
def folding : State :=
  { after (.attend 1) (withCmd (withStream up { stream0 with length := 0 })
      { attCmd with snaps := [⟨0, 0, 0, some { stream0 with length := 0 }⟩] }) with time := { up.time with frame := 3 } }

theorem wit_FoldsEndTheAttendingCommands :
    (let s := folding;
      (cmdAt s 1).map (fun c => (c.st, c.result, c.hdr.opcode, c.planD.service)) = some (.acted, none, opATTEND, 2) ∧
        2 ≤ s.time.frame ∧ workReady s 1 = true ∧ replies s 1 = true ∧ groupOfCmd s attCmd ≤ 1) ∧
    (workReady attending 1 = false) ∧
    (let s := onBoard folding 0; 2 ≤ groupOfCmd s attCmd ∧ isLead s = true ∧ workReady s 1 = true ∧ replies s 1 = true ∧
      2 % 2 ^ groupOfCmd s attCmd ≠ 0 ∧ bit (2 % 2 ^ groupOfCmd s attCmd) s.hw.pos = false ∧ 2 < s.time.frame) ∧
    (let s := onBoard folding 1; 2 ≤ groupOfCmd s attCmd ∧ isLead s = false) := by decide +kernel

/-- A `STATE_STEP` whose one state has stepped. -/
def stepping (outFrame : Nat) : State :=
  let c := { cmdOf (hdr opSTEP 0 0) [] with st := .acted, plan := some ⟨2, 2, 3, outFrame, [], [], []⟩ }
  let w : StateWork := ⟨0, 0, [], [1], [[]], [], [], true, false⟩
  { withCmd (updSlice (withStream up state0) 0 (fun x => { x with states := [(1, [w])] })) c with time := { up.time with frame := 3 } }

theorem wit_FoldsEndTheAttendingCommands_step :
    (let s := stepping 2;
      (cmdAt s 1).map (fun c => (c.st, c.result, c.outSent)) = some (.acted, none, false) ∧
        (cmdAt s 1).map (fun c => (c.hdr.opcode, c.hdr.commit, c.planD.outFrame, c.planD.cframe)) = some (opSTEP, false, 2, 3) ∧ outputsWait s 1 = false ∧ 2 ≤ s.time.frame ∧
        ((cmdAt s 1).bind (stepOutputs s 1)).isSome = true) ∧
    (let s := stepping 3;
      (cmdAt s 1).map (fun c => (c.planD.outFrame, c.planD.cframe)) = some (3, 3) ∧ replies s 1 = true ∧ 3 ≤ s.time.frame ∧
        ((cmdAt s 1).bind (stepOutputs s 1)).isSome = true) ∧
    (let s := { stepping 2 with slices := [] }; ((cmdAt s 1).bind (stepOutputs s 1)).isNone = true) := by decide +kernel

/-! ## Witnesses: jobs, maps, faults, links, NAND -/

def job0 (kind : JobKind) (source : Nat) (granted : Option Nat) : Job :=
  { kind := kind, handle := 0, page := 0, slice := 0, cid := 1, target := 0, granted := granted, coded := [], summary := [], k := 1,
    source := source }
def withJob (s : State) (j : Job) : State := { s with adm := { s.adm with jobs := [(1, j)] } }
def t0page : T0Page := ⟨[], [], true, none, 0⟩
def withPage (s : State) : State := { s with hub0 := { s.hub0 with t0 := [(0, t0page)] } }
/-- The stream's page open in its slice. -/
def opened : State := updSlice held 0 (fun x => linkEnt held 0 x 0 0 { sealedEnt with form := 1 })

/-- The same with its 64 rows written: it can be uploaded. -/
def rowsIn : State :=
  let e := { sealedEnt with form := 1, nchunk := 3 }
  updSlice held 0 (fun x => putObject (linkEnt held 0 x 0 0 e) 0 7 0 (pageObj stream0 e 0) (zeros 16384))

theorem wit_PagesAreCodedAndSealed_upload :
    (let s := withJob rowsIn (job0 .upload 0 (some 0)); (jobAt s 1).map (fun j => (j.kind, j.left)) = some (.upload, none) ∧
      (pageEnt s 0 0).map (fun q => (q.1, (openRaw s stream0 q.2.2 q.1 64).toOption.isSome)) = some (0, true) ∧
      sliceOut s 0 s.time.frame = false ∧ rerunDue s (jobOwner 1) = false) ∧
    (let s := withJob opened (job0 .upload 0 (some 0)); (pageEnt s 0 0).map (fun q => (errOf (openRaw s stream0 q.2.2 q.1 64)).isSome) =
      some true) := by decide +kernel

theorem wit_PagesAreCodedAndSealed :
    (let s := withJob held (job0 .code 2 none); (jobAt s 1).map (fun j => (j.kind, j.source, decide (j.target ≤ s.time.frame))) =
      some (.code, 2, true) ∧ streamAt s 0 = some stream0) ∧
    (let s := withPage (withJob held (job0 .code 0 none)); (jobAt s 1).map (fun j => j.source) = some 0 ∧ t0At s 0 0 = some t0page) ∧
    (let s := withJob opened (job0 .upload 0 (some 0)); (jobAt s 1).map (fun j => (j.kind, j.granted)) = some (.upload, some 0) ∧
      streamAt s 0 = some stream0 ∧ (pageEnt s 0 0).isSome = true ∧ sliceOut s 0 s.time.frame = false) ∧
    (let s := fenced (withJob opened (job0 .upload 0 (some 0))) (.slice 0); sliceOut s 0 s.time.frame = true ∧ (pageEnt s 0 0).isSome = true) ∧
    (let s := withJob opened (job0 .seal 0 (some 0)); (jobAt s 1).map (fun j => (j.kind, j.acted)) = some (.seal, false) ∧
      (pageEnt s 0 0).isSome = true ∧ sliceOut s 0 s.time.frame = false) ∧
    (let s := withPage (withJob opened (job0 .writePart 0 (some 0))); (jobAt s 1).map (fun j => (j.kind, j.acted)) = some (.writePart, false) ∧
      t0At s 0 0 = some t0page ∧ (pageEnt s 0 0).isSome = true) ∧
    (let s := withPage (withJob opened (job0 .code 1 none)); wbFirst s 1 (job0 .code 1 none) = true ∧ t0At s 0 0 = some t0page ∧
      (takeTiles s 0 (blockCount 0)).isSome = true) ∧
    (let s := { withPage (withJob opened (job0 .code 1 none)) with adm := { (withJob opened (job0 .code 1 none)).adm with
        res := [(0, { (resAt up 0) with tiles0 := 1000000 })] } };
      wbFirst s 1 (job0 .code 1 none) = true ∧ (takeTiles s 0 (blockCount 0)).isNone = true) := by decide +kernel

def rctx (expiry : Nat) : ReqCtx := ⟨1, 0, 5, 1, 0, 1, 64, [], [], 0, 0, 0, 0, none, expiry, none, false⟩

theorem wit_RerunsAndHeldContexts :
    (let c := { cmdOf (hdr opATTEND 0 0) [] with st := .acted }; let s := withJob (withCmd up c) (job0 .rerun 0 (some 0));
      (jobAt (withJob (withCmd up c) (job0 .rerun 0 (some 0))) 1).map (fun j => (j.kind, j.granted, j.acted)) = some (.rerun, some 0, false) ∧
        cmdAt s 1 = some c ∧ (0 : Nat) ≤ s.time.frame ∧ rerunDue (delJob s 1) 1 = false) ∧
    (let c := { cmdOf (hdr opSTEP 8 0) [] with st := .acted }; let j := job0 .rerun 0 (some 1);
      let s := { withCmd up c with adm := { (withCmd up c).adm with jobs := [(1, j), (2, j)] } };
      jobAt s 1 = some j ∧ cmdAt s 1 = some c ∧ c.hdr.opcode = opSTEP ∧ j.target ≤ s.time.frame ∧ s.time.frame < 1 ∧
        rerunDue (updJob s 1 (fun y => { y with acted := true })) 1 = true) ∧
    (let s := withJob up (job0 .rerun 0 (some 1)); cmdAt s 1 = none ∧ s.time.frame < 1) ∧
    (let s := { up with hub0 := { up.hub0 with ctxs := [(4095, rctx 5)] }, time := { up.time with frame := 6 } };
      mget (hubAt s 0).ctxs 4095 = some (rctx 5) ∧ (rctx 5).expiry < s.time.frame ∧ s.time.frame ≤ (rctx 6).expiry) := by decide +kernel

def map1 (epoch equinox : Nat) : CompMap := ⟨epoch, false, 1, equinox, 16, 0, [], []⟩
def withGroup (s : State) (f kind : Nat) : State :=
  { s with maps := { s.maps with groups := [(3, ⟨0, some (f, 0, 2, kind), []⟩)] }, parts := [(0, { part0 with tsgEn := true, tsg := 3 })] }

theorem wit_MapsCalendarsAndZeroing :
    (let s := { up with maps := ⟨some (map1 1 0), none, 0, some (map1 2 5), []⟩, time := { up.time with frame := 5 } };
      s.maps.cur = some (map1 1 0) ∧ s.maps.pend = some (map1 2 5) ∧ (map1 2 5).equinox ≤ s.time.frame ∧ s.time.frame < (map1 2 6).equinox) ∧
    (let s := { up with maps := ⟨none, some (map1 1 0), 5, none, []⟩, time := { up.time with frame := 5 } };
      s.maps.old ≠ none ∧ s.maps.oldEnd ≤ s.time.frame) ∧
    (let s := { up with maps := ⟨none, some (map1 1 0), 6, none, []⟩, time := { up.time with frame := 5 } }; s.time.frame < s.maps.oldEnd) ∧
    (let s := withGroup up 0 1; (groupAt s 3).pending = some (0, 0, 2, 1) ∧ 0 ≤ s.time.frame ∧ (partAt s 0).tsgEn = true ∧ (partAt s 0).tsg = 3) ∧
    ((groupAt (withGroup up 1 0) 3).pending = some (1, 0, 2, 0) ∧ up.time.frame < 1) ∧
    (partStateLast up 0 = 1) ∧
    (let s := { up with parts := [(127, { part0 with state := 4 })] };
      (partAt s 127).state = 4 ∧ (partAt s 127).waitDraw = false ∧ zeroed s 127 = true ∧ (partAt s 127).destroying = false) ∧
    (let c := { cmdOf (hdr opPART 2 0) [] with st := .waiting };
      let s := withCmd { up with parts := [(0, { part0 with state := 5, destroying := true })] } c;
      (partAt s 0).state = 5 ∧ (partAt s 0).waitDraw = false ∧ zeroed s 0 = true ∧ (partAt s 0).destroying = true ∧
        cmdAt s 1 = some c ∧ c.hdr.pcOp = 0x02 ∧ c.st = .waiting ∧ c.result = none ∧ replies s 1 = true) ∧
    ((partAt up 0).state ≠ 4 ∧ (partAt up 0).state ≠ 5) := by decide +kernel

def testing (u : RasUnit) (worse : Bool) (ts : List (RasUnit × Nat)) : State :=
  { up with ras := { up.ras with quar := [⟨u, 9, 0, worse, none, none, []⟩], transients := ts } }

theorem wit_UnitsAreTestedAndFenced :
    (unitPresent up (.slice 24575) = true ∧ reportOk (.slice 24575) 6 = true ∧ up.ras.fences = [] ∧ unitPresent up (.stack 23) = true ∧
      reportOk (.stack 23) 0x0B = true ∧ unitPresent up (.rowGroup 24575 8191) = true ∧ reportOk (.rowGroup 24575 8191) 1 = true ∧
      quarOf up (.rowGroup 24575 8191) = none ∧ quarOf up (.stack 23) = none) ∧
    (∃ f ∈ (fenced up (.slice 3)).ras.fences, f.unit = .slice 3) ∧
    (let s := testing (.laneGroup 23 15) false [(.laneGroup 23 15, 0)];
      (quarOf s (.laneGroup 23 15)).map (fun q => (q.requested, q.worse)) = some (none, false) ∧ recentTransients s (.laneGroup 23 15) < 2) ∧
    (2 ≤ recentTransients (testing (.laneGroup 23 15) false [(.laneGroup 23 15, 0), (.laneGroup 23 15, 0)]) (.laneGroup 23 15)) ∧
    (let s := { up with ras := { up.ras with bgEn := true, bgInterval := 16 }, time := { up.time with bint := 16 } };
      s.ras.bgEn = true ∧ s.ras.bgLast + s.ras.bgInterval ≤ s.time.bint) ∧
    (let s := { up with ras := { up.ras with bgEn := true, bgInterval := 16 }, time := { up.time with bint := 15 } };
      s.time.bint < s.ras.bgLast + s.ras.bgInterval) ∧
    (let s := withJob up { job0 .rowTest 0 (some 0) with page := 8191 };
      s.adm.jobs.find? (fun e => e.2.kind == .rowTest && e.2.slice == 0 && e.2.page == 8191 &&
        (match e.2.granted with
         | some f => decide (f ≤ s.time.frame)
         | none => false)) = some (1, { job0 .rowTest 0 (some 0) with page := 8191 }) ∧ quarOf s (.rowGroup 0 8191) = none ∧
        (sliceAt s 0).spares.length < 4) ∧
    (let s := updSlice up 0 (fun x => { x with spares := [(0, 0), (1, 1), (2, 2), (3, 3)] }); 4 ≤ (sliceAt s 0).spares.length) := by
  refine ⟨by decide +kernel, ⟨⟨.slice 3, 6, 0⟩, by decide, rfl⟩, ?_⟩
  decide +kernel

def withLane (x : Port) : State := { net with ports := [(0, x)] }

theorem wit_LanesAndPortsFollowTheirLinks :
    (Machine.laneOk net 0 7 = true ∧ Machine.laneOk net 0 8 = false ∧ quarOf net (laneUnit 0 7) = none ∧ (portAt net 0).lanes ≠ 0 ∧
      widthFor 0 ((goodLanes net 0).filter (fun x => x != 7)).length = 4 ∧ laneMap net 0 = false) ∧
    (let s := withLane { portAt net 0 with lmap := true };
      laneMap s 0 = true ∧ widthFor 0 ((goodLanes s 0).filter (fun x => x != 0)).length ≠ (portAt s 0).lanes) ∧
    (let s := withLane { portAt net 0 with lanes := 4, laneOut := 1 };
      widthFor 0 ((goodLanes s 0).filter (fun x => x != 7)).length = (portAt s 0).lanes) ∧
    (let s := withLane { portAt net 0 with lanes := 2, laneOut := 0xFC };
      widthFor 0 ((goodLanes s 0).filter (fun x => x != 1)).length = 0) ∧
    (let s := withLane { portAt net 0 with flapTimes := [(7, [1, 2, 3])] };
      3 ≤ ((mgetD (portAt s 0).flapTimes 7 []).filter (fun t => decide (1000000000 < t + 1000000000))).length ∧
        ((mgetD (portAt s 0).flapTimes 7 []).filter (fun t => decide (1000000001 < t + 1000000000))).length < 3) ∧
    (portPresent net 19 = true ∧ (portAt net 19).up = false ∧
      widthFor 19 ((List.range (laneCount 19)).filter (fun l => !bit (portAt net 19).laneOut l && bit 0xF l)).length ≠ 0 ∧
      widthFor 19 ((List.range (laneCount 19)).filter (fun l => !bit (portAt net 19).laneOut l && bit 7 l)).length = 0 ∧
      quarOf net (portUnit 19) = none ∧ net.ras.fences = []) := by decide +kernel

/-- A parked page's image: its key, whether it waits in staging, its block. -/
def img0 (key : Nat) (staged : Bool) : T2Image := { parkImage key 1 0 0 1 1 0 (zeros 512) with staged := staged, tag := [] }
def parked (key : Nat) (staged : Bool) (blk : Block) : State :=
  { up with ftl0 := { up.ftl0 with images := [(0, img0 key staged)], reads := [(1, (0, 0))], programs := [(0, 0)],
                                   channels := [(0, ⟨[(0, blk), (1, ⟨201, 0, true, false⟩)]⟩)] } }

theorem wit_NandKeepsParkedPages :
    (let s := parked 7 false ⟨0, 0, true, false⟩;
      (takeRead s 0 0 0).map (fun e => e.1) = some 1 ∧ mget (ftlAt s 0).images (t0Key 0 0) = some (img0 7 false) ∧
        parkTagOk (partKey s 0) 0 0 (img0 7 false) = true ∧ 0 = hubOfHandle 0 ∧ (hubAt s 0).lostPages.length < 262144 ∧
        parkTagOk (partKey s 0) 0 0 (img0 6 false) = false ∧ imagesIn s 0 0 = [(t0Key 0 0, img0 7 false)] ∧ 0 = hubOfChannel 0) ∧
    (let s := parked 7 true ⟨0, 0, true, false⟩;
      (ftlAt s 0).programs.contains (0, 0) = true ∧ (img0 7 true).staged = true ∧ hubOfChannel 0 = 0 ∧
        takesData s 0 0 (ceilDiv 512 16384) = true ∧ takesData s 0 1 (ceilDiv 512 16384) = false ∧ (ftlAt s 0).reads ≠ [] ∧
        (ftlAt { s with ftl0 := { s.ftl0 with reads := [] } } 0).reads = []) ∧
    (let s := parked 7 true ⟨0, 0, true, false⟩;
      blockExists s 0 0 = true ∧ (blockAt s 0 0).retired = false ∧ imagesIn s 0 0 = [] ∧ (ftlAt s 0).programs ≠ []) ∧
    (let s := parked 7 false ⟨0, 200000, true, false⟩;
      servesMoves s 0 = false ∧ servesMoves { s with ftl0 := { s.ftl0 with reads := [], programs := [] } } 0 = true ∧
      (moveBlock s 0 0 2).isSome = true ∧ (imagesIn s 0 0).isEmpty = false ∧ (blockAt s 0 0).erases = (eraseRange s 0).1 ∧
        (eraseRange s 0).1 + 200 < (eraseRange s 0).2 ∧ 200000 ≤ (blockAt s 0 0).reads) ∧
    (blockExists up 16 0 = false ∧ (blockAt (parked 7 false ⟨0, 0, true, true⟩) 0 0).retired = true) := by decide +kernel

/-! ## Bytes on the wire and in a bank -/

/-- Table 11-2, bit by bit: `PTYPE` 0x02, `TGEN` 3, `TC` 5, `ORD`, `KEYPH` 1, then three words. -/
theorem test_base_header : baseBytes ⟨0x01020304, 0x05060708, 0x090A0B0C, 1, true, 5, 3, 0x02⟩ =
    [0x02, 0xA3, 0x03, 0x00, 0x0C, 0x0B, 0x0A, 0x09, 0x08, 0x07, 0x06, 0x05, 0x04, 0x03, 0x02, 0x01] := by decide +kernel

/-- Table 11-9: `NPSN`, `MSN`, `PINDEX`, `REASON`, five bytes of zeros. -/
theorem test_nak_header : nakBytes ⟨0x0D, 0x0102, 0x03040506, 0x0708090A⟩ =
    [0x0A, 0x09, 0x08, 0x07, 0x06, 0x05, 0x04, 0x03, 0x02, 0x01, 0x0D, 0, 0, 0, 0, 0] := by decide +kernel

/-- The check value of the Ethernet CRC, of the digits 1 to 9 (IEEE 802.3). -/
theorem test_crc32 : crc32 [0x31, 0x32, 0x33, 0x34, 0x35, 0x36, 0x37, 0x38, 0x39] = 0xCBF43926 := by decide +kernel

/-- The words 0001, F203, F4F5 and F6F7 sum to DDF2 (RFC 1071). -/
theorem test_checksum : checksum [0x00, 0x01, 0xF2, 0x03, 0xF4, 0xF5, 0xF6, 0xF7] = 0xFFFF - 0xDDF2 := by decide +kernel

/-- One wrong symbol is corrected (R262). -/
theorem test_one_symbol : (dramReturns (.flips [(5, 1)]) (some stray)).toOption = some (stray, true) := by decide +kernel

/-! ## Witnesses: every step -/

theorem wit_ACommandChangesOnlyWhatItMay : ∃ t, exec .fwCommit up = .next t := ⟨_, rfl⟩

theorem wit_TheNodesIdentityOutlivesEveryStep :
    (∃ t, Sys2Proof.Machine.step { up with pending := [.fwCommit, .frameStart] } = .next t) ∧
    { up.crypto with ownerSet := true }.ownerSet = true := ⟨⟨_, rfl⟩, rfl⟩

theorem wit_EveryStepKeepsTheStateLegal :
    Legal { up with pending := [.fwCommit] } ∧ ∃ t, Sys2Proof.Machine.step { up with pending := [.fwCommit] } = .next t := by
  refine ⟨⟨by decide, by decide, by decide, fun d h => ?_, by decide, by decide, by decide, by decide, by decide, by decide⟩, ⟨_, rfl⟩⟩
  cases h

theorem wit_APageDecodesFromItsStoredForm : 7 ≤ 7 ∧ 5 ≤ 5 ∧ (zeros (rawSize 7 5)).length = rawSize 7 5 :=
  ⟨by decide, by decide, List.length_replicate⟩

/-! ## A package that verifies: SHA-384 of nothing is the digest of its three empty images, and its signature holds -/

def emptyDigest : Bytes :=
  [56, 176, 96, 167, 81, 172, 150, 56, 76, 217, 50, 126, 177, 177, 227, 106, 33, 253, 183, 17, 20, 190, 7, 67] ++
  [76, 12, 199, 191, 99, 246, 225, 218, 39, 78, 222, 191, 231, 111, 101, 251, 213, 26, 210, 241, 72, 152, 185, 91]

/-- Its bytes that are not 0: magic, version, `SVN`, length 416, three digests. -/
def package : SMap U8 :=
  [(0, 0x56), (1, 0x4C), (2, 0x46), (3, 0x57), (4, 3), (8, 1), (12, 160), (13, 1)] ++
    [32, 80, 128].flatMap (fun o => emptyDigest.zipIdx.map (fun e => (o + e.2, e.1)))

theorem wit_StagingAndCommittingFirmware_package (hash : sha384 [] = emptyDigest)
    (sig : ∀ bs n, Config.sigOk bs n = true) :
    let s := { up with fw := { up.fw with slot0 := package, slot1 := package } }
    packageErr s (1 - s.fw.running) = 0 ∧ bootSlot s = some (0, false) := by
  intro s
  have err : ∀ i, packageErr s i = 0 := by
    intro i
    have hm : fwSlot s i = package := by unfold fwSlot; split <;> rfl
    have d : ∀ j, j < 3 → imageDigest package j = emptyDigest := by
      intro j hj
      have : ∀ j, j < 3 → bread package (imageAt package j).1 (imageAt package j).2 = [] := by
        decide +kernel
      rw [imageDigest, this j hj, hash]
    have two : (List.range 3).any (fun j => bread package (32 + 48 * j) 48 != imageDigest package j) = false := by
      rw [List.any_eq_false]
      intro j hj
      rw [d j (by simpa using hj)]
      have : ∀ j, j < 3 → ¬((bread package (32 + 48 * j) 48 != emptyDigest) = true) := by decide +kernel
      exact this j (by simpa using hj)
    simp only [packageErr, hm, two, sig]
    decide +kernel
  exact ⟨err _, by simp only [bootSlot, packageOk, err]; rfl⟩

end Sys2Proof.Tests
end

section
/-!
What a stop takes back (R72, R727): the work a command has pending, and the outcome it leaves. With it, how an attending command
lays out its work or stops (R25, R140, R599).
-/

namespace Sys2Proof.Machine

/-! ## A slice's tables change without its sectors (R78, R107–R110) -/

theorem foldl_sectors {α : Type} {f : Slice → α → Slice} (hf : ∀ x a, (f x a).sectors = x.sectors) (xs : List α)
    (x : Slice) : (xs.foldl f x).sectors = x.sectors := by
  induction xs generalizing x with
  | nil => rfl
  | cons a xs ih => exact (ih (f x a)).trans (hf x a)

@[simp] theorem freeRun_sectors (x : Slice) (c n : Nat) : (freeRun x c n).sectors = x.sectors := by
  unfold freeRun; split <;> rfl

@[simp] theorem freeSum_sectors (x : Slice) (c off : Nat) : (freeSum x c off).sectors = x.sectors := by
  unfold freeSum
  split
  · rfl
  · dsimp only
    split
    · rw [freeRun_sectors]
    · rfl

@[simp] theorem releaseHeld_sectors (x : Slice) (n : Nat) : (releaseHeld x n).sectors = x.sectors := by
  unfold releaseHeld
  refine foldl_sectors (fun y h => ?_) _ _
  exact (foldl_sectors (fun z _ => freeSum_sectors z _ _) _ _).trans (foldl_sectors (fun z _ => freeRun_sectors z _ _) _ _)

@[simp] theorem metaSync_sectors (i key : Nat) (old new : Slice) : (metaSync i key old new).sectors = new.sectors := by
  unfold metaSync; dsimp only; split <;> rfl

@[simp] theorem setChain_sectors (x : Slice) (h : Nat) (xs : List (Nat × PageEnt)) : (setChain x h xs).sectors = x.sectors := by
  unfold setChain
  split
  · split <;> rfl
  · split <;> rfl

@[simp] theorem unlinkEnt_sectors (s : State) (i : Nat) (x : Slice) (h p : Nat) : (unlinkEnt s i x h p).sectors = x.sectors := by
  unfold unlinkEnt
  rw [metaSync_sectors]
  split
  · exact setChain_sectors _ _ _
  · exact setChain_sectors _ _ _

/-! ## Updates of several tables, in the terms of `Only` -/

theorem Only.cmdAt {F : List Field} {s t : State} (h : Only F s t) (hF : .cmds ∉ F) (cid : Nat) : cmdAt t cid = cmdAt s cid :=
  congrArg (fun x : SMap Cmd × Nat => mget x.1 cid) (h .cmds hF)

theorem Only.sameSectors {F : List Field} {s t : State} (h : Only F s t) (hF : .sectors ∉ F) : SameSectors s t :=
  fun i k => congrFun (congrFun (h .sectors hF) i) k

/-- Sectors are in the same place when every slice keeps its own. -/
theorem only_mapSlices (s : State) (f : Nat × Slice → Slice) (h : ∀ e, (f e).sectors = e.2.sectors) :
    Only [.slices] s { s with slices := s.slices.map (fun e => (e.1, f e)) } := by
  intro x hx
  cases x <;> first
    | rfl
    | (refine absurd ?_ hx; decide)
    | (funext i k
       simp only [view, sectorOf, sliceAt, mgetD, mget_map]
       cases mget s.slices i with
       | none => rfl
       | some y => simp only [Option.map_some, Option.getD_some, h])

theorem only_setWork (s : State) (es : List DueEff) (js : SMap Job) :
    Only [.effs, .jobs] s { s with adm := { s.adm with effs := es, jobs := js } } := by
  intro x hx; cases x <;> first | rfl | (refine absurd ?_ hx; decide)

theorem only_setOboe (s : State) (x : Oboe) : Only [.oboe] s { s with oboe := x } := by
  intro y hy; cases y <;> first | rfl | (refine absurd ?_ hy; decide)

theorem only_updFtl (s : State) (h : Nat) (f : Ftl → Ftl) : Only [.ftl] s (updFtl s h f) := by
  unfold updFtl
  refine Only.ite ?_ ?_ <;>
    (intro x hx; cases x <;> first | rfl | (refine absurd ?_ hx; decide))

/-- A hub's update changes what changing either hub's row to its result changes. -/
theorem only_updHub {F : List Field} (s : State) (h : Nat) (f : Hub → Hub)
    (h0 : Only F s { s with hub0 := f s.hub0 }) (h1 : Only F s { s with hub1 := f s.hub1 }) : Only F s (updHub s h f) := by
  unfold updHub setHub hubAt
  split
  · exact h1
  · exact h0

theorem only_updHub_lostPages (s : State) (h : Nat) (f : Hub → SMap Nat) :
    Only [.lostTables] s (updHub s h (fun y => { y with lostPages := f y })) := by
  refine only_updHub s h _ ?_ ?_ <;>
    (intro x hx; cases x <;> first | rfl | (refine absurd ?_ hx; decide))

theorem only_updHub_migs (s : State) (h : Nat) (f : Hub → SMap MigRec) :
    Only [.migs] s (updHub s h (fun y => { y with migs := f y })) := by
  refine only_updHub s h _ ?_ ?_ <;>
    (intro x hx; cases x <;> first | rfl | (refine absurd ?_ hx; decide))

theorem only_updHub_heldT0 (s : State) (h : Nat) (f : Hub → List (Nat × Nat × Nat)) :
    Only [.t0Pages] s (updHub s h (fun y => { y with heldT0 := f y })) := by
  refine only_updHub s h _ ?_ ?_ <;>
    (intro x hx; cases x <;> first | rfl | (refine absurd ?_ hx; decide))

theorem only_updHub_ctxs (s : State) (h : Nat) (f : Hub → SMap ReqCtx) (g : Hub → SMap (Nat × Nat)) :
    Only [.pool] s (updHub s h (fun y => { y with ctxs := f y, lostCtx := g y })) := by
  refine only_updHub s h _ ?_ ?_ <;>
    (intro x hx; cases x <;> first | rfl | (refine absurd ?_ hx; decide))

theorem only_setHub_t0 (s : State) (h : Nat) (m : SMap T0Page) :
    Only [.t0Pages] s (setHub s h { hubAt s h with t0 := m }) := by
  unfold setHub hubAt
  split <;> (intro x hx; cases x <;> first | rfl | (refine absurd ?_ hx; decide))

theorem only_updT0 (s : State) (h p : Nat) (f : Option T0Page → Option T0Page) : Only [.t0Pages] s (updT0 s h p f) := by
  unfold updT0 updHub
  dsimp only
  split <;> exact only_setHub_t0 _ _ _

/-! ## Taking back pending work -/

/-- What taking back a command's pending work may change. -/
def undoing : List Field :=
  [.jobs, .effs, .parts, .t0Pages, .migs, .lostTables, .slices, .oboe, .conns, .log, .ftl, .irq]

/-- What decides whether an outcome is sent: of a connection, if it is open and the messages it holds. -/
def linkOf (x : Conn) : Bool × SMap OutMsg := (x.opened, x.out)

def linksOf (s : State) : SMap (Bool × SMap OutMsg) := s.conns.map (fun e => (e.1, linkOf e.2))

/-- From s to t pending work is taken back: only its parts of the state change, and no connection and no message. -/
structure Undoes (s t : State) : Prop where
  only : Only undoing s t
  links : linksOf t = linksOf s

theorem Undoes.refl (s : State) : Undoes s s := ⟨Only.refl _ _, rfl⟩

theorem Undoes.trans {s t u : State} (h : Undoes s t) (k : Undoes t u) : Undoes s u :=
  ⟨h.only.trans k.only, k.links.trans h.links⟩

theorem Undoes.forAll {α : Type} {g : State → α → State} (hg : ∀ s a, Undoes s (g s a)) (s : State) (xs : List α) :
    Undoes s (forAll s xs g) := by
  induction xs generalizing s with
  | nil => exact Undoes.refl s
  | cons a xs ih => exact (hg s a).trans (ih (g s a))

theorem Undoes.ite {s t u : State} {p : Prop} [Decidable p] (h : Undoes s t) (k : Undoes s u) :
    Undoes s (if p then t else u) := by split <;> assumption

/-- A change of parts of the state other than the connections leaves the connections. -/
theorem Undoes.of_only {F : List Field} {s t : State} (h : Only F s t) (hF : ∀ f, f ∈ F → f ∈ undoing ∧ f ≠ .conns) :
    Undoes s t :=
  have conns : t.conns = s.conns := h .conns (fun hm => (hF _ hm).2 rfl)
  ⟨h.mono (fun f hf => (hF f hf).1), by simp only [linksOf, conns]⟩

theorem undoes_updSlice {s : State} {i : Nat} {f : Slice → Slice} (h : (f (sliceAt s i)).sectors = (sliceAt s i).sectors) :
    Undoes s (updSlice s i f) := .of_only (only_updSlice_tables s i f h) (by decide)

theorem undoes_raise (s : State) (code : Nat) (part : Option Nat) (subject data : Nat) :
    Undoes s (raise s code part subject data) where
  only := (only_raise s code part subject data).mono (by decide)
  links := by
    simp only [linksOf, raise, List.map_map]
    refine List.map_congr_left (fun e _ => ?_)
    obtain ⟨opened, out⟩ :=
      connEvent_base s ⟨code, if part.isNone then 2 else 0, part.getD 0, s.time.frame, subject, data⟩ part e.2
    simp only [Function.comp, linkOf, opened, out]

theorem undoes_nearFullCheck (s : State) (i : Nat) : Undoes s (nearFullCheck s i) := by
  unfold nearFullCheck
  refine Undoes.ite ?_ (Undoes.ite (undoes_updSlice rfl) (Undoes.refl s))
  exact (undoes_updSlice rfl).trans (Undoes.forAll (fun _ _ => undoes_raise _ _ _ _ _) _ _)

theorem undoes_holdFor (s : State) (i k f : Nat) (job : Option Nat) (extents : List (Nat × Nat)) (ents : List Nat)
    (sums : List (Nat × Nat)) : Undoes s (holdFor s i k f job extents ents sums) :=
  (undoes_updSlice (by rw [releaseHeld_sectors])).trans (undoes_nearFullCheck _ _)

theorem undoes_holdFree (s : State) (i k f : Nat) (extents : List (Nat × Nat)) (ents : List Nat) (sums : List (Nat × Nat)) :
    Undoes s (holdFree s i k f extents ents sums) := undoes_holdFor _ _ _ _ _ _ _ _

/-- A page's entry leaves its chain, and what it held is held back. -/
theorem undoes_unlink_holdFree (s : State) (i h p k f : Nat) (extents : List (Nat × Nat)) (ents : List Nat)
    (sums : List (Nat × Nat)) : Undoes s (holdFree (updSlice s i (fun y => unlinkEnt s i y h p)) i k f extents ents sums) :=
  (undoes_updSlice (unlinkEnt_sectors _ _ _ _ _)).trans (undoes_holdFree _ _ _ _ _ _ _)

theorem undoes_holdT0 (s : State) (k hub f n : Nat) : Undoes s (holdT0 s k hub f n) :=
  Undoes.ite (.of_only (only_releaseT0 _ _ _ _) (by decide)) (.of_only (only_updHub_heldT0 _ _ _) (by decide))

theorem undoes_dropT0Page (s : State) (h p f blocks part home : Nat) : Undoes s (dropT0Page s h p f blocks part home) :=
  Undoes.ite (Undoes.refl s) ((Undoes.of_only (only_updT0 _ _ _ _) (by decide)).trans (undoes_holdT0 _ _ _ _ _))

theorem undoes_dropImage (s : State) (h p : Nat) : Undoes s (dropImage s h p) := by
  unfold dropImage
  split
  · exact Undoes.refl s
  · exact .of_only (only_updFtl _ _ _) (by decide)

theorem undoes_setEffs (s : State) (es : List DueEff) : Undoes s { s with adm := { s.adm with effs := es } } :=
  .of_only (only_setWork s es s.adm.jobs) (by decide)

theorem undoes_setJobs (s : State) (js : SMap Job) : Undoes s { s with adm := { s.adm with jobs := js } } :=
  .of_only (only_setWork s s.adm.effs js) (by decide)

theorem undoes_dropCopy (s : State) (h p f : Nat) : Undoes s (dropCopy s h p f) := by
  unfold dropCopy
  split
  · refine Undoes.ite (Undoes.refl s) (Undoes.trans ?_ (Undoes.ite (Undoes.refl _)
      (Undoes.forAll (fun _ _ => undoes_unlink_holdFree _ _ _ _ _ _ _ _ _) _ _)))
    exact (undoes_setEffs s _).trans (.of_only (only_updHub_migs _ _ _) (by decide))
  · exact Undoes.refl s

theorem undoes_setOboe (s : State) (x : Oboe) : Undoes s { s with oboe := x } := .of_only (only_setOboe s x) (by decide)

theorem undoes_freePage (s : State) (h p f : Nat) : Undoes s (freePage s h p f) := by
  unfold freePage
  split
  · exact Undoes.refl s
  · rename_i x _
    have lost : Undoes s (forgetLost s h p) := .of_only (only_updHub_lostPages _ _ _) (by decide)
    have gone : ∀ {u}, Undoes s u →
        Undoes s (dropCopy (dropImage (dropT0Page u h p f x.r x.part x.home) h p) h p f) := fun hu =>
      ((hu.trans (undoes_dropT0Page _ _ _ _ _ _ _)).trans (undoes_dropImage _ _ _)).trans (undoes_dropCopy _ _ _ _)
    cases hent : entIn (sliceAt (forgetLost s h p) (homeSlice s h p)) h p with
    | none =>
      have jobs := gone (lost.trans (undoes_setJobs _ (mfilter (forgetLost s h p).adm.jobs (fun _ j => !j.of h p))))
      simp only [hent]
      split
      · exact jobs.trans (undoes_setOboe _ _)
      · exact jobs
    | some e =>
      have sealed : Undoes s (leaveSeal (forgetLost s h p) h p x e.2) := lost.trans (undoes_setJobs _ _)
      simp only [hent]
      refine Undoes.trans (Undoes.trans ?_ (undoes_updSlice (unlinkEnt_sectors _ _ _ _ _))) (undoes_holdFor _ _ _ _ _ _ _ _)
      split
      · exact (gone sealed).trans (undoes_setOboe _ _)
      · exact gone sealed

theorem undoes_undoPages (s : State) (c : Cmd) (f : Nat) : Undoes s (undoPages s c f) := by
  refine Undoes.forAll (fun s x => ?_) _ _
  split
  · exact Undoes.refl s
  · exact Undoes.ite (Undoes.refl s) (Undoes.forAll (fun s j => Undoes.ite (undoes_freePage _ _ _ _) (Undoes.refl s)) _ _)

/-- Taking back a command's pending work is such a change. -/
theorem undoes_cancelCmd (s : State) (cid : Nat) : Undoes s (cancelCmd s cid) := by
  unfold cancelCmd
  split
  · exact Undoes.refl s
  · refine Undoes.trans (Undoes.trans ?_ (Undoes.forAll (fun s e => ?_) _ _)) (Undoes.ite (undoes_undoPages _ _ _) (Undoes.refl _))
    · exact (Undoes.of_only (only_setWork s _ _) (by decide)).trans (.of_only (only_mapSlices _ _ (fun _ => rfl)) (by decide))
    · split
      · exact undoes_dropImage _ _ _
      · exact undoes_holdFree _ _ _ _ _ _ _
      · exact Undoes.forAll (fun s sl => Undoes.forAll (fun s en =>
          (undoes_dropT0Page _ _ _ _ _ _ _).trans (undoes_unlink_holdFree _ _ _ _ _ _ _ _ _)) _ _) _ _
      · split
        · exact Undoes.refl s
        · exact (Undoes.ite (undoes_holdT0 _ _ _ _ _) (Undoes.refl s)).trans (undoes_holdFree _ _ _ _ _ _ _)
      · exact Undoes.refl s

/-! ## A stop and the outcome it leaves (R727) -/

theorem recordLeft_eq (s : State) (cid : Nat) : recordLeft s cid =
    (linksOf s).any (fun e => e.2.2.any (fun m => m.2.cid == some cid && m.2.final && decide (0 < m.2.next))) := by
  simp only [recordLeft, linksOf, linkOf, List.any_map, Function.comp_def]

theorem recordLeft_congr {s t : State} (h : linksOf t = linksOf s) (cid : Nat) : recordLeft t cid = recordLeft s cid := by
  rw [recordLeft_eq, recordLeft_eq, h]

/-- A read of a map whose values are taken to another type. -/
theorem mget_map_vals {α β : Type} (m : SMap α) (f : α → β) (k : Nat) :
    mget (m.map (fun e => (e.1, f e.2))) k = (mget m k).map f := by
  induction m with
  | nil => rfl
  | cons e r ih =>
    simp only [List.map_cons, mget]
    split
    · rfl
    · exact ih

theorem opened_congr {s t : State} (h : linksOf t = linksOf s) (c : Nat) :
    (mget t.conns c).any (fun x => x.opened) = (mget s.conns c).any (fun x => x.opened) := by
  have key : ∀ u : State, (mget u.conns c).any (fun x => x.opened) = (mget (linksOf u) c).any (fun x => x.1) := fun u => by
    rw [linksOf, mget_map_vals, Option.any_map]; rfl
  rw [key, key, h]

/-- Whether an outcome is sent rests on the command's connection, its wish for a reply, and the messages of the connections. -/
theorem replies_congr {s t : State} {cid : Nat} {c d : Cmd} (hs : cmdAt s cid = some c) (ht : cmdAt t cid = some d)
    (hconn : d.conn = c.conn) (hquiet : d.noreply = c.noreply) (hl : linksOf t = linksOf s) : replies t cid = replies s cid := by
  simp only [replies, hs, ht, hconn, hquiet, recordLeft_congr hl, opened_congr hl]

/-- No record has left of a command whose outcome will be sent. -/
theorem recordLeft_of_replies {s : State} {cid : Nat} (h : replies s cid = true) : recordLeft s cid = false := by
  unfold replies at h
  split at h
  · cases h
  · simp only [Bool.and_eq_true, Bool.not_eq_true'] at h
    obtain ⟨⟨⟨hleft, -⟩, -⟩, -⟩ := h
    exact hleft

theorem only_releaseCtx (s : State) (hub slot : Nat) (lost : Option Nat) : Only [.pool, .parts] s (releaseCtx s hub slot lost) := by
  unfold releaseCtx
  split
  · exact Only.refl _ _
  · refine Only.trans (Only.trans ?_ ((only_releaseT0 _ _ _ _).mono (by decide)))
      (Only.ite ((only_releaseT0 _ _ _ _).mono (by decide)) (Only.refl _ _))
    exact (only_updHub_ctxs s hub _ _).mono (by decide)

theorem only_releaseNamed (s : State) (c : Cmd) : Only [.pool, .parts] s (releaseNamed s c) := by
  unfold releaseNamed
  refine Only.ite ?_ (Only.refl _ _)
  split
  · exact only_releaseCtx _ _ _ _
  · exact Only.refl _ _

/-- A stop changes what completing a command changes, and what the command holds. -/
theorem only_stopCmd (s : State) (cid : Nat) (o : Outcome0) (fires : Bool) : Only stops s (stopCmd s cid o fires) := by
  unfold stopCmd
  refine Only.ite (Only.refl _ _) ?_
  split
  · exact Only.refl _ _
  · refine Only.trans (Only.trans ?_ ((only_finishWith _ _ _ _ _).mono (by decide))) ((only_releaseNamed _ _).mono (by decide))
    exact ((undoes_cancelCmd s cid).only.mono (by decide)).trans ((only_noteOutcome _ _ _).mono (by decide))

/-- A stop touches no stored sector. -/
theorem stopCmd_sameSectors (s : State) (cid : Nat) (o : Outcome0) (fires : Bool) : SameSectors s (stopCmd s cid o fires) :=
  (only_stopCmd s cid o fires).sameSectors (by decide)

/-- A stopped command whose outcome will be sent keeps its place with that outcome, LATE when it was late. -/
theorem stopCmd_outcome {s : State} {cid : Nat} {c : Cmd} (hc : cmdAt s cid = some c) (hr : replies s cid = true)
    (o : Outcome0) (fires : Bool) :
    outcomeOf (stopCmd s cid o fires) cid = some { keepHandle s c o with late := (keepHandle s c o).late || c.late } := by
  have undone := undoes_cancelCmd s cid
  have hc' : cmdAt (noteOutcome (cancelCmd s cid) c o) cid = some c := by
    rw [cmdAt, noteOutcome_adm]; exact (undone.only.cmdAt (by decide) cid).trans hc
  have hl' : linksOf (noteOutcome (cancelCmd s cid) c o) = linksOf s := by
    rw [linksOf, noteOutcome_conns]; exact undone.links
  have hr' := (replies_congr hc hc' rfl rfl hl').trans hr
  have named : ∀ u, outcomeOf (releaseNamed u c) cid = outcomeOf u cid := fun u =>
    congrArg (fun d => d.bind (fun d => d.result)) ((only_releaseNamed u c).cmdAt (by decide) cid)
  unfold stopCmd
  rw [recordLeft_of_replies hr, if_neg Bool.false_ne_true, hc]
  exact (named _).trans (finishWith_outcome hc' hr' _ _ _)

/-! ## An attending command lays out its work (R25, R140) -/

/-- A command's work on the slices that hold the pages it takes, as `startAttend` lays it out. -/
def attendWork (sol : Bool) (v : State) (c : Cmd) (picks : List (AttStream × List Pick)) : SMap SliceWork :=
  ((picks.flatMap (fun e => e.2.filterMap (fun k => if k.p.ent.openT0 then none else some k.p.slice))).eraseDups).foldl
    (fun m i => mset m i (sliceTasks sol v c picks i)) []

/-- The work given to its slices. -/
def layWork (s : State) (cid : Nat) (work : SMap SliceWork) : State :=
  forAll s work (fun s e => updSlice s e.1 (fun x => { x with work := mset x.work cid e.2 }))

/-- The search results and bounds sent for a command, used up. -/
def Oboe.forget (x : Oboe) (cid : Nat) : Oboe := { x with results := mdel x.results cid, bounds := mdel x.bounds cid }

/-- An attending command in its place once its work is laid out. -/
def Cmd.attending (v : State) (picks : List (AttStream × List Pick)) (work : SMap SliceWork) (c : Cmd) : Cmd :=
  { c with
    st := .acted, prog := progOf v c.hdr
    omitted := (picks.map (fun e => (e.2.filter (fun k => k.us.isSome)).length)).sum
    attended := (picks.map (fun e => (e.2.filter (fun k => k.us.isNone)).length)).sum
    opens := openSnaps v picks work }

/-- With every page's summary read, the command's work is laid out. -/
theorem startAttend_ok {s : State} {op cid : Nat} {c : Cmd} (hc : actable s cid op = some c) {picks : List (AttStream × List Pick)}
    (hs : picks.map (fun e => e.1) = attStreams (viewAt s c.planD.start) c)
    (hp : ∀ e ∈ picks, pickStream s (viewAt s c.planD.start) cid c e.1 = .ok e.2) :
    let v := viewAt s c.planD.start
    let work := attendWork (partAt v c.hdr.part).solstice v c picks
    let u := layWork s cid work
    startAttend op cid s = updCmd { u with oboe := u.oboe.forget cid } cid (Cmd.attending v picks work) := by
  have read : (attStreams (viewAt s c.planD.start) c).map (fun a => (a, pickStream s (viewAt s c.planD.start) cid c a)) =
      picks.map (fun e => (e.1, .ok e.2)) := by
    rw [← hs, List.map_map]
    exact List.map_congr_left (fun e he => by simp only [Function.comp, hp e he])
  intro v work u
  unfold startAttend
  simp only [hc, read]
  split
  · rename_i k p hf
    obtain ⟨x, hx, he⟩ := List.exists_of_findSome?_eq_some hf
    obtain ⟨e, -, rfl⟩ := List.mem_map.mp hx
    cases he
  · have back : picks.filterMap (fun e => some (e.1, e.2)) = picks := List.filterMap_some
    simp only [List.filterMap_map, Function.comp_def, back]
    rfl

/-- The first stream with a page whose summary cannot be read ends the command. -/
theorem startAttend_error {s : State} {op cid : Nat} {c : Cmd} (hc : actable s cid op = some c) {pre rest : List AttStream}
    {a : AttStream} {p : Nat} (hs : attStreams (viewAt s c.planD.start) c = pre ++ a :: rest)
    (hpre : ∀ b ∈ pre, ∃ ks, pickStream s (viewAt s c.planD.start) cid c b = .ok ks)
    (ha : pickStream s (viewAt s c.planD.start) cid c a = .error p) :
    startAttend op cid s =
      stopCmd (acted s cid) cid (outcome stINTEGRITY (lossDetail false a.kvh 0x08 p) (endFrame s cid) 0 0) true := by
  have first : ∀ {β : Type} {f : AttStream → Option β} {y : β}, (∀ b ∈ pre, f b = none) → f a = some y →
      (pre ++ a :: rest).findSome? f = some y := fun hn hy => by
    rw [List.findSome?_append, List.findSome?_eq_none_iff.mpr hn, Option.none_or, List.findSome?_cons, hy]
  unfold startAttend
  simp only [hc, hs, List.findSome?_map]
  rw [first (y := (a.kvh, p))]
  · rfl
  · intro b hb
    obtain ⟨ks, hk⟩ := hpre b hb
    simp only [Function.comp, hk]
  · simp only [Function.comp, ha]

/-- Giving slices their work changes their tables and no sector. -/
theorem only_layWork (s : State) (cid : Nat) (work : SMap SliceWork) : Only [.slices] s (layWork s cid work) := by
  refine Only.forAll (fun s e => ?_) s work
  exact only_updSlice_tables s e.1 _ rfl

/-- A slice named in a work list has the work the list gives it, when the list gives each slice one. -/
theorem work_layWork {work : SMap SliceWork} {F : Nat → SliceWork} (hF : ∀ e ∈ work, e.2 = F e.1) (s : State) (cid i : Nat)
    (h : mget (sliceAt s i).work cid = some (F i) ∨ ∃ e ∈ work, e.1 = i) :
    mget (sliceAt (layWork s cid work) i).work cid = some (F i) := by
  induction work generalizing s with
  | nil =>
    obtain h | ⟨e, he, -⟩ := h
    · exact h
    · cases he
  | cons a r ih =>
    refine ih (fun e he => hF e (List.mem_cons_of_mem a he)) _ ?_
    by_cases hi : i = a.1
    · subst hi
      refine .inl ?_
      rw [sliceAt_updSlice_same, ← hF a List.mem_cons_self]
      exact mget_mset_same _ _ _
    · rw [sliceAt_updSlice_other _ _ _ _ hi]
      refine h.imp_right (fun ⟨e, he, hei⟩ => ?_)
      obtain rfl | hr := List.mem_cons.mp he
      · exact absurd hei.symm hi
      · exact ⟨e, hr, hei⟩

theorem mem_foldl_mset {α : Type} {F : Nat → α} {is : List Nat} {m : SMap α} {e : Nat × α}
    (he : e ∈ is.foldl (fun m i => mset m i (F i)) m) : e.2 = F e.1 ∨ e ∈ m := by
  induction is generalizing m with
  | nil => exact .inr he
  | cons i is ih =>
    obtain h | h := ih he
    · exact .inl h
    · obtain rfl | h := mem_mset h
      · exact .inl rfl
      · exact .inr h

theorem mget_foldl_mset {α : Type} {F : Nat → α} {is : List Nat} {m : SMap α} {i : Nat}
    (h : i ∈ is ∨ mget m i = some (F i)) : mget (is.foldl (fun m i => mset m i (F i)) m) i = some (F i) := by
  induction is generalizing m with
  | nil => exact h.resolve_left List.not_mem_nil
  | cons j is ih =>
    refine ih ?_
    by_cases hj : i = j
    · subst hj; exact .inr (mget_mset_same _ _ _)
    · rw [mget_mset_other _ _ _ _ hj]
      exact h.imp_left (fun hi => (List.mem_cons.mp hi).resolve_left hj)

/-- A page taken in a slice gives its slice the command's work there. -/
theorem mem_attendWork {sol : Bool} {v : State} {c : Cmd} {picks : List (AttStream × List Pick)} {e : AttStream × List Pick}
    {k : Pick} (he : e ∈ picks) (hk : k ∈ e.2) (ht : k.p.ent.openT0 = false) :
    (k.p.slice, sliceTasks sol v c picks k.p.slice) ∈ attendWork sol v c picks := by
  refine mget_mem (mget_foldl_mset (F := sliceTasks sol v c picks) (.inl (List.mem_eraseDups.mpr ?_)))
  exact List.mem_flatMap.mpr ⟨e, he, List.mem_filterMap.mpr ⟨k, hk, by simp only [ht, Bool.false_eq_true, if_false]⟩⟩

theorem attendWork_eq {sol : Bool} {v : State} {c : Cmd} {picks : List (AttStream × List Pick)} :
    ∀ e ∈ attendWork sol v c picks, e.2 = sliceTasks sol v c picks e.1 := fun _ he =>
  (mem_foldl_mset he).resolve_right List.not_mem_nil

/-- The rows of the attending commands, by opcode. -/
def attendingRows (cid : Nat) : List (Nat × Instr) :=
  [(opATTEND, .attend cid), (opVERIFY, .verify cid), (opSELECT, .select cid)]

/-- An attending command's row starts it, a SELECT when its search window has run; all three may change the same parts. -/
theorem exec_attending {cid : Nat} {row : Nat × Instr} (hrow : row ∈ attendingRows cid) {s : State}
    (hsel : row.1 = opSELECT → searchRun s cid = true) :
    exec row.2 s = .next (startAttend row.1 cid s) ∧ touches row.2 = stops := by
  simp only [attendingRows, List.mem_cons, List.not_mem_nil, or_false] at hrow
  obtain rfl | rfl | rfl := hrow
  · exact ⟨rfl, rfl⟩
  · exact ⟨rfl, rfl⟩
  · refine ⟨?_, rfl⟩
    show execSelect cid s = _
    rw [execSelect, hsel rfl, if_pos rfl]

/-- A SELECT whose search window has not run waits. -/
theorem exec_select_waits {cid : Nat} {row : Nat × Instr} (hrow : row ∈ attendingRows cid) (hop : row.1 = opSELECT) {s : State}
    (hrun : searchRun s cid = false) : exec row.2 s = .next s := by
  simp only [attendingRows, List.mem_cons, List.not_mem_nil, or_false] at hrow
  obtain rfl | rfl | rfl := hrow
  · exact absurd hop (show opATTEND ≠ opSELECT by decide)
  · exact absurd hop (show opVERIFY ≠ opSELECT by decide)
  · show execSelect cid s = _
    rw [execSelect, hrun, if_neg Bool.false_ne_true]

theorem actable_result {s : State} {cid op : Nat} {c : Cmd} (h : actable s cid op = some c) : c.result = none := by
  unfold actable at h
  split at h
  · cases h
  · simp only [Option.ite_none_right_eq_some, Option.some.injEq, Bool.and_eq_true] at h
    obtain ⟨⟨⟨-, hr⟩, -⟩, rfl⟩ := h
    exact Option.isNone_iff_eq_none.mp hr

/-- Only a VERIFY keeps a handle: an outcome of any other command is as given. -/
theorem keepHandle_verify (s : State) (c : Cmd) (o : Outcome0) :
    (if c.hdr.opcode = opVERIFY then keepHandle s c o else o) = keepHandle s c o := by
  refine ite_eq_left_iff.mpr (fun h => ?_)
  have hv : c.hdr.isVerify = false := beq_eq_false_iff_ne.mpr h
  unfold keepHandle
  simp only [hv, Bool.false_and, Bool.false_eq_true, if_false]

section
variable {s : State} {op cid : Nat} {c : Cmd} (hc : actable s cid op = some c)
include hc

/-- A command whose pages can all be read: its phase and counts, its work on the slices, and the frame. -/
theorem startAttend_lays {picks : List (AttStream × List Pick)}
    (hs : picks.map (fun e => e.1) = attStreams (viewAt s c.planD.start) c)
    (hp : ∀ e ∈ picks, pickStream s (viewAt s c.planD.start) cid c e.1 = .ok e.2) :
    let v := viewAt s c.planD.start
    let work := attendWork (partAt v c.hdr.part).solstice v c picks
    let t := startAttend op cid s
    cmdAt t cid = some (c.attending v picks work) ∧
    (∀ e ∈ picks, ∀ k ∈ e.2, k.p.ent.openT0 = false →
      mget (sliceAt t k.p.slice).work cid = some (sliceTasks (partAt v c.hdr.part).solstice v c picks k.p.slice)) ∧
    Only [.cmds, .slices, .oboe] s t := by
  intro v work t
  have ht : t = _ := startAttend_ok hc hs hp
  have laid := only_layWork s cid work
  refine ⟨?_, fun e he k hk hT0 => ?_, ?_⟩
  · have kept : cmdAt (layWork s cid work) cid = some c := (laid.cmdAt (by decide) cid).trans (actable_some hc).1
    rw [ht, cmdAt_updCmd_same]
    exact congrArg (Option.map _) kept
  · rw [ht]
    exact work_layWork attendWork_eq s cid _ (.inr ⟨_, mem_attendWork he hk hT0, rfl⟩)
  · rw [ht]
    exact ((laid.mono (by decide)).trans ((only_setOboe _ _).mono (by decide))).trans ((only_updCmd _ _ _).mono (by decide))

/-- A command with a page that cannot be read: it ends with INTEGRITY, a VERIFY whose context lives under its handle (R162). -/
theorem startAttend_ends {pre rest : List AttStream} {a : AttStream} {p : Nat} (hr : replies s cid = true)
    (hs : attStreams (viewAt s c.planD.start) c = pre ++ a :: rest)
    (hpre : ∀ b ∈ pre, ∃ ks, pickStream s (viewAt s c.planD.start) cid c b = .ok ks)
    (ha : pickStream s (viewAt s c.planD.start) cid c a = .error p) :
    let o := keepHandle s c (outcome stINTEGRITY (lossDetail false a.kvh 0x08 p) (endFrame s cid) 0 0)
    let t := startAttend op cid s
    outcomeOf t cid = some { o with late := o.late || c.late } ∧ Only stops s t ∧ SameSectors s t := by
  intro o t
  have ht : t = _ := startAttend_error hc hs hpre ha
  have hcmd := (actable_some hc).1
  have hcmd' : cmdAt (acted s cid) cid = some { c with st := .acted } := by
    rw [acted, cmdAt_updCmd_same, hcmd]; rfl
  have hr' := (replies_congr hcmd hcmd' rfl rfl rfl).trans hr
  have started : Only stops s (acted s cid) := (only_updCmd s cid _).mono (by decide)
  rw [ht]
  exact ⟨stopCmd_outcome hcmd' hr' _ _, started.trans (only_stopCmd _ _ _ _), stopCmd_sameSectors (acted s cid) _ _ _⟩

end

/-- Settles O23: the row starts the command (`exec_attending`), which lays out its work when every page's summary is read
(`startAttend_lays`) and stops at the first stream with one that is not (`startAttend_ends`). -/
theorem attendingCommandsLayOutTheirWork : Obligations.AttendingCommandsLayOutTheirWork := by
  unfold Obligations.AttendingCommandsLayOutTheirWork
  intro s cid c row hrow hc
  refine ⟨fun hop hrun => exec_select_waits hrow hop hrun, fun hsel => ?_⟩
  obtain ⟨hexec, htouch⟩ := exec_attending hrow hsel
  obtain ⟨hcmd, hop, -⟩ := actable_some hc
  have hres : c.result = none := actable_result hc
  rw [htouch]
  refine ⟨fun picks hs hp => ?_, fun pre a rest p hs hpre ha hr => ?_⟩
  · obtain ⟨hd, hwork, honly⟩ := startAttend_lays hc hs hp
    exact ⟨_, hexec, ⟨_, hd, rfl, rfl, hres, rfl, rfl⟩, hwork, honly.sameSectors (by decide), honly.mono (by decide)⟩
  · obtain ⟨hout, honly, hsectors⟩ := startAttend_ends hc hr hs hpre ha
    have shown : ∀ o, (if row.1 = opVERIFY then keepHandle s c o else o) = keepHandle s c o := hop ▸ keepHandle_verify s c
    refine ⟨_, hexec, ?_, htouch ▸ honly, hsectors⟩
    rw [hcmd, shown]
    exact hout

end Sys2Proof.Machine
end

section
/-!
The folds of the attending commands and of a `STATE_STEP` (R143–R148, R184–R187), and the lead that lacks a member's records
(R621).
-/

namespace Sys2Proof.Machine

/-! ## A message that is no record of a command (R147, R727) -/

theorem mem_mmod {α : Type} {m : SMap α} {k : Nat} {f : α → α} {e : Nat × α} (h : e ∈ mmod m k f) :
    e ∈ m ∨ ∃ v, mget m k = some v ∧ e = (k, f v) := by
  unfold mmod at h
  split at h
  · exact (mem_mset h).symm.imp_right (fun he => ⟨_, ‹_›, he⟩)
  · exact .inl h

theorem recordLeft_eq_false_iff {s : State} {cid : Nat} : recordLeft s cid = false ↔
    ∀ e ∈ s.conns, ∀ m ∈ e.2.out, (m.2.cid == some cid && m.2.final && decide (0 < m.2.next)) = false := by
  simp only [recordLeft, List.any_eq_false, Bool.not_eq_true]

/-- Queueing a message of no command sends no record of one. -/
theorem recordLeft_queueMsg {s : State} {cid : Nat} (h : recordLeft s cid = false) (k tc : Nat) (hdr : MsgHdr) (body : Bytes)
    (forPart : Nat) (final : Bool) (nb : Nat) : recordLeft (queueMsg s k tc hdr body forPart none final nb) cid = false := by
  unfold queueMsg
  split
  · exact h
  · split
    · exact h
    · refine recordLeft_eq_false_iff.mpr (fun e he m hm => ?_)
      rw [recordLeft_eq_false_iff] at h
      obtain he | ⟨x, hx, rfl⟩ := mem_mmod he
      · exact h e he m hm
      · obtain rfl | hm := mem_mset hm
        · rfl
        · exact h _ (mget_mem hx) m hm

/-- Who is connected is part of `connBase`. -/
theorem Only.opened {F : List Field} {s t : State} (h : Only F s t) (hF : .connBase ∉ F) (k : Nat) :
    (mget t.conns k).any (fun x => x.opened) = (mget s.conns k).any (fun x => x.opened) := by
  have base := congrArg (fun b => b.any (fun y => y.1)) (congrFun (h .connBase hF) k)
  simpa only [view, Option.any_map, Function.comp_def] using base

/-- Whether an outcome is sent does not rest on the messages of no command. -/
theorem replies_queueMsg {s : State} {cid : Nat} (h : replies s cid = true) (k tc : Nat) (hdr : MsgHdr) (body : Bytes)
    (forPart : Nat) (final : Bool) (nb : Nat) : replies (queueMsg s k tc hdr body forPart none final nb) cid = true := by
  have only := only_queueMsg s k tc hdr body forPart none final nb
  have left := recordLeft_queueMsg (recordLeft_of_replies h) k tc hdr body forPart final nb
  unfold replies at h ⊢
  rw [only.cmdAt (by decide)]
  split at h
  · cases h
  · simp only [Bool.and_eq_true] at h ⊢
    obtain ⟨⟨⟨-, hreply⟩, hconn⟩, hopen⟩ := h
    exact ⟨⟨⟨by rw [left]; rfl, hreply⟩, hconn⟩, (only.opened (by decide) _).trans hopen⟩

/-! ## A fold ends its command -/

/-- Clearing a command's work leaves every stored sector. -/
theorem only_clearWork (s : State) (cid : Nat) : Only [.slices] s (clearWork s cid) := only_mapSlices s _ (fun _ => rfl)

theorem exec_mergeFold (cid : Nat) (peers : List PeerRecord) (s : State) :
    exec (.mergeFold cid peers) s = .next (mergeFold cid peers s) := rfl

theorem exec_peerRecordMissing (cid missing : Nat) (s : State) :
    exec (.peerRecordMissing cid missing) s = .next (peerRecordMissing cid missing s) := rfl

/-- A member that does not lead hands its records to the lead in a gate (R147; DEDUCED, log 90), when they are connected. -/
def sendToLead (s : State) (cid : Nat) (c : Cmd) (gate : Nat) : State :=
  let own := ownRecords s cid c
  match boardConn s (leadPos s) with
  | some b => queueMsg s b 0 { resHdr c with av := false, answers := 0 }
      (statusRecord c.hdr c.chained false c.deferrals (attendOutcome c own (recordsBody c own 0)) ++ recordsBody c own 0)
      c.hdr.part none false gate
  | none => s

theorem only_sendToLead (s : State) (cid : Nat) (c : Cmd) (gate : Nat) :
    Only [.conns, .wire] s (sendToLead s cid c gate) := by
  unfold sendToLead
  dsimp only
  split
  · exact only_queueMsg _ _ _ _ _ _ _ _ _
  · exact Only.refl _ _

theorem replies_sendToLead {s : State} {cid : Nat} (h : replies s cid = true) (c : Cmd) (gate : Nat) :
    replies (sendToLead s cid c gate) cid = true := by
  unfold sendToLead
  dsimp only
  split
  · exact replies_queueMsg h _ _ _ _ _ _ _
  · exact h

section
variable {s : State} {cid : Nat} {c : Cmd} (hc : cmdAt s cid = some c)
include hc

/-- The row ends its command when, after messages at most, it clears the command's work and completes it. -/
theorem ends_mergeFold {u : State} {peers : List PeerRecord} {o : Outcome0} {gate : Nat}
    (hrun : mergeFold cid peers s = finishWith (clearWork u cid) cid o gate true) (hu : Only [.conns, .wire] s u)
    (hr : replies u cid = true) : Ends (.mergeFold cid peers) s cid o (fun t => SameSectors s t) := by
  have hcu : cmdAt u cid = some c := (hu.cmdAt (by decide) cid).trans hc
  have hcw : cmdAt (clearWork u cid) cid = some c := hcu
  have hrw : replies (clearWork u cid) cid = true := (replies_congr hcu hcw rfl rfl rfl).trans hr
  have honly : Only (completion ++ [.slices]) s (mergeFold cid peers s) := by
    rw [hrun]
    exact ((hu.mono (by decide)).trans ((only_clearWork u cid).mono (by decide))).trans
      ((only_finishWith _ _ _ _ _).mono (by decide))
  refine ⟨_, exec_mergeFold cid peers s, ?_, honly, honly.sameSectors (by decide)⟩
  rw [hrun, hc]
  exact finishWith_outcome hcw hrw o gate true

variable (hst : c.st = .acted) (hres : c.result = none)
include hst hres

/-- The row of an attending command folds once the service frame has come and every slice partial has left (R143). -/
theorem mergeFold_attending (hop : [opATTEND, opVERIFY, opSELECT].contains c.hdr.opcode = true) (peers : List PeerRecord) :
    mergeFold cid peers s =
      if s.time.frame < c.planD.service || !workReady s cid then s else foldAttend s cid c peers := by
  unfold mergeFold
  simp only [hc, hst, hres, hop, bne_self_eq_false, Option.isSome_none, Bool.or_false, Bool.false_eq_true, if_false, if_true]

/-- The row of a `STATE_STEP` sends its outputs once its output frame has come, and no re-run holds them (R186, R315). -/
theorem mergeFold_step (hop : c.hdr.opcode = opSTEP) (peers : List PeerRecord) :
    mergeFold cid peers s =
      if s.time.frame < c.planD.outFrame || c.outSent || outputsWait s cid then s else foldStep s cid c := by
  have hno : [opATTEND, opVERIFY, opSELECT].contains opSTEP = false := by decide
  unfold mergeFold
  simp only [hc, hst, hres, hno, hop, bne_self_eq_false, Option.isSome_none, Bool.or_false, Bool.false_eq_true, if_false, if_true]

end

/-! ## The fold of an attending command (R143, R144) -/

section
variable (s : State) (cid : Nat) (c : Cmd) (peers : List PeerRecord)

/-- Streams of one node: the fold of its own partials. -/
theorem foldAttend_alone (hg : groupOfCmd s c ≤ 1) :
    let own := ownRecords s cid c
    foldAttend s cid c peers = finishWith (clearWork s cid) cid (attendOutcome c own (recordsBody c own 0))
      (c.planD.service + 1 + b2n (c.late || peers.any (fun p => p.late))) true := by
  unfold foldAttend
  exact if_pos hg

/-- Every position of a group of g is this node's or one whose records have come. -/
theorem allHere_iff (g : Nat) : (List.range g).all (fun b => b == s.hw.pos || peers.any (fun p => p.pos == b)) = true ↔
    ∀ b, b < g → b = s.hw.pos ∨ ∃ p ∈ peers, p.pos = b := by
  simp only [List.all_eq_true, List.mem_range, Bool.or_eq_true, beq_iff_eq, List.any_eq_true]

/-- The lead waits for the records of every member. -/
theorem foldAttend_lead_waits (hg : 2 ≤ groupOfCmd s c) (hl : isLead s = true)
    (hm : ∃ b, b < groupOfCmd s c ∧ b ≠ s.hw.pos ∧ ∀ p ∈ peers, p.pos ≠ b) : foldAttend s cid c peers = s := by
  obtain ⟨b, hb, hpos, hno⟩ := hm
  have lacks : (List.range (groupOfCmd s c)).all (fun b => b == s.hw.pos || peers.any (fun p => p.pos == b)) = false :=
    Bool.eq_false_iff.mpr (fun h => ((allHere_iff s peers _).mp h b hb).elim hpos (fun ⟨p, hp, hpb⟩ => hno p hp hpb))
  unfold foldAttend
  simp only [if_neg (show ¬ groupOfCmd s c ≤ 1 by omega), hl, lacks, Bool.not_false, if_true]

/-- The lead folds the records of every member. -/
theorem foldAttend_lead (hg : 2 ≤ groupOfCmd s c) (hl : isLead s = true)
    (hm : ∀ b, b < groupOfCmd s c → b = s.hw.pos ∨ ∃ p ∈ peers, p.pos = b) :
    let all := mergedRecords s c (ownRecords s cid c) (groupOfCmd s c) peers
    let d := { c with late := c.late || peers.any (fun p => p.late) }
    foldAttend s cid c peers = finishWith (clearWork s cid) cid (attendOutcome d all (recordsBody d all flPeer))
      (c.planD.service + 1 + b2n d.late) true := by
  unfold foldAttend
  simp only [if_neg (show ¬ groupOfCmd s c ≤ 1 by omega), hl, (allHere_iff s peers _).mpr hm, Bool.not_true,
    Bool.false_eq_true, if_false, if_true]

/-- A member that does not lead sends its records and answers with its own status alone (DEDUCED, log 90). -/
theorem foldAttend_member (hg : 2 ≤ groupOfCmd s c) (hl : isLead s = false) :
    foldAttend s cid c peers =
      finishWith (clearWork (sendToLead s cid c (c.planD.service + 1 + b2n (c.late || peers.any (fun p => p.late)))) cid) cid
        (attendOutcome c (ownRecords s cid c) []) 0 true := by
  unfold foldAttend
  simp only [if_neg (show ¬ groupOfCmd s c ≤ 1 by omega), hl, Bool.false_eq_true, if_false]
  rfl

end

/-! ## The outputs of a `STATE_STEP` (R186) -/

section
variable {s : State} {cid : Nat} {c : Cmd}

/-- Outputs wait for every state of the step. -/
theorem foldStep_none (hb : stepOutputs s cid c = none) : foldStep s cid c = s := by
  unfold foldStep
  rw [hb]

/-- Outputs that leave before the completion frame go in an interim record, once. -/
theorem foldStep_interim {body : Bytes} (hb : stepOutputs s cid c = some body) (hf : c.planD.outFrame ≠ c.planD.cframe) :
    foldStep s cid c =
      updCmd (interim s cid stOK 0 c.planD.outFrame body (c.hdr.nhead * c.hdr.tok) (c.planD.outFrame + 1)) cid
        (fun d => { d with outSent := true }) := by
  unfold foldStep
  rw [hb]
  exact if_neg hf

/-- Outputs that leave in the completion frame end the step, a committing one's once every state is written. -/
theorem foldStep_final {body : Bytes} (hb : stepOutputs s cid c = some body) (hf : c.planD.outFrame = c.planD.cframe)
    (hw : c.hdr.commit = true → ∀ e ∈ s.slices, ∀ w ∈ mgetD e.2.states cid [], w.written = true) :
    foldStep s cid c =
      finishWith (clearWork s cid) cid ⟨stOK, 0, c.planD.cframe, c.hdr.nhead * c.hdr.tok, 0, body, c.late⟩
        (c.planD.outFrame + 1) true := by
  have written : (c.hdr.commit && s.slices.any (fun e => (mgetD e.2.states cid []).any (fun w => !w.written))) ≠ true := by
    intro h
    simp only [Bool.and_eq_true, List.any_eq_true, Bool.not_eq_true'] at h
    obtain ⟨hcommit, e, he, w, hmem, hnot⟩ := h
    exact Bool.false_ne_true (hnot.symm.trans (hw hcommit e he w hmem))
  unfold foldStep
  rw [hb]
  exact (if_pos hf).trans (if_neg written)

/-- The row of a `STATE_STEP` sends outputs that leave before the completion frame, and keeps the command. -/
theorem mergeFold_sends_outputs {peers : List PeerRecord} (hc : cmdAt s cid = some c) (hres : c.result = none)
    (hrun : mergeFold cid peers s = foldStep s cid c) {body : Bytes} (hb : stepOutputs s cid c = some body)
    (hf : c.planD.outFrame ≠ c.planD.cframe) :
    Completes (.mergeFold cid peers) s (fun t =>
      (cmdAt t cid).map (fun d => (d.outSent, d.result)) = some (true, none) ∧ SameSectors s t) := by
  have sent := only_interim s cid stOK 0 c.planD.outFrame body (c.hdr.nhead * c.hdr.tok) (c.planD.outFrame + 1)
  refine ⟨_, exec_mergeFold cid peers s, ?_⟩
  rw [hrun, foldStep_interim hb hf]
  refine ⟨?_, sent.sameSectors (by decide)⟩
  rw [cmdAt_updCmd_same, sent.cmdAt (by decide), hc]
  simp only [Option.map_some, hres]

end

/-! ## Records that a member does not send (R621) -/

section
variable {s : State} {cid : Nat} {c : Cmd} (hc : cmdAt s cid = some c)
include hc

/-- Past the service frame a lead that lacks another member's records stops the command, and reports the link. -/
theorem peerRecordMissing_eq {missing : Nat} (hst : c.st = .acted) (hres : c.result = none)
    (hop : [opATTEND, opVERIFY, opSELECT].contains c.hdr.opcode = true) (hw : workReady s cid = true) (hl : isLead s = true)
    (hf : c.planD.service < s.time.frame) (hm : missing % 2 ^ groupOfCmd s c ≠ 0)
    (hpos : bit (missing % 2 ^ groupOfCmd s c) s.hw.pos = false) :
    let m := missing % 2 ^ groupOfCmd s c
    let low := ((List.range 4).find? (fun b => bit m b)).getD 0
    peerRecordMissing cid missing s =
      raise (stopCmd s cid (outcome stFENCED (fencedDetail 0x01 m) c.planD.cframe 0 0) true) 0x0508 none
        (unitId (.blink (Nat.xor low s.hw.pos - 1))) m := by
  have late : decide (s.time.frame ≤ c.planD.service) = false := decide_eq_false (Nat.not_le.mpr hf)
  have lacks : (missing % 2 ^ groupOfCmd s c == 0) = false := beq_eq_false_iff_ne.mpr hm
  unfold peerRecordMissing
  simp only [hc, hst, hres, hop, hw, hl, hpos, late, lacks, bne_self_eq_false, Option.isSome_none, Bool.or_false, Bool.not_true,
    Bool.false_eq_true, if_false]
  rfl

/-- A row that stops a command and raises an event ends the command with the stop's outcome. -/
theorem ends_of_stop_raise {i : Instr} {o : Outcome0} {fires : Bool} {code subject data : Nat} {part : Option Nat}
    (hexec : exec i s = .next (raise (stopCmd s cid o fires) code part subject data)) (htouch : touches i = stops)
    (hr : replies s cid = true) : Ends i s cid (keepHandle s c o) (fun t => SameSectors s t) := by
  have raised := only_raise (stopCmd s cid o fires) code part subject data
  have honly : Only stops s (raise (stopCmd s cid o fires) code part subject data) :=
    (only_stopCmd s cid o fires).trans (raised.mono (by decide))
  refine ⟨_, hexec, ?_, htouch ▸ honly, honly.sameSectors (by decide)⟩
  rw [outcomeOf, raised.cmdAt (by decide), hc]
  exact stopCmd_outcome hc hr o fires

end

/-! ## Every fold -/

section
variable {s : State} {cid : Nat} {c : Cmd} {peers : List PeerRecord} (hc : cmdAt s cid = some c)
  (hrun : mergeFold cid peers s = foldAttend s cid c peers) (hr : replies s cid = true)
include hc hrun hr

/-- Alone, a node's own records end the command. -/
theorem ends_alone (hg : groupOfCmd s c ≤ 1) :
    Ends (.mergeFold cid peers) s cid (attendOutcome c (ownRecords s cid c) (recordsBody c (ownRecords s cid c) 0))
      (fun t => SameSectors s t) :=
  ends_mergeFold hc (hrun.trans (foldAttend_alone s cid c peers hg)) (Only.refl _ s) hr

/-- On the lead, the merged records of every member end it. -/
theorem ends_lead (hg : 2 ≤ groupOfCmd s c) (hl : isLead s = true)
    (hm : ∀ b, b < groupOfCmd s c → b = s.hw.pos ∨ ∃ p ∈ peers, p.pos = b) :
    let all := mergedRecords s c (ownRecords s cid c) (groupOfCmd s c) peers
    let d := { c with late := c.late || peers.any (fun p => p.late) }
    Ends (.mergeFold cid peers) s cid (attendOutcome d all (recordsBody d all flPeer)) (fun t => SameSectors s t) :=
  ends_mergeFold hc (hrun.trans (foldAttend_lead s cid c peers hg hl hm)) (Only.refl _ s) hr

/-- On another member, its status alone ends it. -/
theorem ends_member (hg : 2 ≤ groupOfCmd s c) (hl : isLead s = false) :
    Ends (.mergeFold cid peers) s cid (attendOutcome c (ownRecords s cid c) []) (fun t => SameSectors s t) :=
  ends_mergeFold hc (hrun.trans (foldAttend_member s cid c peers hg hl)) (only_sendToLead s cid c _) (replies_sendToLead hr c _)

end

/-- Settles O49: the row of an attending command (`mergeFold_attending`) ends it on a node alone, a lead and another member
(`ends_alone`, `ends_lead`, `ends_member`), a missing record stops it (`peerRecordMissing_eq`), and the row of a `STATE_STEP`
(`mergeFold_step`) sends its outputs or ends it (`mergeFold_sends_outputs`, `foldStep_final`). -/
theorem foldsEndTheAttendingCommands : Obligations.FoldsEndTheAttendingCommands := by
  unfold Obligations.FoldsEndTheAttendingCommands
  intro s cid c peers hc hst hres
  refine ⟨fun hop => ?_, fun hop hsent hwait hframe => ?_⟩
  · have row := mergeFold_attending hc hst hres hop peers
    refine ⟨fun hnot => ?_, fun hframe hready hr => ?_⟩
    · have waits : (decide (s.time.frame < c.planD.service) || !workReady s cid) = true := by
        simpa only [Bool.or_eq_true, decide_eq_true_eq, Bool.not_eq_true'] using hnot
      rw [exec_mergeFold, row, if_pos waits]
    · have hrun : mergeFold cid peers s = foldAttend s cid c peers := by
        simp only [row, hready, decide_eq_false (Nat.not_lt.mpr hframe), Bool.not_true, Bool.or_false, Bool.false_eq_true, if_false]
      refine ⟨ends_alone hc hrun hr, fun hg hl => ⟨fun hm => ?_, ends_lead hc hrun hr hg hl⟩, ends_member hc hrun hr, ?_⟩
      · rw [exec_mergeFold, hrun, foldAttend_lead_waits s cid c peers hg hl hm]
      · intro missing hl hf hm hpos
        have stopped := peerRecordMissing_eq hc hst hres hop hready hl hf hm hpos
        exact ends_of_stop_raise hc ((exec_peerRecordMissing cid missing s).trans (congrArg _ stopped)) rfl hr
  · have hrun : mergeFold cid peers s = foldStep s cid c := by
      simp only [mergeFold_step hc hst hres hop peers, hsent, hwait, decide_eq_false (Nat.not_lt.mpr hframe), Bool.or_false,
        Bool.false_eq_true, if_false]
    refine ⟨fun hb => ?_, fun body hb => ⟨mergeFold_sends_outputs hc hres hrun hb, fun hf hr hw => ?_⟩⟩
    · rw [exec_mergeFold, hrun, foldStep_none hb]
    · exact ends_mergeFold hc (hrun.trans (foldStep_final hb hf hw)) (Only.refl _ s) hr

end Sys2Proof.Machine
end

section
/-!
Long sequences that re-run and request contexts that expire (R168, R186, R189, R315).
-/

namespace Sys2Proof.Machine

/-! ## Holding and releasing what an owner has pending (R189, R315) -/

/-- What the re-run of a long sequence may change. -/
def rerunning : List Field :=
  [.jobs, .cmds, .effs, .chains, .conns]

theorem only_shiftEffs (s : State) (o f : Nat) : Only [.effs, .jobs] s (shiftEffs s o f) := only_setWork s _ _

theorem only_shiftTrig (s : State) (o f : Nat) : Only [.chains] s (shiftTrig s o f) := only_setChains s _

/-- Messages are held where they are: who is connected stays. -/
theorem only_shiftMsgs (s : State) (o f : Nat) (g : Bytes → Bytes) : Only [.conns] s (shiftMsgs s o f g) := by
  intro x hx
  cases x <;> first
    | rfl
    | (refine absurd ?_ hx; decide)
    | (funext k; simp only [view, shiftMsgs, mget_map, Option.map_map]; rfl)

theorem only_releaseOwner (s : State) (o cf out : Nat) : Only rerunning s (releaseOwner s o cf out) := by
  have shifted : Only rerunning s (shiftTrig (shiftEffs s o (cf + 1)) o cf) :=
    ((only_shiftEffs s o _).mono (by decide)).trans ((only_shiftTrig _ o cf).mono (by decide))
  unfold releaseOwner
  dsimp only
  split
  · exact shifted.trans ((only_updJob _ _ _).mono (by decide))
  · exact (shifted.trans ((only_updCmd _ o _).mono (by decide))).trans ((only_shiftMsgs _ o _ _).mono (by decide))

theorem releaseOwner_effs (s : State) (o cf out : Nat) :
    (releaseOwner s o cf out).adm.effs = (shiftEffs s o (cf + 1)).adm.effs := by
  unfold releaseOwner
  dsimp only
  split <;> rfl

/-- A released owner's changes take effect in the frame after its completion frame. -/
theorem releaseOwner_eff_frame {s : State} {o cf out : Nat} {f : DueEff} (hf : f ∈ (releaseOwner s o cf out).adm.effs)
    (ho : f.cid = o) : f.frame = cf + 1 := by
  rw [releaseOwner_effs] at hf
  obtain ⟨x, -, rfl⟩ := List.mem_map.mp hf
  by_cases hx : x.cid = o
  · rw [if_pos hx]
  · rw [if_neg hx] at ho
    exact absurd ho hx

/-- A released command completes in frame cf; outputs that have not left go in frame `out` (R186). -/
theorem releaseOwner_plan {s : State} {o : Nat} {c : Cmd} (hc : cmdAt s o = some c) (cf out : Nat) :
    (cmdAt (releaseOwner s o cf out) o).map (fun d => d.plan) = some (c.plan.map (fun p =>
      { p with cframe := cf, service := cf, outFrame := if c.outSent then p.outFrame else out })) := by
  have hshift : cmdAt (shiftTrig (shiftEffs s o (cf + 1)) o cf) o = some c := hc
  unfold releaseOwner
  simp only [hshift]
  show (cmdAt (updCmd _ o _) o).map _ = _
  rw [cmdAt_updCmd_same, hshift]
  rfl

/-! ## The other re-runs of an owner (R186, R315) -/

/-- A job is a re-run of an owner that has still to be planned. -/
def Job.Reruns (o : Nat) (y : Job) : Prop := y.kind = .rerun ∧ y.cid = o ∧ y.acted = false

/-- A job keeps frames no earlier than a completion frame and an output frame. -/
def Job.Keeps (cf out : Nat) (y : Job) : Prop := cf ≤ y.frames.1 ∧ out ≤ y.frames.2

/-- A re-run of an owner that has still to be planned keeps the frames another one gives. -/
def keepFrames (o cf out : Nat) (s : State) (e : Nat × Job) : State :=
  if e.2.kind == .rerun && e.2.cid == o && !e.2.acted then
    updJob s e.1 (fun y => { y with frames := (max y.frames.1 cf, max y.frames.2 out) })
  else s

theorem keepFrames_of_reruns {o : Nat} {e : Nat × Job} (h : e.2.Reruns o) (cf out : Nat) (s : State) :
    keepFrames o cf out s e =
      updJob s e.1 (fun y => { y with frames := (max y.frames.1 cf, max y.frames.2 out) }) := by
  obtain ⟨hk, ho, ha⟩ := h
  refine if_pos ?_
  simp only [hk, ho, ha, beq_self_eq_true, Bool.not_false, Bool.and_self]

theorem keepFrames_of_not_reruns {o : Nat} {e : Nat × Job} (h : ¬ e.2.Reruns o) (cf out : Nat) (s : State) :
    keepFrames o cf out s e = s := by
  refine if_neg (fun hb => h ?_)
  simp only [Bool.and_eq_true, beq_iff_eq, Bool.not_eq_true'] at hb
  obtain ⟨⟨hk, ho⟩, ha⟩ := hb
  exact ⟨hk, ho, ha⟩

theorem only_keepFrames (o cf out : Nat) (s : State) (e : Nat × Job) : Only [.jobs] s (keepFrames o cf out s e) :=
  Only.ite (only_updJob s _ _) (Only.refl _ s)

/-- After the work on a list, a re-run that kept the frames before, or is in the list, keeps them. -/
theorem keeps_forAll_keepFrames {o cf out m : Nat} {es : List (Nat × Job)} {s : State}
    (h : ∀ y, jobAt s m = some y → y.Reruns o → y.Keeps cf out ∨ ∃ x : Job, (m, x) ∈ es ∧ x.Reruns o) {y : Job}
    (hy : jobAt (forAll s es (keepFrames o cf out)) m = some y) (hr : y.Reruns o) : y.Keeps cf out := by
  induction es generalizing s with
  | nil => exact (h y hy hr).resolve_right (fun ⟨_, hx, _⟩ => List.not_mem_nil hx)
  | cons a es ih =>
    refine ih (s := keepFrames o cf out s a) (fun z hz hzr => ?_) hy
    by_cases ha : m = a.1 ∧ a.2.Reruns o
    · obtain ⟨rfl, har⟩ := ha
      rw [keepFrames_of_reruns har, jobAt_updJob_same] at hz
      obtain ⟨w, -, rfl⟩ := Option.map_eq_some_iff.mp hz
      exact .inl ⟨Nat.le_max_right _ _, Nat.le_max_right _ _⟩
    · have same : jobAt (keepFrames o cf out s a) m = jobAt s m := by
        by_cases har : a.2.Reruns o
        · rw [keepFrames_of_reruns har, jobAt_updJob_other _ _ _ _ (fun hm => ha ⟨hm, har⟩)]
        · rw [keepFrames_of_not_reruns har]
      refine (h z (same ▸ hz) hzr).imp_right (fun ⟨x, hx, hxr⟩ => ⟨x, ?_, hxr⟩)
      obtain rfl | hx := List.mem_cons.mp hx
      · exact absurd ⟨rfl, hxr⟩ ha
      · exact hx

/-! ## The row of a planned re-run (R189, R315) -/

/-- The jobs once a re-run is planned: it is done with its completion frame e. -/
def rerunPlanned (s : State) (n e : Nat) : State :=
  if s.time.frame < e then updJob s n (fun y => { y with acted := true }) else delJob s n

theorem only_rerunPlanned (s : State) (n e : Nat) : Only [.jobs] s (rerunPlanned s n e) :=
  Only.ite (only_updJob s n _) (only_delJob s n)

theorem touches_longSequenceRerun (n : Nat) : touches (.longSequenceRerun n) = rerunning := rfl

theorem exec_longSequenceRerun (n : Nat) (s : State) : exec (.longSequenceRerun n) s = .next (longSequenceRerun n s) := rfl

section
variable {s : State} {n e : Nat} {j : Job} (hj : jobAt s n = some j) (he : j.granted = some e)
include hj he

/-- While another re-run of its owner waits, the frames go to that one; the last one releases the owner. -/
theorem longSequenceRerun_due {c : Cmd} (hk : j.kind = .rerun) (ha : j.acted = false) (hc : cmdAt s j.cid = some c)
    (hf : (if c.hdr.opcode = opSTEP then j.target else e) ≤ s.time.frame) :
    let cf := max j.frames.1 (max e s.time.frame)
    let out := max j.frames.2 j.target
    let t := rerunPlanned s n e
    longSequenceRerun n s =
      if rerunDue t j.cid then forAll t t.adm.jobs (keepFrames j.cid cf out) else releaseOwner t j.cid cf out := by
  unfold longSequenceRerun
  simp only [hj, hk, he, ha, hc, Option.any_some, beq_iff_eq, Nat.not_lt.mpr hf, bne_self_eq_false, decide_false, Bool.or_self,
    Bool.false_eq_true, if_false]
  rfl

/-- A re-run of an owner other than a `STATE_STEP` waits for its completion frame. -/
theorem longSequenceRerun_waits (hstep : ∀ c, cmdAt s j.cid = some c → c.hdr.opcode ≠ opSTEP) (hf : s.time.frame < e) :
    longSequenceRerun n s = s := by
  have other : (cmdAt s j.cid).any (fun c => c.hdr.opcode == opSTEP) = false := by
    cases hc : cmdAt s j.cid with
    | none => rfl
    | some c => exact beq_eq_false_iff_ne.mpr (hstep c hc)
  unfold longSequenceRerun
  simp only [hj, he, other, hf, Bool.false_eq_true, if_false, decide_true, Bool.or_true, if_true]

end

/-! ## Expired request contexts (R168) -/

theorem touches_vpoolHoldExpiry (hub slot : Nat) : touches (.vpoolHoldExpiry hub slot) = [.parts, .pool] := rfl

theorem exec_vpoolHoldExpiry (hub slot : Nat) (s : State) :
    exec (.vpoolHoldExpiry hub slot) s = .next (vpoolHoldExpiry hub slot s) := rfl

/-- Releasing a context removes it from its slot and remembers its handle under the detail given. -/
theorem releaseCtx_lost {s : State} {hub slot : Nat} {x : ReqCtx} (hx : mget (hubAt s hub).ctxs slot = some x) (d : Nat) :
    (hubAt (releaseCtx s hub slot (some d)) hub).ctxs = mdel (hubAt s hub).ctxs slot ∧
    (hubAt (releaseCtx s hub slot (some d)) hub).lostCtx =
      mset (hubAt s hub).lostCtx slot (x.part * 2 ^ 19 + x.gen, d) := by
  have hubs : ∀ u k h b, hubAt (releaseT0 u k h b) hub = hubAt u hub := fun _ _ _ _ => rfl
  unfold releaseCtx
  simp only [hx]
  split <;> simp only [hubs, hubAt_updHub_same, and_self]

/-- Settles O51: a planned re-run (`longSequenceRerun_due`) gives its frames to the others of its owner
(`keeps_forAll_keepFrames`) or, as the last, releases the owner (`releaseOwner_eff_frame`, `releaseOwner_plan`), one that is not
due waits (`longSequenceRerun_waits`), and a context past its hold is released and remembered (`releaseCtx_lost`). -/
theorem rerunsAndHeldContexts : Obligations.RerunsAndHeldContexts := by
  unfold Obligations.RerunsAndHeldContexts
  intro s
  refine ⟨fun n j e c hj hk he ha hc hf => ?_, fun n j e hj _ he hstep hf => ?_, fun hub slot x hx => ⟨fun hexp => ?_, fun hexp => ?_⟩⟩
  · intro cf out rest
    have row : longSequenceRerun n s =
        if rerunDue rest j.cid then forAll rest rest.adm.jobs (keepFrames j.cid cf out) else releaseOwner rest j.cid cf out :=
      longSequenceRerun_due hj he hk ha hc hf
    have planned : Only [.jobs] s rest := only_rerunPlanned s n e
    refine ⟨_, exec_longSequenceRerun n s, ?_⟩
    rw [row, touches_longSequenceRerun]
    cases hdue : rerunDue rest j.cid with
    | true =>
      have honly : Only [.jobs] s (forAll rest rest.adm.jobs (keepFrames j.cid cf out)) :=
        planned.trans (Only.forAll (only_keepFrames j.cid cf out) _ _)
      rw [if_pos rfl]
      refine ⟨honly.mono (by decide), fun _ => ⟨honly .effs (by decide), ?_, fun m y hy hyk hyc hya => ?_⟩, nofun⟩
      · exact congrArg Prod.fst (honly .cmds (by decide))
      · exact keeps_forAll_keepFrames (fun z hz hzr => .inr ⟨z, mget_mem hz, hzr⟩) hy ⟨hyk, hyc, hya⟩
    | false =>
      have hcmd : cmdAt rest j.cid = some c := (planned.cmdAt (by decide) _).trans hc
      rw [if_neg Bool.false_ne_true]
      exact ⟨(planned.mono (by decide)).trans (only_releaseOwner _ _ _ _), nofun,
        fun _ => ⟨fun _ => releaseOwner_eff_frame, releaseOwner_plan hcmd cf out⟩⟩
  · rw [exec_longSequenceRerun, longSequenceRerun_waits hj he hstep hf]
  · obtain ⟨hctxs, hlost⟩ := releaseCtx_lost hx 3
    have row : vpoolHoldExpiry hub slot s = releaseCtx s hub slot (some 3) := by
      unfold vpoolHoldExpiry
      simp only [hx, if_pos hexp]
    refine ⟨_, exec_vpoolHoldExpiry hub slot s, ?_⟩
    rw [row, touches_vpoolHoldExpiry]
    refine ⟨?_, fun hrise => ?_, (only_releaseCtx s hub slot _).mono (by decide)⟩
    · rw [hlost]
      exact mget_mset_same _ _ _
    · rw [hctxs]
      exact mget_mdel_same _ hrise
  · have row : vpoolHoldExpiry hub slot s = s := by
      unfold vpoolHoldExpiry
      simp only [hx, if_neg (Nat.not_lt.mpr hexp)]
    rw [exec_vpoolHoldExpiry, row]

end Sys2Proof.Machine
end
